-- ==== Sys2Proof/Word.lean ====
section
/-! DEFINITION. The machine's words and the plainest bit-field helpers (R2, R3).
Bit 0 is the least significant bit of every word; multi-byte values are stored
least significant byte first. -/

namespace Sys2Proof

/-- A 64-bit scalar value, address or instruction word. -/
abbrev Word := BitVec 64
/-- One byte of storage. -/
abbrev Byte := BitVec 8
/-- A clock tag or clock index k0 to k127 (R178). -/
abbrev Tag := BitVec 7
/-- The 512 bytes of a vector register, a delay register or a queue entry. -/
abbrev Vec := BitVec 4096

/-- `fld w lo n` is bits `lo + n - 1 : lo` of `w` (R3). -/
abbrev fld {m : Nat} (w : BitVec m) (lo n : Nat) : BitVec n := w.extractLsb' lo n

/-- The value with bits `hi:lo` set and every other bit clear. -/
def bitMask (hi lo : Nat) : Word := BitVec.ofNat 64 (2 ^ (hi + 1) - 2 ^ lo)

/-- A mask of several bit ranges. -/
def rangesMask : List (Nat × Nat) → Word
  | [] => 0
  | (hi, lo) :: rest => bitMask hi lo ||| rangesMask rest

/-- Sign extension to 64 bits (R217). -/
abbrev sx {n : Nat} (w : BitVec n) : Word := w.signExtend 64
/-- Zero extension to 64 bits. -/
abbrev zx {n : Nat} (w : BitVec n) : Word := w.setWidth 64

end Sys2Proof
end

