-- ==== Sys2Proof/Syntax.lean ====
section
/-! DEFINITION. The syntax of the machine's steps: one constructor of `Instr` for each row of
spec/opcode_table.json. The rows are the instructions of the opcode map (R227) and the device's
own events, each whole and indivisible (95_what_each_step_holds). Operand fields keep the names
of the formats (R219 to R225, R61, R62, R112). -/

namespace Sys2Proof

/-! ### Codes -/

/-- The element formats of R188. -/
inductive ElemType where
  | int32 | int16 | int8 | int4 | nat32 | nat16 | nat8 | nat4 | fp32 | bf16 | fp16 | cb4
  deriving DecidableEq, Repr

/-- Branch conditions of R219. -/
inductive Cond where
  | eq | ne | lt | ge | ltu | geu
  deriving DecidableEq, Repr

/-- Vector comparison conditions of R267. -/
inductive VCond where
  | eq | ne | lt | le | gt | ge
  deriving DecidableEq, Repr

/-- UNION policies of R220. -/
inductive Policy where
  | first | second | add | max
  deriving DecidableEq, Repr

/-- Scalar access widths of R80. -/
inductive MemWidth where
  | i8 | i16 | i32 | nat8 | nat16 | nat32 | x64
  deriving DecidableEq, Repr

/-- PROBE kinds of R89. -/
inductive ProbeKind where
  | read | write | fetch
  deriving DecidableEq, Repr

/-- Atomic operand types of R147. -/
inductive AmoType where
  | i32 | nat32 | i64 | nat64 | f32
  deriving DecidableEq, Repr

/-- Memory orders of an atomic (R144). -/
inductive MemOrd where
  | none | acq | rel | ar
  deriving DecidableEq, Repr

/-- Scopes of R126. -/
inductive Scope where
  | ce | cl | di | dv | sy
  deriving DecidableEq, Repr

/-- Generator kinds of R224. -/
inductive GenKind where
  | sign | uniform | gauss | ropeCos | ropeSin | maskCausal | maskBand | maskKeep
  deriving DecidableEq, Repr

/-! ### Operand fields -/

/-- The bits 63:53 of a word that a queue executes: token bits (R9) and clock index (R8). -/
structure Hdr where
  tok : BitVec 4
  clk : Tag
  deriving DecidableEq, Repr

/-- `op sD, sA, sB` (AL register layout, R220). -/
structure SRR where
  clk : Tag
  d : BitVec 6
  a : BitVec 6
  ua : Bool
  b : BitVec 6
  ub : Bool
  deriving DecidableEq, Repr

/-- `op sD, sA, imm` (AL immediate layout, R220). -/
structure SRI where
  clk : Tag
  d : BitVec 6
  a : BitVec 6
  ua : Bool
  imm : BitVec 31
  deriving DecidableEq, Repr

/-- `op sD, sA, amount` (opcode 0x20, R254). -/
structure SShift where
  clk : Tag
  d : BitVec 6
  a : BitVec 6
  ua : Bool
  amt : BitVec 6
  deriving DecidableEq, Repr

/-- `op sD, sA` (R255). -/
structure SUn where
  clk : Tag
  d : BitVec 6
  a : BitVec 6
  ua : Bool
  deriving DecidableEq, Repr

/-- Scalar PRE and FBY: `op sD, sA, dN` (R245). -/
structure SDelay where
  clk : Tag
  d : BitVec 6
  a : BitVec 6
  ua : Bool
  dl : BitVec 4
  deriving DecidableEq, Repr

/-- LOOP, register layout (R219). -/
structure LoopReg where
  a : BitVec 6
  ua : Bool
  b : BitVec 6
  ub : Bool
  c : BitVec 6
  uc : Bool
  lc : BitVec 3
  fin : BitVec 21
  deriving DecidableEq, Repr

/-- LOOP, immediate layout (R219). -/
structure LoopImm where
  lc : BitVec 3
  start : BitVec 10
  bound : BitVec 16
  step : BitVec 6
  fin : BitVec 10
  deriving DecidableEq, Repr

/-- LDH and LDS: `op.type sD, sB, offset` (R80, R82); `tok` is zero for LDH. -/
structure LdS where
  h : Hdr
  d : BitVec 6
  b : BitVec 6
  ub : Bool
  w : MemWidth
  imm : BitVec 16
  deriving DecidableEq, Repr

/-- STH and STS: `op.type sD, sB, offset` (R80, R82); `tok` is zero for STH. -/
structure StS where
  h : Hdr
  d : BitVec 6
  ud : Bool
  b : BitVec 6
  ub : Bool
  w : MemWidth
  imm : BitVec 16
  deriving DecidableEq, Repr

/-- An atomic of the form `AMOop.ord.scope.type sD, sB, sX` (R144). Fields that one form does not
use are zero (`d` in AMOST, `x` and `ux` in AMOLD, `c` and `uc` in every form but AMOCAS). -/
structure Amo where
  clk : Tag
  d : BitVec 6
  b : BitVec 6
  ub : Bool
  x : BitVec 6
  ux : Bool
  ty : AmoType
  ord : MemOrd
  c : BitVec 6
  uc : Bool
  scope : Scope
  deriving DecidableEq, Repr

/-- LDV and STV: `op vD, aB, offset` (R83, R84); `ud` is false in LDV. -/
structure LdStV where
  h : Hdr
  d : BitVec 5
  ud : Bool
  b : BitVec 4
  adv : Bool
  imm : BitVec 16
  deriving DecidableEq, Repr

/-- LDVX and STVX (R85, R86): `nat32` selects the index type NAT32, otherwise NAT16. -/
structure LdStVX where
  h : Hdr
  d : BitVec 5
  ud : Bool
  b : BitVec 4
  x : BitVec 5
  ux : Bool
  nat32 : Bool
  me : Bool
  msk : BitVec 3
  imm : BitVec 16
  deriving DecidableEq, Repr

/-- Stream-register instructions `op aD, sB + imm` (R75 to R78). `ln` is the layout number of ASET. -/
structure StreamOp where
  h : Hdr
  d : BitVec 4
  b : BitVec 6
  ub : Bool
  imm : BitVec 16
  deriving DecidableEq, Repr

/-- A copy (R62). `n` is bits 30:24: with `li` false a length register and its last-use bit, with `li`
true LEN7. `d` and `s` name scalar registers, or the low four bits of them a stream register in the
strided form. -/
structure Copy where
  h : Hdr
  d : BitVec 6
  ud : Bool
  s : BitVec 6
  us : Bool
  n : BitVec 7
  bar : BitVec 4
  be : Bool
  slot : BitVec 2
  li : Bool
  off : BitVec 16
  deriving DecidableEq, Repr

/-- CHRD, CHTRY and CHTAG (R112): `v` selects a vector destination, `x` the status register. -/
structure ChRead where
  h : Hdr
  d : BitVec 6
  v : Bool
  p : BitVec 5
  x : BitVec 6
  deriving DecidableEq, Repr

/-- CHWR and CHWR.I (R112). -/
structure ChWrite where
  h : Hdr
  d : BitVec 6
  ud : Bool
  v : Bool
  p : BitVec 5
  deriving DecidableEq, Repr

/-- Format VV without its function field (R221). Fields that an instruction does not use are zero. -/
structure VOp where
  h : Hdr
  d : BitVec 6
  ud : Bool
  a : BitVec 6
  ua : Bool
  b : BitVec 6
  ub : Bool
  ty : ElemType
  me : Bool
  msk : BitVec 3
  mod : BitVec 4
  deriving DecidableEq, Repr

/-- Format VI without its function field (R222). -/
structure VImm where
  h : Hdr
  d : BitVec 6
  a : BitVec 6
  ua : Bool
  ty : ElemType
  me : Bool
  msk : BitVec 3
  imm : BitVec 16
  deriving DecidableEq, Repr

/-- MMA (R223, R288). -/
structure MmaOp where
  h : Hdr
  d : BitVec 4
  a : BitVec 4
  ua : Bool
  b : BitVec 4
  ub : Bool
  np : BitVec 4
  ga : Bool
  gb : Bool
  ta : Bool
  tb : Bool
  deriving DecidableEq, Repr

/-- MCFG.item (R294); `lvl` is zero for a global item. -/
structure McfgOp where
  h : Hdr
  lvl : BitVec 3
  a : BitVec 6
  ua : Bool
  b : BitVec 6
  ub : Bool
  deriving DecidableEq, Repr

/-- ACCRD, ACCWR, ACCZ (R292); `v` is the vector of ACCRD or ACCWR and `uv` the last-use bit of ACCWR's. -/
structure AccOp where
  h : Hdr
  v : BitVec 5
  uv : Bool
  a : BitVec 6
  ua : Bool
  off : BitVec 16
  deriving DecidableEq, Repr

/-- GKEY, GKEY.OFF, GKEY.PARAM, GCTR, GADV: `op gD, sA, sB` (R308). -/
structure GenSS where
  h : Hdr
  d : BitVec 4
  a : BitVec 6
  ua : Bool
  b : BitVec 6
  ub : Bool
  deriving DecidableEq, Repr

/-! ### What an event names -/

/-- A context: package cell index (R98) and slot. -/
structure CtxId where
  cell : Nat
  slot : Nat
  deriving DecidableEq, Repr

/-- A channel: partition and channel identifier (R22). -/
structure ChanId where
  pid : Nat
  chan : Nat
  deriving DecidableEq, Repr

/-- A host command: the 64 bytes written to the command port (R375). -/
abbrev Command := BitVec 512

/-- Register files of a context whose poison is kept by register: masks, streams, delays, generators, codebooks (R23, R351). -/
inductive RegFile where
  | m | a | d | g | cb | lc
  deriving DecidableEq, Repr

/-- Storage that a soft error can strike (R349 to R351). -/
inductive SoftSpace where
  | hbm | scratch | acc | tile | scalar | vector | file (f : RegFile) | queue | loads | stores | entries | cache | tlb
  deriving DecidableEq, Repr

/-- A fabric access to this device (R16, R374): the offset, and the bytes of a write or the length of a read. -/
inductive FabricReq where
  | read (off : Nat) (len : Nat)
  | write (off : Nat) (data : List Byte)
  deriving DecidableEq, Repr

/-- The kind of register that field D of an extension word names as its destination (R231). -/
inductive ExtDest where
  | s | v | t
  deriving DecidableEq, Repr

/-- What a configuration image gives the device at boot (R48, R231, R335): MEM.CMETA, DISC.EXTL, the start of the resident routine of an opcode,
the destinations of extension words, and firmware's region of HBM. -/
structure BootImage where
  cmeta : Word := 0
  extl : BitVec 32 := 0
  routines : List (BitVec 8 × Nat) := []
  dests : List (BitVec 8 × ExtDest) := []
  region : Nat × Nat := (0, 0)
  deriving DecidableEq, Repr

/-- What an event acts on: the machine holds one such record in State and an event reads the fields that it
needs. Its docstring in Machine/Events names them. -/
structure EvArg where
  /-- the context -/
  ctx : CtxId := ⟨0, 0⟩
  /-- the channel -/
  chan : ChanId := ⟨0, 0⟩
  /-- a cell, partition, copy, island, version or address, as the event says -/
  n : Nat := 0
  /-- a second number: a sequence number, an image -/
  m : Nat := 0
  /-- a condition: a repeated mismatch, a corrected error, a thermal clamp -/
  flag : Bool := false
  /-- a frequency in MHz or a slot value -/
  val : BitVec 16 := 0
  /-- a lock group or a slot-table entry -/
  grp : BitVec 4 := 0
  /-- the storage that a soft error strikes -/
  space : SoftSpace := .hbm
  /-- the host command -/
  cmd : Command := 0
  /-- the sum that the matrix unit's array delivered -/
  sum : BitVec 32 := 0
  /-- the fabric access -/
  fab : FabricReq := .read 0 0
  /-- the configuration image -/
  boot : BootImage := {}
  deriving DecidableEq, Repr

/-- The steps of the device: every row of spec/opcode_table.json. An event carries no operand: what it acts on
stands in the `EvArg` that the machine holds. -/
inductive Instr where
  -- control (R234 to R244)
  | b (off : BitVec 24)
  | br (cond : Cond) (a : BitVec 6) (ua : Bool) (rb : BitVec 6) (ub : Bool) (off : BitVec 24)
  | call (off : BitVec 24)
  | ret
  | jmpr (a : BitVec 6) (ua : Bool)
  | callr (a : BitVec 6) (ua : Bool)
  | loopRegister (o : LoopReg)
  | loopImmediate (o : LoopImm)
  | ibegin
  | iend
  | launch (o : SUn)
  | launchi (o : SRR)
  | succgo
  | waitpred
  | retire
  | qpoint
  | kdefEvery (k p : Tag) (n : BitVec 16) (phase : BitVec 13)
  | kdefOn (k p : Tag) (c : BitVec 6)
  | kdefOnnot (k p : Tag) (c : BitVec 6)
  | kdefUnion (k p q : Tag)
  -- scalar stream instructions (R245 to R251)
  | whenScalar (o : SUn)
  | mergeScalar (o : SRR)
  | unionScalar (p : Policy) (o : SRR)
  | preScalar (o : SDelay)
  | fbyScalar (o : SDelay)
  | currentScalar (o : SUn)
  -- scalar arithmetic (R252 to R256)
  | add (o : SRR) | sub (o : SRR) | and (o : SRR) | or (o : SRR) | xor (o : SRR) | andn (o : SRR)
  | sll (o : SRR) | srl (o : SRR) | sra (o : SRR) | rotl (o : SRR)
  | slt (o : SRR) | sltu (o : SRR) | seq (o : SRR)
  | min (o : SRR) | max (o : SRR) | minu (o : SRR) | maxu (o : SRR)
  | mul (o : SRR) | mulh (o : SRR) | mulhu (o : SRR)
  | div (o : SRR) | divu (o : SRR) | rem (o : SRR) | remu (o : SRR)
  | addi (o : SRI) | andi (o : SRI) | ori (o : SRI) | xori (o : SRI) | slti (o : SRI) | sltiu (o : SRI)
  | slli (o : SShift) | srli (o : SShift) | srai (o : SShift) | rotli (o : SShift)
  | movhi (clk : Tag) (d : BitVec 6) (imm : BitVec 32)
  | clz (o : SUn) | ctz (o : SUn) | popc (o : SUn)
  | sextb (o : SUn) | sexth (o : SUn) | sextw (o : SUn)
  | zextb (o : SUn) | zexth (o : SUn) | zextw (o : SUn)
  | movlc (clk : Tag) (d : BitVec 6) (lc : BitVec 3)
  | shadd (n : BitVec 3) (o : SRR)
  | sel (c : BitVec 6) (o : SRR)
  -- system (R225, R257, R334, R359, R370)
  | csrr (clk : Tag) (d : BitVec 6) (csr : BitVec 12)
  | csrw (clk : Tag) (a : BitVec 6) (ua : Bool) (csr : BitVec 12)
  | csrwIscope (clk : Tag) (a : BitVec 6) (ua : Bool)
  | csrwBndTags (clk : Tag) (a : BitVec 6) (ua : Bool)
  | csrwTcfg (clk : Tag) (a : BitVec 6) (ua : Bool) (t : BitVec 3)
  | csrwCtxStatus (clk : Tag) (a : BitVec 6) (ua : Bool)
  | csrwPmc (clk : Tag) (a : BitVec 6) (ua : Bool) (n : BitVec 3)
  | csrwTrapScr (clk : Tag) (a : BitVec 6) (ua : Bool) (n : BitVec 1)
  | trap (clk : Tag) (code : BitVec 8)
  | bkpt (clk : Tag) (code : BitVec 8)
  | tret
  | trig (clk : Tag)
  | barInit (clk : Tag) (rb : BitVec 6) (ub : Bool) (x : BitVec 6) (ux : Bool) (bar : BitVec 4)
  | barArrive (clk : Tag) (d : BitVec 6) (bar : BitVec 4)
  | barWait (clk : Tag) (rb : BitVec 6) (ub : Bool) (bar : BitVec 4)
  | dump (clk : Tag) (a : BitVec 6) (ua : Bool)
  -- sequencer memory accesses (R80, R89, R145)
  | ldh (o : LdS)
  | sth (o : StS)
  | probe (clk : Tag) (kind : ProbeKind) (rb : BitVec 6) (ub : Bool) (x : BitVec 6) (ux : Bool) (imm : BitVec 16)
  | amold (o : Amo) | amost (o : Amo) | amoswap (o : Amo) | amocas (o : Amo) | amoadd (o : Amo)
  | amoand (o : Amo) | amoor (o : Amo) | amoxor (o : Amo) | amomin (o : Amo) | amomax (o : Amo)
  | fence (clk : Tag) (scope : Scope)
  | syncls (clk : Tag)
  -- access core (R82 to R88)
  | lds (o : LdS)
  | sts (o : StS)
  | ldv (o : LdStV)
  | stv (o : LdStV)
  | ldvx (o : LdStVX)
  | stvx (o : LdStVX)
  | ldt (h : Hdr) (d : BitVec 3) (rb : BitVec 4) (adv : Bool)
  | vperm (h : Hdr) (ty : ElemType) (d : BitVec 5) (s : BitVec 5) (us : Bool) (x : BitVec 5) (ux : Bool)
  | aset (o : StreamOp) (ln : BitVec 11)
  | asetV (o : StreamOp) (ln : BitVec 11)
  | asetx (o : StreamOp) (dim : BitVec 4)
  | aadv (o : StreamOp)
  | aadvAbs (o : StreamOp)
  | abnd (h : Hdr) (d : BitVec 4) (rb : BitVec 6) (ub : Bool) (x : BitVec 6) (ux : Bool)
  -- copies (R90 to R96)
  | xcopyIn (o : Copy) | xcopyInStrided (o : Copy) | xcopyd (o : Copy)
  | xaddw (o : Copy) | xaddwStrided (o : Copy) | xbcast (o : Copy) | xbcastStrided (o : Copy)
  | xcopyOut (o : Copy) | xcopyOutStrided (o : Copy)
  -- channels (R116 to R119 and the channel unit)
  | chwr (o : ChWrite)
  | chwrI (o : ChWrite)
  | chclose (h : Hdr) (p : BitVec 5)
  | chrd (o : ChRead)
  | chtry (o : ChRead)
  | chtag (o : ChRead)
  | chstat (h : Hdr) (d : BitVec 6) (p : BitVec 5) (sel : BitVec 4)
  -- vector (R264 to R282)
  | vadd (o : VOp) | vsub (o : VOp) | vmul (o : VOp) | vmin (o : VOp) | vmax (o : VOp)
  | vabs (o : VOp) | vneg (o : VOp) | vdiv (o : VOp) | vmulh (o : VOp)
  | vfma (o : VOp) | vfms (o : VOp) | vfnma (o : VOp)
  | vand (o : VOp) | vor (o : VOp) | vxor (o : VOp) | vandn (o : VOp) | vnot (o : VOp)
  | vsll (o : VOp) | vsrl (o : VOp) | vsra (o : VOp) | vrotl (o : VOp)
  | vcmp (cc : VCond) (o : VOp)
  | vsel (o : VOp)
  | vmov (o : VOp)
  | vaddImm (o : VImm) | vsubImm (o : VImm) | vmulImm (o : VImm) | vminImm (o : VImm) | vmaxImm (o : VImm)
  | vandImm (o : VImm) | vorImm (o : VImm) | vxorImm (o : VImm) | vandnImm (o : VImm)
  | vsllImm (o : VImm) | vsrlImm (o : VImm) | vsraImm (o : VImm) | vrotlImm (o : VImm)
  | vcmpImm (cc : VCond) (o : VImm)
  | vmovi (o : VImm)
  | vcvt (dst : ElemType) (o : VOp)
  | vrsum (np : BitVec 4) (o : VOp)
  | vrmax (o : VOp)
  | vrmin (o : VOp)
  | vscan (np : BitVec 4) (o : VOp)
  | vrcp (o : VOp) | vsqrt (o : VOp) | vrsqrt (o : VOp) | vexp (o : VOp) | vexp2 (o : VOp)
  | vlog2 (o : VOp) | vtanh (o : VOp) | vsigm (o : VOp)
  | vcompress (o : VOp)
  | vexpand (o : VOp)
  | vhist (o : VOp)
  | vdigit (o : VOp)
  | vordkey (o : VOp)
  | vtopk (k : BitVec 8) (o : VOp)
  | vcbdec (cb : BitVec 3) (o : VOp)
  | vcbenc (cb : BitVec 3) (o : VOp)
  | cbld (cb : BitVec 3) (o : VOp)
  | mand (o : VOp) | mor (o : VOp) | mxor (o : VOp) | mandn (o : VOp) | mnot (o : VOp)
  | mset (o : VOp) | mclr (o : VOp) | mcnt (o : VOp) | mfirst (o : VOp) | mtov (o : VOp) | vtom (o : VOp)
  | vextr (o : VOp)
  | vins (o : VOp)
  | vsplat (o : VOp)
  | whenVector (o : VOp)
  | mergeVector (o : VOp)
  | unionVector (p : Policy) (o : VOp)
  | preVector (o : VOp)
  | fbyVector (o : VOp)
  | currentVector (o : VOp)
  -- matrix (R285 to R298)
  | tcfg (h : Hdr) (t : BitVec 3) (ty : ElemType) (rows : BitVec 7) (rlen : BitVec 9)
  | mma (o : MmaOp)
  | mcfgLoop (o : McfgOp) | mcfgStep (o : McfgOp) | mcfgGstep (o : McfgOp) | mcfgBase (o : McfgOp)
  | mcfgPitch (o : McfgOp) | mcfgOper (o : McfgOp) | mcfgAcc (o : McfgOp)
  | mgo (h : Hdr) (d : BitVec 4) (np : BitVec 4)
  | accrd (o : AccOp)
  | accwr (o : AccOp)
  | accz (o : AccOp)
  -- generators (R308, R309)
  | gset (h : Hdr) (d : BitVec 4) (kind : GenKind) (rows cols : BitVec 10) (scale : BitVec 16)
  | gkey (o : GenSS) | gkeyOff (o : GenSS) | gkeyParam (o : GenSS) | gctr (o : GenSS) | gadv (o : GenSS)
  | gdraw (h : Hdr) (d : BitVec 5) (a : BitVec 4) (rb : BitVec 6) (ub : Bool)
  | gdrawAdv (h : Hdr) (d : BitVec 5) (a : BitVec 4) (rb : BitVec 6) (ub : Bool)
  | gscope (h : Hdr) (d : BitVec 4) (scope : BitVec 8)
  | gsave (h : Hdr) (d : BitVec 5) (a : BitVec 4)
  | gload (h : Hdr) (d : BitVec 4) (a : BitVec 5) (ua : Bool)
  -- the word that is no instruction (R229, R230)
  | invalidWord (w : Word)
  -- the context and its queues (R83, R90, R174, R175, R183)
  | delayRotation | commit | copyCompletion | loadDelivery | storePerform
  -- the channel unit (R101 to R122)
  | channelPush | refillStart | refillLanding | creditReturn | deadlockDetectorFire
  -- the matrix engine (R296, R301)
  | checksumMismatch | nestIteration
  -- launches and contexts (R187, R318 to R327, R339 to R343, R348, R358, R360, R367, R373)
  | retirementTrackerFree | launchiCountRead | groupAdmission | scratchImageLoaded | launchAgeing | preemptionTake
  | preemptBoundExpiry | contextResume | preciseStop | invalidationWatchdogExpiry | replayWatchdogExpiry | triggerLatch
  | sampleRecord
  -- host and fabric (R17, R374 to R379)
  | fabricAccess | cmdLaunch | cmdTable | cmdTrigger | cmdRecord | cmdReplay
  | cmdPreempt | cmdResume | cmdStop | cmdDiscard | cmdReset | cmdClass
  | cmdDump | cmdConfig | cmdLoess | cmdAttest
  -- platform (R41, R299, R349, R357, R384 to R388)
  | powerOn | currentClamp | thermalClamp | thermalShutdown | cellCycle | timeBaseTick
  | scalarAccessReturn | softError | slotTableWrite | lockGroupFrequencyChange | firmwarePreemptionRequest | clampRelease
  | powerLoss
  deriving DecidableEq, Repr

end Sys2Proof
end

