-- ==== Sys2Proof/WellFormed.lean ====
section
/-! DEFINITION. Which terms of `Instr` are instructions: the values each instruction lists (R229: an
unlisted value is ILLEGAL_OPCODE) and the ranges and must-be-zero fields (R229: RESERVED_FIELD). -/

namespace Sys2Proof

namespace ElemType

/-- The 4-bit type code of R188. -/
def code : ElemType → BitVec 4
  | int32 => 0 | int16 => 1 | int8 => 2 | int4 => 3 | nat32 => 4 | nat16 => 5 | nat8 => 6 | nat4 => 7
  | fp32 => 8 | bf16 => 9 | fp16 => 10 | cb4 => 11

/-- The type of a code; 12 to 15 are not types (R216). -/
def ofCode (c : BitVec 4) : Option ElemType :=
  match c.toNat with
  | 0 => some int32 | 1 => some int16 | 2 => some int8 | 3 => some int4
  | 4 => some nat32 | 5 => some nat16 | 6 => some nat8 | 7 => some nat4
  | 8 => some fp32 | 9 => some bf16 | 10 => some fp16 | 11 => some cb4
  | _ => none

/-- Element width in bits (R188). -/
def width : ElemType → Nat
  | int32 | nat32 | fp32 => 32
  | int16 | nat16 | bf16 | fp16 => 16
  | int8 | nat8 => 8
  | int4 | nat4 | cb4 => 4

/-- Lanes of a vector register (R259). -/
def lanes (t : ElemType) : Nat := 4096 / t.width

/-- Class F of R259. -/
def isF : ElemType → Bool
  | fp32 | bf16 | fp16 => true
  | _ => false
/-- Class I of R259. -/
def isI : ElemType → Bool
  | int32 | int16 | int8 => true
  | _ => false
/-- Class N of R259. -/
def isN : ElemType → Bool
  | nat32 | nat16 | nat8 => true
  | _ => false
/-- Class Q of R259. -/
def isQ : ElemType → Bool
  | int4 | nat4 => true
  | _ => false
/-- Any integer type. -/
def isInt (t : ElemType) : Bool := t.isI || t.isN || t.isQ
/-- Signed integer types. -/
def signed : ElemType → Bool
  | int32 | int16 | int8 | int4 => true
  | _ => false
/-- Types 0 to 10 (every type but CB4). -/
def notCb4 (t : ElemType) : Bool := t != cb4

end ElemType

/-! ### Field checks -/

/-- The token bits that R9 leaves to an L-queue word. -/
def Hdr.okL (h : Hdr) : Bool := h.tok &&& 0b1010#4 == 0#4
/-- The token bits that R9 leaves to an S-queue word. -/
def Hdr.okS (h : Hdr) : Bool := h.tok &&& 0b0101#4 == 0#4

/-- A VV or VI vector field: a register, or a special operand of R262. -/
def vecField (f : BitVec 6) : Bool :=
  f.toNat < 32 || f == 0x20#6 || f == 0x21#6 || f == 0x22#6 || f == 0x23#6 || f == 0x30#6
/-- A vector field that must name a register. -/
def regField (f : BitVec 6) : Bool := f.toNat < 32
/-- A mask field (R214): three bits. -/
def maskField (f : BitVec 6) : Bool := f.toNat < 8
/-- A field that names the first register of a group of `k` (R270). -/
def groupField (f : BitVec 6) (k : Nat) : Bool := f.toNat < 32 && f.toNat % k == 0

/-- A stage clock k112 to k127 (R176). -/
def isStageClock (k : Tag) : Bool := 112 ≤ k.toNat
/-- The target of a KDEF is k1 to k111 (R176). -/
def kdefTarget (k : Tag) : Bool := 1 ≤ k.toNat && k.toNat ≤ 111
/-- A parent or operand is a stage clock or has a lower index than the target (R176). -/
def kdefOperand (k p : Tag) : Bool := p.toNat < k.toNat || isStageClock p

/-- MK is zero when ME is 0 (R258). -/
def maskOk (me : Bool) (msk : BitVec 3) : Bool := me || msk == 0#3

namespace VOp
/-- B and UB are unused. -/
def noB (o : VOp) : Bool := o.b == 0#6 && !o.ub
/-- A and UA are unused. -/
def noA (o : VOp) : Bool := o.a == 0#6 && !o.ua
/-- D vector, A and B vector sources, UD unused. -/
def dab (o : VOp) : Bool := vecField o.d && !o.ud && vecField o.a && vecField o.b && maskOk o.me o.msk
/-- UD is D's last-use bit where a mask makes a destination register a source, and reserved otherwise (R221, R260). (DEDUCED: log entry 13.) -/
def udOk (o : VOp) : Bool := !o.ud || (o.me && o.d.toNat < 32)
/-- The forms of `dab` and `da` whose inactive lanes keep the destination's value. -/
def dabKeep (o : VOp) : Bool := vecField o.d && o.udOk && vecField o.a && vecField o.b && maskOk o.me o.msk
def daKeep (o : VOp) : Bool := vecField o.d && o.udOk && vecField o.a && o.noB && maskOk o.me o.msk
/-- The unmasked form: ME and MK are zero. -/
def plain (o : VOp) : Bool := !o.me && o.msk == 0#3
/-- A mask operation without a type: TY must be 0 (R281). (DEDUCED: log entry 105.) -/
def untyped (o : VOp) : Bool := o.plain && o.ty == .int32
/-- A field of the vector stream instructions: a vector, or a tile when MOD bit 0 is set (R245). -/
def strField (o : VOp) (f : BitVec 6) : Bool := if o.mod.getLsbD 0 then f.toNat < 8 else f.toNat < 32
/-- What R245 asks of the vector and tile forms of the stream instructions. -/
def streamOk (o : VOp) : Bool :=
  o.strField o.d && o.strField o.a && !o.ud && o.plain && (o.mod &&& 0b1110#4 == 0#4)
end VOp

/-- A VI instruction with source A (R222). -/
def VImm.ok (o : VImm) : Bool := vecField o.d && vecField o.a && maskOk o.me o.msk

/-- Profiles that VRSUM and VSCAN list for a type (R271). -/
def sumProfile (t : ElemType) : BitVec 4 :=
  if t == .fp32 || t == .bf16 then 1 else if t == .fp16 then 6 else 3

/-- The tile element types of R283. -/
def tileType : ElemType → Bool
  | .int8 | .int4 | .fp32 | .bf16 | .fp16 | .cb4 => true
  | _ => false

/-- `TCFG` values of R285 and R283: the row length is a whole number of elements. -/
def tileShapeOk (ty : ElemType) (rows rlen : Nat) : Bool :=
  1 ≤ rows && rows ≤ 64 && 1 ≤ rlen && rlen ≤ 256 &&
    (if ty.width == 16 then rlen % 2 == 0 else if ty.width == 32 then rlen % 4 == 0 else true)

/-! ### The two checks of R229 -/

namespace Instr

/-- Types of F, I, N. -/
def tyFIN (t : ElemType) : Bool := t.isF || t.isI || t.isN
/-- Types of I, N. -/
def tyIN (t : ElemType) : Bool := t.isI || t.isN
/-- Types of F, I. -/
def tyFI (t : ElemType) : Bool := t.isF || t.isI

/-- Modifier 0 only. (DEDUCED: log entry 16.) -/
def mod0 (o : VOp) : Bool := o.mod == 0#4
/-- Modifier 0, or .SAT where the type lists it (R264). -/
def modSat (o : VOp) (allowed : Bool) : Bool := o.mod == 0#4 || (o.mod == 1#4 && allowed)

/-- The register numbers that R226, R330, R352 and R383 assign. (DEDUCED: log entry 15.) -/
def csrAssigned (n : Nat) : Bool :=
  n ≤ 0x008 || (0x010 ≤ n && n ≤ 0x015) || (0x020 ≤ n && n ≤ 0x027) || (0x030 ≤ n && n ≤ 0x03A) ||
  (0x100 ≤ n && n ≤ 0x102) || n == 0x108 || n == 0x109 || n == 0x110 || n == 0x111 ||
  (0x200 ≤ n && n ≤ 0x21C) || n == 0x220 || (0x228 ≤ n && n ≤ 0x22B) ||
  (0x300 ≤ n && n ≤ 0x330) || (0x338 ≤ n && n ≤ 0x33A) ||
  n == 0x400 || (0x410 ≤ n && n ≤ 0x412) || (0x480 ≤ n && n ≤ 0x49F)

/-- The conversions that VCVT lists and their modifiers (R270). (DEDUCED: log entry 14.) -/
def vcvtListed (src dst : ElemType) (mod : BitVec 4) : Bool :=
  src != dst && src.notCb4 && dst.notCb4 &&
    src.width ≤ 4 * dst.width && dst.width ≤ 4 * src.width &&
    (!mod.getLsbD 0 || (src.isInt && dst.isInt)) &&
    (!mod.getLsbD 1 || src.isF || dst.isF) &&
    !mod.getLsbD 2 && !mod.getLsbD 3

/-- Every TY, FN, SUB, MOD, COND, KS or NP value is one that the instruction lists (R229, third step). -/
def listed : Instr → Bool
  | .csrr _ _ csr | .csrw _ _ _ csr => csrAssigned csr.toNat
  | .shadd n _ => n.toNat ≤ 6
  | .amold o => (o.ord == .none || o.ord == .acq) && o.ty != .f32
  | .amost o => (o.ord == .none || o.ord == .rel) && o.ty != .f32
  | .amoswap o | .amocas o | .amoand o | .amoor o | .amoxor o | .amomin o | .amomax o => o.ty != .f32
  | .vperm _ ty _ _ _ _ _ => ty.width != 4
  | .vadd o | .vsub o => o.ty.notCb4 && modSat o o.ty.isInt
  | .vmul o => tyFIN o.ty && mod0 o
  | .vmin o | .vmax o => o.ty.notCb4 && mod0 o
  | .vabs o | .vneg o => tyFI o.ty && modSat o o.ty.isI
  | .vdiv o => o.ty.isF && mod0 o
  | .vmulh o => tyIN o.ty && mod0 o
  | .vfma o | .vfms o | .vfnma o => tyFIN o.ty && mod0 o
  | .vand o | .vor o | .vxor o | .vandn o | .vnot o => mod0 o
  | .vsll o | .vsrl o | .vsra o | .vrotl o => o.ty.isInt && mod0 o
  | .vcmp _ o => o.ty.notCb4 && mod0 o
  | .vsel o | .vmov o => mod0 o
  | .vaddImm o | .vsubImm o | .vminImm o | .vmaxImm o => o.ty.notCb4
  | .vmulImm o => tyFIN o.ty
  | .vandImm o | .vorImm o | .vxorImm o | .vandnImm o => o.ty.notCb4
  | .vsllImm o | .vsrlImm o | .vsraImm o | .vrotlImm o => o.ty.isInt
  | .vcmpImm _ o | .vmovi o => o.ty.notCb4
  | .vcvt dst o => vcvtListed o.ty dst o.mod
  | .vrsum np o => o.ty.notCb4 && np == sumProfile o.ty && mod0 o
  | .vscan np o => tyFIN o.ty && np == sumProfile o.ty && mod0 o
  | .vrmax o | .vrmin o => o.ty.notCb4 && mod0 o
  | .vrcp o | .vsqrt o | .vrsqrt o | .vexp o | .vexp2 o | .vlog2 o | .vtanh o | .vsigm o => o.ty.isF && mod0 o
  | .vcompress o | .vexpand o => mod0 o
  | .vhist o => o.ty.isN && mod0 o
  | .vdigit o => tyIN o.ty &&
      (if o.mod.getLsbD 3 then 4 else 8) * ((fld o.mod 0 3).toNat + 1) ≤ o.ty.width
  | .vordkey o => tyFIN o.ty && mod0 o
  | .vtopk k o => 1 ≤ k.toNat && k.toNat ≤ 128 && tyFIN o.ty && o.mod.toNat ≤ 3
  | .vcbdec _ o => o.ty == .cb4 && o.mod.toNat ≤ 3
  | .vcbenc _ o => o.ty == .bf16 && o.mod.toNat ≤ 3
  | .cbld _ o => o.ty == .bf16 && mod0 o
  | .mand o | .mor o | .mxor o | .mandn o | .mnot o | .mset o | .mclr o | .mtov o | .vtom o =>
      mod0 o
  | .mcnt o | .mfirst o => mod0 o
  | .vextr o | .vins o | .vsplat o => mod0 o
  | .whenVector o | .mergeVector o | .currentVector o => o.ty == .int32
  | .unionVector p o =>
      (match p with
       | .first | .second => o.ty == .int32
       | .add | .max => o.ty.notCb4 && !o.mod.getLsbD 0)
  | .preVector o | .fbyVector o => o.ty == .int32 && !o.mod.getLsbD 0
  | .tcfg _ _ ty _ _ => tileType ty
  | .mma o => 1 ≤ o.np.toNat && o.np.toNat ≤ 6
  | .mgo _ _ np => 1 ≤ np.toNat && np.toNat ≤ 6
  | _ => true

/-- Every token bit is permitted, every must-be-zero field is zero and every field is in its range
(R229, fourth step). (DEDUCED: log entry 12.) -/
def ranged : Instr → Bool
  | .loopRegister o => o.lc.toNat < 6 && o.fin != 0#21
  | .loopImmediate o => o.lc.toNat < 6 && o.fin != 0#10
  | .kdefEvery k p n _ => kdefTarget k && kdefOperand k p && n != 0#16
  | .kdefOn k p _ | .kdefOnnot k p _ => kdefTarget k && kdefOperand k p
  | .kdefUnion k p q => kdefTarget k && kdefOperand k p && kdefOperand k q
  | .movlc _ _ lc => lc.toNat < 6
  | .csrw _ _ _ csr => csr != 0x003#12 && csr != 0x008#12 && csr != 0x000#12 &&
      !(0x020 ≤ csr.toNat && csr.toNat ≤ 0x027) && !(0x200 ≤ csr.toNat && csr.toNat ≤ 0x207) &&
      csr != 0x036#12 && csr != 0x037#12
  | .ldh o => o.h.tok == 0#4
  | .sth o => o.h.tok == 0#4
  | .amold o => o.x == 0#6 && !o.ux && o.c == 0#6 && !o.uc
  | .amost o => o.d == 0#6 && o.c == 0#6 && !o.uc
  | .amoswap o | .amoadd o | .amoand o | .amoor o | .amoxor o | .amomin o | .amomax o => o.c == 0#6 && !o.uc
  | .lds o => o.h.okL
  | .sts o => o.h.okS
  | .ldv o => o.h.okL && !o.ud
  | .stv o => o.h.okS
  | .ldvx o => o.h.okL && !o.ud && maskOk o.me o.msk
  | .stvx o => o.h.okS && maskOk o.me o.msk
  | .ldt h _ _ _ => h.okL
  | .vperm h ty _ _ _ x _ => h.okL && (ty.width != 8 || x.toNat % 2 == 0)
  | .aset o _ | .asetV o _ | .asetx o _ | .aadv o | .aadvAbs o => o.h.okL
  | .abnd h _ _ _ _ _ => h.okL
  | .xcopyIn o | .xcopyd o => o.h.okL && o.slot == 0#2
  | .xcopyInStrided o => o.h.okL && o.slot == 0#2 && o.s.toNat < 16 && !o.us
  | .xaddw o => o.h.okL
  | .xaddwStrided o => o.h.okL && o.s.toNat < 16 && !o.us
  | .xbcast o => o.h.okL && o.slot == 0#2 && o.be
  | .xbcastStrided o => o.h.okL && o.slot == 0#2 && o.be && o.s.toNat < 16 && !o.us
  | .xcopyOut o => o.h.okS && o.slot == 0#2
  | .xcopyOutStrided o => o.h.okS && o.slot == 0#2 && o.d.toNat < 16 && !o.ud && o.off == 0#16
  | .chrd o | .chtry o => o.h.okL && (!o.v || o.d.toNat < 32)
  | .chtag o => o.h.okL && !o.v
  | .chstat h _ _ sl => h.okL && sl.toNat ≤ 3
  | .chwr o | .chwrI o => o.h.okS && (!o.v || o.d.toNat < 32)
  | .chclose h _ => h.okS
  | .vadd o | .vsub o | .vmul o | .vmin o | .vmax o | .vdiv o | .vmulh o
  | .vand o | .vor o | .vxor o | .vandn o | .vsll o | .vsrl o | .vsra o | .vrotl o => o.dabKeep
  | .vabs o | .vneg o | .vnot o | .vmov o | .vordkey o | .vdigit o => o.daKeep
  | .vrcp o | .vsqrt o | .vrsqrt o | .vexp o | .vexp2 o | .vlog2 o | .vtanh o | .vsigm o => o.daKeep
  | .vfma o | .vfms o | .vfnma o => regField o.d && vecField o.a && vecField o.b && maskOk o.me o.msk
  | .vcmp _ o => maskField o.d && !o.ud && vecField o.a && vecField o.b && maskOk o.me o.msk
  | .vsel o => o.dab && o.me
  | .vaddImm o | .vsubImm o | .vmulImm o | .vminImm o | .vmaxImm o | .vandImm o | .vorImm o | .vxorImm o
  | .vandnImm o | .vsllImm o | .vsrlImm o | .vsraImm o | .vrotlImm o => o.ok
  | .vcmpImm _ o => maskField o.d && vecField o.a && maskOk o.me o.msk
  | .vmovi o => vecField o.d && o.a == 0#6 && !o.ua && maskOk o.me o.msk
  | .vcvt dst o => o.udOk && o.noB && maskOk o.me o.msk &&
      (if o.ty.width < dst.width then groupField o.d (dst.width / o.ty.width) && vecField o.a
       else if dst.width < o.ty.width then vecField o.d && groupField o.a (o.ty.width / dst.width)
       else vecField o.d && vecField o.a)
  | .vrsum _ o | .vrmax o | .vrmin o => o.dab
  | .vscan _ o => groupField o.d (32 / o.ty.width) && !o.ud && vecField o.a && vecField o.b && maskOk o.me o.msk
  | .vcompress o => vecField o.d && !o.ud && vecField o.a && !o.ub && o.me
  | .vexpand o => vecField o.d && !o.ud && vecField o.a && o.noB && o.me
  | .vhist o => groupField o.d 2 && !o.ud && vecField o.a && o.noB && maskOk o.me o.msk
  | .vtopk _ o => groupField o.d 2 && !o.ud && maskOk o.me o.msk &&
      (if o.mod.getLsbD 1 then groupField o.a 2 && o.noB else vecField o.a)
  | .vcbdec _ o => o.dabKeep
  | .vcbenc _ o => regField o.d && !o.ud && vecField o.a && vecField o.b && maskOk o.me o.msk
  | .cbld _ o => o.d == 0#6 && !o.ud && vecField o.a && o.noB && o.plain
  | .mand o | .mor o | .mxor o | .mandn o =>
      o.untyped && maskField o.d && !o.ud && maskField o.a && !o.ua && maskField o.b && !o.ub
  | .mnot o => o.untyped && maskField o.d && !o.ud && maskField o.a && !o.ua && o.noB
  | .mset o | .mclr o => o.untyped && maskField o.d && !o.ud && o.noA && o.noB
  | .mcnt o | .mfirst o => o.plain && !o.ud && maskField o.a && !o.ua && o.noB
  | .mtov o => o.untyped && vecField o.d && !o.ud && maskField o.a && !o.ua && o.noB
  | .vtom o => o.untyped && maskField o.d && !o.ud && vecField o.a && o.noB
  | .vextr o => o.plain && !o.ud && vecField o.a
  | .vins o => o.plain && regField o.d
  | .vsplat o => vecField o.d && o.udOk && o.noB && maskOk o.me o.msk
  | .whenVector o | .currentVector o => o.streamOk && o.noB
  | .mergeVector o | .unionVector _ o => o.streamOk && o.strField o.b
  | .preVector o | .fbyVector o => o.streamOk && o.b.toNat < 16 && !o.ub
  | .tcfg _ _ ty rows rlen => tileShapeOk ty rows.toNat rlen.toNat
  | .mma o => !(o.ga && o.gb) && (o.ga || o.a.toNat < 8) && (o.gb || o.b.toNat < 8) &&
      !(o.ga && o.ua) && !(o.gb && o.ub)
  | .mcfgLoop o | .mcfgStep o | .mcfgGstep o => o.lvl.toNat ≤ 5
  | .mcfgBase o | .mcfgPitch o | .mcfgOper o => o.lvl == 0#3
  | .mcfgAcc o => o.lvl == 0#3 && o.b == 0#6 && !o.ub
  | .accrd o => !o.uv
  | .accz o => !o.uv && o.v == 0#5
  | .gscope _ _ sc => sc.toNat ≤ 9
  | _ => true

/-- A well-formed instruction: it lists its values and its fields are in range. -/
def wf (i : Instr) : Bool := i.listed && i.ranged

end Instr

end Sys2Proof
end

