-- ==== Sys2Proof/Machine/Float.lean ====
section
/-! DEFINITION. Numbers: the floating-point formats (R188, R189), rounding (R192, R193), arithmetic (R195, R196), conversions
(R197), the numerics profiles (R199 to R206), and the order-preserving key (R211). -/

namespace Sys2Proof.Machine

/-- A floating-point format: exponent and fraction widths (R189). -/
structure FFmt where
  eb : Nat
  fb : Nat
  deriving DecidableEq, Repr

def fp32 : FFmt := ⟨8, 23⟩
def bf16 : FFmt := ⟨8, 7⟩
def fp16 : FFmt := ⟨5, 10⟩

/-- The floating-point format of an element type; FP32 where the type is none. -/
def fmtOf : ElemType → FFmt
  | .bf16 => bf16
  | .fp16 => fp16
  | _ => fp32

namespace FFmt

/-- Width in bits. -/
def width (f : FFmt) : Nat := 1 + f.eb + f.fb
def bias (f : FFmt) : Int := 2 ^ (f.eb - 1) - 1
/-- The pattern of +∞, without a sign. -/
def infBits (f : FFmt) : Nat := (2 ^ f.eb - 1) * 2 ^ f.fb
/-- The canonical NaN (R189). -/
def nan (f : FFmt) : Nat := f.infBits + 2 ^ (f.fb - 1)
/-- The sign bit. -/
def sign (f : FFmt) (neg : Bool) : Nat := if neg then 2 ^ (f.eb + f.fb) else 0

end FFmt

/-- A floating-point value: a finite one is ±m × 2^e. -/
inductive Fl where
  | nan
  | inf (neg : Bool)
  | fin (neg : Bool) (m : Nat) (e : Int)
  deriving DecidableEq, Repr

namespace Fl

/-- The value of a pattern (R189). -/
def decode (f : FFmt) (w : Nat) : Fl :=
  let frac := w % 2 ^ f.fb
  let ex := w / 2 ^ f.fb % 2 ^ f.eb
  let neg := w / 2 ^ (f.eb + f.fb) % 2 == 1
  if ex = 2 ^ f.eb - 1 then (if frac = 0 then .inf neg else .nan)
  else if ex = 0 then .fin neg frac (1 - f.bias - f.fb)
  else .fin neg (frac + 2 ^ f.fb) (ex - f.bias - f.fb)

/-- Rounds a magnitude that lies at m × 2^e, or strictly between that and (m + 1) × 2^e when `sticky`, to nearest with ties to even,
or toward zero when `rz` (R192, R193). A sticky magnitude has more significant bits than the format. -/
def roundMag (f : FFmt) (neg : Bool) (m : Nat) (e : Int) (sticky rz : Bool := false) : Nat :=
  if m = 0 then f.sign neg
  else
    let top : Int := e + m.log2
    let emin : Int := 1 - f.bias
    let q : Int := max top emin - f.fb
    let n :=
      if q ≤ e then m * 2 ^ (e - q).toNat
      else
        let sh := (q - e).toNat
        let n := m / 2 ^ sh
        let r := m % 2 ^ sh
        let half := 2 ^ (sh - 1)
        let up := !rz && (decide (half < r) || (r == half && (sticky || n % 2 == 1)))
        if up then n + 1 else n
    let bits : Int := if top < emin then n else (top - emin) * 2 ^ f.fb + n
    if (f.infBits : Int) ≤ bits then f.sign neg + (if rz then f.infBits - 1 else f.infBits)
    else f.sign neg + bits.toNat

/-- The pattern of a value rounded to a format. -/
def encode (f : FFmt) (x : Fl) (rz : Bool := false) : Nat :=
  match x with
  | .nan => f.nan
  | .inf neg => f.sign neg + f.infBits
  | .fin neg m e => roundMag f neg m e false rz

/-- The signed integer of a finite value at a lower exponent. -/
def scaled (neg : Bool) (m : Nat) (e lo : Int) : Int :=
  let n : Int := m * 2 ^ (e - lo).toNat
  if neg then -n else n

def neg : Fl → Fl
  | .nan => .nan
  | .inf s => .inf (!s)
  | .fin s m e => .fin (!s) m e
def abs : Fl → Fl
  | .nan => .nan
  | .inf _ => .inf false
  | .fin _ m e => .fin false m e
def isNeg : Fl → Bool
  | .nan => false
  | .inf s => s
  | .fin s _ _ => s

/-- The exact sum; an exact zero of opposite signs is +0 (R195). -/
def add : Fl → Fl → Fl
  | .nan, _ | _, .nan => .nan
  | .inf a, .inf b => if a = b then .inf a else .nan
  | .inf a, .fin _ _ _ => .inf a
  | .fin _ _ _, .inf b => .inf b
  | .fin a m e, .fin b n g =>
    let lo := min e g
    let t := scaled a m e lo + scaled b n g lo
    .fin (if t = 0 then a && b else decide (t < 0)) t.natAbs lo

/-- The exact product. -/
def mul : Fl → Fl → Fl
  | .nan, _ | _, .nan => .nan
  | .inf a, .inf b => .inf (a != b)
  | .inf a, .fin b n _ => if n = 0 then .nan else .inf (a != b)
  | .fin a m _, .inf b => if m = 0 then .nan else .inf (a != b)
  | .fin a m e, .fin b n g => .fin (a != b) (m * n) (e + g)

/-- The quotient rounded to a format (R195). -/
def div (f : FFmt) : Fl → Fl → Nat
  | .nan, _ | _, .nan => f.nan
  | .inf _, .inf _ => f.nan
  | .inf a, .fin b _ _ => f.sign (a != b) + f.infBits
  | .fin a _ _, .inf b => f.sign (a != b)
  | .fin a m e, .fin b n g =>
    if n = 0 then (if m = 0 then f.nan else f.sign (a != b) + f.infBits)
    else if m = 0 then f.sign (a != b)
    else
      let k := f.fb + 4 + n.log2
      let t := m * 2 ^ k
      roundMag f (a != b) (t / n) (e - g - k) (t % n != 0)

/-- Comparison of two values that are not NaN: −0 equals +0. -/
def cmp : Fl → Fl → Ordering
  | .inf a, .inf b => compare (if a then 0 else 1) (if b then 0 else 1)
  | .inf a, _ => if a then .lt else .gt
  | _, .inf b => if b then .gt else .lt
  | .fin a m e, .fin b n g =>
    let lo := min e g
    compare (scaled a m e lo) (scaled b n g lo)
  | _, _ => .eq

/-- A < B, false where one is a NaN (R195). -/
def lt (x y : Fl) : Bool := x != .nan && y != .nan && x.cmp y == .lt
/-- A = B, false where one is a NaN. -/
def eq (x y : Fl) : Bool := x != .nan && y != .nan && x.cmp y == .eq

/-- A finite value rounded to an integer: to nearest with ties to even, or toward zero (R197). -/
def toInt (neg : Bool) (m : Nat) (e : Int) (rz : Bool) : Int :=
  let n : Nat :=
    if 0 ≤ e then m * 2 ^ e.toNat
    else
      let sh := (-e).toNat
      let n := m / 2 ^ sh
      let r := m % 2 ^ sh
      let half := 2 ^ (sh - 1)
      if !rz && (decide (half < r) || (r == half && n % 2 == 1)) then n + 1 else n
  if neg then -(n : Int) else n

end Fl

/-! ### Integers of an element type -/

/-- Smallest and largest value of an integer type. -/
def intMin (t : ElemType) : Int := if t.signed then -(2 ^ (t.width - 1)) else 0
def intMax (t : ElemType) : Int := if t.signed then 2 ^ (t.width - 1) - 1 else 2 ^ t.width - 1

/-- The integer of an element (R190). -/
def intOf (t : ElemType) (w : Nat) : Int :=
  if t.signed && 2 ^ (t.width - 1) ≤ w then (w : Int) - 2 ^ t.width else w

/-- Wraps an integer into a type's width. -/
def wrapInt (t : ElemType) (x : Int) : Nat := (x % 2 ^ t.width).toNat
/-- Clamps an integer to a type's range. -/
def satInt (t : ElemType) (x : Int) : Nat := wrapInt t (max (intMin t) (min (intMax t) x))

/-- An integer as a floating-point value. -/
def Fl.ofInt (x : Int) : Fl := .fin (decide (x < 0)) x.natAbs 0

/-- The value of an element of a floating-point type. -/
def flOf (t : ElemType) (w : Nat) : Fl := Fl.decode (fmtOf t) w

/-- A conversion (R197, R270): `.SAT` clamps between integer types, `.RZ` rounds toward zero. -/
def convert (src dst : ElemType) (sat rz : Bool) (w : Nat) : Nat :=
  if src.isF then
    let x := flOf src w
    if dst.isF then x.encode (fmtOf dst) rz
    else match x with
      | .nan => 0
      | .inf neg => wrapInt dst (if neg then intMin dst else intMax dst)
      | .fin neg m e => satInt dst (Fl.toInt neg m e rz)
  else
    let x := intOf src w
    if dst.isF then (Fl.ofInt x).encode (fmtOf dst) rz
    else if sat then satInt dst x else wrapInt dst x

/-- The key of R211 for a floating-point pattern. -/
def floatKey (f : FFmt) (w : Nat) : Nat :=
  if w / 2 ^ (f.eb + f.fb) % 2 = 1 then 2 ^ f.width - 1 - w else w + 2 ^ (f.eb + f.fb)

/-- The unsigned order key of an element: integers rank by value (R211). -/
def orderKey (t : ElemType) (w : Nat) : Nat :=
  if t.isF then floatKey (fmtOf t) w else if t.signed then (w + 2 ^ (t.width - 1)) % 2 ^ t.width else w

/-! ### Addition and products of patterns -/

def addBits (f : FFmt) (a b : Nat) : Nat := ((Fl.decode f a).add (Fl.decode f b)).encode f
def subBits (f : FFmt) (a b : Nat) : Nat := ((Fl.decode f a).add (Fl.decode f b).neg).encode f
def mulBits (f : FFmt) (a b : Nat) : Nat := ((Fl.decode f a).mul (Fl.decode f b)).encode f
/-- A fused multiply-add: one rounding (R195). -/
def fmaBits (f : FFmt) (a b c : Fl) : Nat := ((a.mul b).add c).encode f

/-- The decoded value of a code: round(cb[q] × s, BF16) (R191). -/
def cbValue (cb : BitVec 256) (q s : Nat) : Nat := mulBits bf16 (cb.toNat / 2 ^ (16 * q) % 65536) s

/-! ### The profiles (R200 to R206) -/

/-- A nonzero finite term's exponent: floor(log2 |t|). -/
def termExp : Fl → Option Int
  | .fin _ m e => if m = 0 then none else some (e + m.log2)
  | _ => none

/-- Largest exponent among some terms. -/
def maxExp : List Fl → Option Int
  | [] => none
  | t :: l => match termExp t, maxExp l with
    | some a, some b => some (max a b)
    | some a, none => some a
    | none, b => b

/-- A term aligned to the unit 2^u and truncated toward zero on its magnitude. -/
def alignTerm (u : Int) : Fl → Int
  | .fin neg m e =>
    let n : Nat := if u ≤ e then m * 2 ^ (e - u).toNat else m / 2 ^ (u - e).toNat
    if neg then -(n : Int) else n
  | _ => 0

/-- chunk_sum: an integer and its unit exponent; none when every term is zero (R200). -/
def chunkSum (l : List Fl) : Option (Int × Int) :=
  match maxExp l with
  | none => none
  | some e => some ((l.map (alignTerm (e - 47))).sum, e - 47)

/-- accumulate: one rounding, and a zero sum leaves the accumulator (R200). -/
def accumulate (c : Nat) (s : Option (Int × Int)) : Nat :=
  match s with
  | none => c
  | some (n, u) =>
    if n = 0 then c else ((Fl.decode fp32 c).add (.fin (decide (n < 0)) n.natAbs u)).encode fp32

/-- The classification of a chunk (R201): the accumulator it decides, or none when R200 applies. -/
def chunkSpecial (c : Nat) (terms : List Fl) : Option Nat :=
  let pos := terms.any (· == .inf false)
  let neg := terms.any (· == .inf true)
  let cv := Fl.decode fp32 c
  if cv = .nan || terms.any (· == .nan) || (pos && neg) then some fp32.nan
  else if pos || neg then
    if cv = .inf (!neg) then some fp32.nan else some (Fl.encode fp32 (.inf neg))
  else match cv with
    | .inf _ => some c
    | _ => none

/-- One chunk of NP1 and NP6. -/
def sumChunk (c : Nat) (terms : List Fl) : Nat :=
  match chunkSpecial c terms with
  | some r => r
  | none => accumulate c (chunkSum terms)

/-- Cuts a list into chunks of 32; `n` bounds their number. -/
def chunks {α : Type} : Nat → List α → List (List α)
  | 0, _ => []
  | n + 1, l => if l.isEmpty then [] else l.take 32 :: chunks n (l.drop 32)

/-- All chunks of a list. -/
def chunksOf {α : Type} (l : List α) : List (List α) := chunks (l.length / 32 + 1) l

/-- The chunked sum of exact terms into an accumulator (R200, R201). -/
def chunked (c : Nat) (terms : List Fl) : Nat := (chunksOf terms).foldl sumChunk c

/-- The two BF16 parts of a finite FP32 value (R205). -/
def splitFp32 (x : Fl) : Fl × Fl :=
  let hi := Fl.decode bf16 (x.encode bf16 true)
  let lo := Fl.decode bf16 ((x.add hi.neg).encode bf16 true)
  (hi, lo)

/-- One chunk of NP5: three passes (R205). -/
def sumChunk5 (c : Nat) (ab : List (Fl × Fl)) : Nat :=
  match chunkSpecial c (ab.map fun x => x.1.mul x.2) with
  | some r => r
  | none =>
    let s := ab.map fun x => (splitFp32 x.1, splitFp32 x.2)
    let c := accumulate c (chunkSum (s.map fun x => x.1.2.mul x.2.1))
    let c := accumulate c (chunkSum (s.map fun x => x.1.1.mul x.2.2))
    accumulate c (chunkSum (s.map fun x => x.1.1.mul x.2.1))

/-- Sequential saturating sum into INT32 (R204). -/
def satSum (c : Nat) (terms : List Int) : Nat :=
  wrapInt .int32 (terms.foldl (fun c t => max (-(2 ^ 31)) (min (2 ^ 31 - 1) (c + t))) (intOf .int32 c))

/-- The element types that a profile multiplies, after decoding (R199). -/
def profileType (np : Nat) : ElemType :=
  match np with
  | 3 => .int8 | 4 => .int4 | 5 => .fp32 | 6 => .fp16 | _ => .bf16

/-- The dot product of two rows of patterns of the profile's type, into an accumulator (R202 to R206). -/
def dot (np : Nat) (c : Nat) (ab : List (Nat × Nat)) : Nat :=
  let t := profileType np
  if np = 3 ∨ np = 4 then satSum c (ab.map fun x => intOf t x.1 * intOf t x.2)
  else if np = 5 then (chunksOf (ab.map fun x => (flOf t x.1, flOf t x.2))).foldl sumChunk5 c
  else chunked c (ab.map fun x => (flOf t x.1).mul (flOf t x.2))

end Sys2Proof.Machine
end

