-- ==== Sys2Proof/Config.lean ====
section
/-! DEFINITION. What one device fixes (R1) and the free values: constants without a body, one for each
value that the spec leaves open. Nothing in Lean can evaluate them, so a proof holds for every choice. -/

namespace Sys2Proof.Config

/-- Cells of one die: a 12 × 12 grid (R1). -/
def cellsPerDie : Nat := 144
/-- Rows and columns of a die's grid (R1). -/
def gridSide : Nat := 12
/-- Compute dies (R1). -/
def dies : Nat := 4
/-- Cells of the package (R1). -/
def cells : Nat := 576
/-- One past the highest HBM address (R14). -/
def hbmEnd : Nat := 0xC000000000
/-- Bytes of a cell's local window (R18). -/
def localBytes : Nat := 0x400000
/-- Bytes of a cell's share of the cluster window (R19). -/
def shareBytes : Nat := 0x200000
/-- Bytes of a cell's accumulator memory (R21). -/
def accBytes : Nat := 0x40000
/-- Bytes of a cell's tile storage (R284). -/
def tileBytes : Nat := 0x20000

/-- Free value: what a dead register reads as in normal mode (R215), read number `n`. (DESIGN CHOICE: log entry 7.) -/
opaque freeDead : Nat → BitVec 4096
/-- Free value: which of 16 differing entries of a 64 KiB group translates an access (R29). (DESIGN CHOICE: log entry 7.) -/
opaque freeGroupEntry : Nat → BitVec 4
/-- Free value: which side of updates that are not yet visible everywhere a read takes: a walk beside a table write (R33), a cached layout
record that has changed (R75). (DESIGN CHOICE: log entry 7.) -/
opaque freeStale : Nat → Nat
/-- Free value: the entry that a full TLB replaces (R344 names no replacement rule). (DESIGN CHOICE: log entry 7.) -/
opaque freeTlb : Nat → Nat
/-- Free value: how many slots of a trace queue are still taken after a cycle (R365 gives no rate). (DESIGN CHOICE: log entry 7.) -/
opaque freeTrace : Nat → Nat
/-- Free value: a byte at an unpopulated physical address (R14). (DESIGN CHOICE: log entry 100.) -/
opaque freeHole : Nat → BitVec 8
/-- Free value: the way that a data-cache fill replaces (R37 names no replacement rule). (DESIGN CHOICE: log entry 7.) -/
opaque freeVictim : Nat → BitVec 2
/-- Free value: which of the allowed words an instruction fetch takes (R398). (DESIGN CHOICE: log entry 7.) -/
opaque freeFetch : Nat → Nat
/-- Free value: the elements of a device's own layout in the save area (R341), by byte offset and save number. (DESIGN CHOICE: log entry 7.) -/
opaque freeControlByte : Nat → Nat → BitVec 8
/-- Free value: the XMSS^MT verification of an image read from board flash (R386). (DESIGN CHOICE: log entry 8.) -/
opaque imageVerifies : Nat → Bool
/-- Free value: the SHAKE256 digest of a boot image (R386, R387). (DESIGN CHOICE: log entry 8.) -/
opaque imageDigest : Nat → BitVec 256
/-- Free value: the bytes of a quote under leaf `i` for a nonce and a log (R388): the leaf, the signature under the device key and the log
length, in a layout of the device's own. (DESIGN CHOICE: log entry 8.) -/
opaque quoteBytes : Nat → BitVec 256 → List (BitVec 512) → List (BitVec 8)
/-- Free value: how the result of a REPLAY that diverged holds the cell, the slot and the instant (R373). (DESIGN CHOICE: log entry 8.) -/
opaque divergedResult : Nat → Nat → BitVec 64 → BitVec 64
/-- Free value: what a byte that the spec gives no content reads as over the fabric, read number `n` (R374). (DESIGN CHOICE: log entry 7.) -/
opaque freeFabricByte : Nat → BitVec 8
/-- Free value: the result of a remote fabric read, access number `n` (R30): what another device answers. (DESIGN CHOICE: log entry 7.) -/
opaque freeRemote : Nat → BitVec 64
/-- Free value: whether remote fabric access number `n` completes with an error status (R30). (DESIGN CHOICE: log entry 7.) -/
opaque freeRemoteFails : Nat → Bool

end Sys2Proof.Config
end

