-- ==== Sys2Proof/Decode.lean ====
section
/-! DEFINITION. The decoder: the fate of every 64-bit word (R229), and the encoder. A word is read in two
stages. `candidate` picks the instruction that the major opcode and the function fields name, with the
mask of the bits that its format reserves; `decode` then applies the steps of R229 in order. -/

namespace Sys2Proof

/-- What R229 says of a word that is no instruction. `extension n` is opcode 0xE0 + n, whose fate the
discovery registers decide (R231). -/
inductive WordFault where
  | illegalOpcode
  | reservedField
  | emulation
  | extension (n : BitVec 5)
  deriving DecidableEq, Repr

/-! ### Codes -/

def Cond.code : Cond → BitVec 4
  | .eq => 0 | .ne => 1 | .lt => 2 | .ge => 3 | .ltu => 4 | .geu => 5
def Cond.ofCode (c : BitVec 4) : Option Cond :=
  match c.toNat with
  | 0 => some .eq | 1 => some .ne | 2 => some .lt | 3 => some .ge | 4 => some .ltu | 5 => some .geu
  | _ => none

def VCond.code : VCond → BitVec 8
  | .eq => 0 | .ne => 1 | .lt => 2 | .le => 3 | .gt => 4 | .ge => 5
def VCond.ofCode (c : Nat) : Option VCond :=
  match c with
  | 0 => some .eq | 1 => some .ne | 2 => some .lt | 3 => some .le | 4 => some .gt | 5 => some .ge
  | _ => none

def Policy.code : Policy → BitVec 8
  | .first => 0 | .second => 1 | .add => 2 | .max => 3
def Policy.ofCode (c : BitVec 8) : Option Policy :=
  match c.toNat with
  | 0 => some .first | 1 => some .second | 2 => some .add | 3 => some .max
  | _ => none

/-- TY and SUB of a scalar access (R80). -/
def MemWidth.code : MemWidth → BitVec 8
  | .i8 => 0x20 | .i16 => 0x10 | .i32 => 0x00 | .nat8 => 0x60 | .nat16 => 0x50 | .nat32 => 0x40 | .x64 => 0x01
def MemWidth.ofCode (c : BitVec 8) : Option MemWidth :=
  match c.toNat with
  | 0x20 => some .i8 | 0x10 => some .i16 | 0x00 => some .i32
  | 0x60 => some .nat8 | 0x50 => some .nat16 | 0x40 => some .nat32 | 0x01 => some .x64
  | _ => none

def ProbeKind.code : ProbeKind → BitVec 4
  | .read => 0 | .write => 1 | .fetch => 2
def ProbeKind.ofCode (c : BitVec 4) : Option ProbeKind :=
  match c.toNat with
  | 0 => some .read | 1 => some .write | 2 => some .fetch
  | _ => none

/-- TY of an atomic type (R147). -/
def AmoType.code : AmoType → BitVec 4
  | .i32 => 0 | .nat32 => 4 | .i64 => 0 | .nat64 => 4 | .f32 => 8
/-- W64 of an atomic type (R147). -/
def AmoType.w64 : AmoType → Bool
  | .i64 | .nat64 => true
  | _ => false
def AmoType.ofCode (ty : BitVec 4) (w64 : Bool) : Option AmoType :=
  match ty.toNat, w64 with
  | 0, false => some .i32 | 4, false => some .nat32 | 8, false => some .f32
  | 0, true => some .i64 | 4, true => some .nat64
  | _, _ => none

def MemOrd.code : MemOrd → BitVec 2
  | .none => 0 | .acq => 1 | .rel => 2 | .ar => 3
def MemOrd.ofCode (c : BitVec 2) : MemOrd :=
  match c.toNat with
  | 0 => .none | 1 => .acq | 2 => .rel | _ => .ar

def Scope.code : Scope → BitVec 3
  | .ce => 0 | .cl => 1 | .di => 2 | .dv => 3 | .sy => 4
def Scope.ofCode (c : BitVec 3) : Option Scope :=
  match c.toNat with
  | 0 => some .ce | 1 => some .cl | 2 => some .di | 3 => some .dv | 4 => some .sy
  | _ => none

def GenKind.code : GenKind → BitVec 3
  | .sign => 0 | .uniform => 1 | .gauss => 2 | .ropeCos => 3 | .ropeSin => 4
  | .maskCausal => 5 | .maskBand => 6 | .maskKeep => 7
def GenKind.ofCode (c : BitVec 3) : GenKind :=
  match c.toNat with
  | 0 => .sign | 1 => .uniform | 2 => .gauss | 3 => .ropeCos | 4 => .ropeSin
  | 5 => .maskCausal | 6 => .maskBand | _ => .maskKeep

/-! ### Reading the formats -/

namespace Decode

/-- The clock index of a word (R213). -/
def clk (w : Word) : Tag := fld w 53 7
/-- Token bits and clock index of a word (R213). -/
def hdr (w : Word) : Hdr := ⟨fld w 60 4, clk w⟩
/-- The 6-bit register fields at bits 44:39, 37:32 and 30:25. -/
def fD (w : Word) : BitVec 6 := fld w 39 6
def fA (w : Word) : BitVec 6 := fld w 32 6
def fB (w : Word) : BitVec 6 := fld w 25 6
/-- The last-use bits at 38, 31 and 24. -/
def uD (w : Word) : Bool := w.getLsbD 38
def uA (w : Word) : Bool := w.getLsbD 31
def uB (w : Word) : Bool := w.getLsbD 24
/-- The low 16 bits: IMM16 or OFF16. -/
def imm16 (w : Word) : BitVec 16 := fld w 0 16
def imm31 (w : Word) : BitVec 31 := fld w 0 31
/-- FN of the AL register layout (R220). -/
def fnAL (w : Word) : BitVec 8 := fld w 16 8

def srr (w : Word) : SRR := ⟨clk w, fD w, fA w, uA w, fB w, uB w⟩
def sri (w : Word) : SRI := ⟨clk w, fD w, fA w, uA w, imm31 w⟩
def sun (w : Word) : SUn := ⟨clk w, fD w, fA w, uA w⟩
def sshift (w : Word) : SShift := ⟨clk w, fD w, fA w, uA w, fld w 0 6⟩
def sdelay (w : Word) : SDelay := ⟨clk w, fD w, fA w, uA w, fld w 16 4⟩
def vop (w : Word) (ty : ElemType) : VOp :=
  ⟨hdr w, fD w, uD w, fA w, uA w, fB w, uB w, ty, w.getLsbD 11, fld w 8 3, fld w 0 4⟩
def vimm (w : Word) (ty : ElemType) : VImm :=
  ⟨hdr w, fD w, fA w, uA w, ty, w.getLsbD 21, fld w 18 3, imm16 w⟩
def ldstV (w : Word) (d : BitVec 6) : LdStV := ⟨hdr w, fld d 0 5, uD w, fld w 32 4, w.getLsbD 16, imm16 w⟩
def ldstVX (w : Word) (nat32 : Bool) : LdStVX :=
  ⟨hdr w, fld w 39 5, uD w, fld w 32 4, fld w 25 5, uB w, nat32, w.getLsbD 19, fld w 16 3, imm16 w⟩
def streamOp (w : Word) : StreamOp := ⟨hdr w, fld w 39 4, fA w, uA w, imm16 w⟩
def copy (w : Word) : Copy :=
  ⟨hdr w, fD w, uD w, fA w, uA w, fld w 24 7, fld w 20 4, w.getLsbD 19, fld w 17 2, w.getLsbD 16, imm16 w⟩
def chRead (w : Word) : ChRead := ⟨hdr w, fD w, w.getLsbD 20, fld w 32 5, fB w⟩
def chWrite (w : Word) : ChWrite := ⟨hdr w, fD w, uD w, w.getLsbD 20, fld w 32 5⟩
def mcfg (w : Word) : McfgOp := ⟨hdr w, fld w 13 3, fA w, uA w, fB w, uB w⟩
def genSS (w : Word) : GenSS := ⟨hdr w, fld w 39 4, fA w, uA w, fB w, uB w⟩
def amo (w : Word) (ty : AmoType) (sc : Scope) : Amo :=
  ⟨clk w, fD w, fA w, uA w, fB w, uB w, ty, .ofCode (fld w 16 2), fld w 10 6, w.getLsbD 9, sc⟩

/-! ### The reserved bits of the formats -/

/-- Token bits, which every sequencer word reserves (R213). -/
def mTok : Word := bitMask 63 60
/-- Token bits and clock, which every control instruction reserves (R233). -/
def mCtl : Word := bitMask 63 53
/-- AL register layout: token bits, bit 38 and bits 15:0 (R220). -/
def mAL : Word := rangesMask [(63, 60), (38, 38), (15, 0)]
/-- AL immediate layout (R220). -/
def mALI : Word := rangesMask [(63, 60), (38, 38)]
/-- SY: token bits, bit 38 and bits 30:20 (R225). -/
def mSY : Word := rangesMask [(63, 60), (38, 38), (30, 20)]
/-- The NP field, which VV reserves outside the long instructions (R221). -/
def mNP : Word := bitMask 7 4

/-! ### Candidates -/

/-- A candidate and the bits that its format reserves; `none` where the opcode or a code it selects by is
not listed. -/
abbrev Cand := Option (Instr × Word)

/-- The scalar register group, opcode 0x19 (R252). -/
def scalarGroup (w : Word) : Cand :=
  let o := srr w
  let i? : Option Instr :=
    match (fnAL w).toNat with
    | 0x00 => some (.add o) | 0x01 => some (.sub o) | 0x02 => some (.and o) | 0x03 => some (.or o)
    | 0x04 => some (.xor o) | 0x05 => some (.andn o) | 0x06 => some (.sll o) | 0x07 => some (.srl o)
    | 0x08 => some (.sra o) | 0x09 => some (.rotl o) | 0x0A => some (.slt o) | 0x0B => some (.sltu o)
    | 0x0C => some (.seq o) | 0x0D => some (.min o) | 0x0E => some (.max o) | 0x0F => some (.minu o)
    | 0x10 => some (.maxu o) | 0x11 => some (.mul o) | 0x12 => some (.mulh o) | 0x13 => some (.mulhu o)
    | 0x14 => some (.div o) | 0x15 => some (.divu o) | 0x16 => some (.rem o) | 0x17 => some (.remu o)
    | _ => none
  i?.map (·, mAL)

/-- The scalar unary group, opcode 0x22 (R255). -/
def unaryGroup (w : Word) : Cand :=
  let o := sun w
  let m := mAL ||| bitMask 30 24
  match (fnAL w).toNat with
  | 0x00 => some (.clz o, m) | 0x01 => some (.ctz o, m) | 0x02 => some (.popc o, m)
  | 0x03 => some (.sextb o, m) | 0x04 => some (.sexth o, m) | 0x05 => some (.sextw o, m)
  | 0x06 => some (.zextb o, m) | 0x07 => some (.zexth o, m) | 0x08 => some (.zextw o, m)
  | 0x09 => some (.movlc (clk w) (fD w) (fld w 32 3), m ||| bitMask 37 35 ||| bitMask 31 31)
  | _ => none

/-- KDEF, opcode 0x12 (R219). -/
def kdef (w : Word) : Cand :=
  let k : Tag := fld w 38 7
  let p : Tag := fld w 31 7
  match (fld w 29 2).toNat with
  | 0 => some (.kdefEvery k p (fld w 13 16) (fld w 0 13), mCtl)
  | 1 => some (.kdefOn k p (fld w 23 6), mCtl ||| bitMask 22 0)
  | 2 => some (.kdefOnnot k p (fld w 23 6), mCtl ||| bitMask 22 0)
  | _ => some (.kdefUnion k p (fld w 22 7), mCtl ||| bitMask 21 0)

/-- CSRW, opcode 0x26: the registers with behaviour of their own have constructors of their own (R257). -/
def csrwCand (w : Word) : Cand :=
  let c := clk w; let a := fA w; let u := uA w
  let m := mSY ||| bitMask 44 39 ||| bitMask 7 0
  let n := (fld w 8 12).toNat
  let i : Instr :=
    if n == 0x003 then .csrwIscope c a u
    else if n == 0x008 then .csrwBndTags c a u
    else if n == 0x000 then .csrwCtxStatus c a u
    else if 0x020 ≤ n && n ≤ 0x027 then .csrwTcfg c a u (fld w 8 3)
    else if 0x200 ≤ n && n ≤ 0x207 then .csrwPmc c a u (fld w 8 3)
    else if n == 0x036 || n == 0x037 then .csrwTrapScr c a u (fld w 8 1)
    else .csrw c a u (fld w 8 12)
  some (i, m)

/-- An atomic, opcodes 0x34 to 0x3D (R144, R145). A SCOPE of 5 to 7 is a range failure, not an unlisted
value, so it is passed on as a set reserved bit. -/
def amoCand (w : Word) (f : Amo → Instr) : Cand :=
  match AmoType.ofCode (fld w 20 4) (w.getLsbD 5) with
  | none => none
  | some ty =>
    let m := rangesMask [(63, 60), (38, 38), (19, 18), (4, 0)]
    match Scope.ofCode (fld w 6 3) with
    | some sc => some (f (amo w ty sc), m)
    | none => some (f (amo w ty .ce), m ||| bitMask 8 6)

/-- VV opcodes 0x80 to 0x8E (R227, R258 to R282). The mask operations of R281 that have no type leave TY reserved. (DEDUCED: log entries 13 and
105.) -/
def vvCand (op : Nat) (w : Word) : Cand :=
  let fn := (fld w 12 8).toNat
  let bare := op == 0x8D && (fn < 7 || fn == 9 || fn == 10)
  match if bare then some .int32 else ElemType.ofCode (fld w 20 4) with
  | none => none
  | some ty =>
    let o := vop w ty
    let np : BitVec 4 := fld w 4 4
    let r (i : Instr) : Cand := some (i, if bare then mNP ||| bitMask 23 20 else mNP)
    match op, fn with
    | 0x80, 0 => r (.vadd o) | 0x80, 1 => r (.vsub o) | 0x80, 2 => r (.vmul o) | 0x80, 3 => r (.vmin o)
    | 0x80, 4 => r (.vmax o) | 0x80, 5 => r (.vabs o) | 0x80, 6 => r (.vneg o) | 0x80, 7 => r (.vdiv o)
    | 0x80, 8 => r (.vmulh o)
    | 0x81, 0 => r (.vfma o) | 0x81, 1 => r (.vfms o) | 0x81, 2 => r (.vfnma o)
    | 0x82, 0 => r (.vand o) | 0x82, 1 => r (.vor o) | 0x82, 2 => r (.vxor o) | 0x82, 3 => r (.vandn o)
    | 0x82, 4 => r (.vnot o) | 0x82, 5 => r (.vsll o) | 0x82, 6 => r (.vsrl o) | 0x82, 7 => r (.vsra o)
    | 0x82, 8 => r (.vrotl o)
    | 0x83, n => (VCond.ofCode n).bind fun cc => r (.vcmp cc o)
    | 0x84, 0 => r (.vsel o) | 0x84, 1 => r (.vmov o)
    | 0x85, n => if n < 16 then (ElemType.ofCode (fld w 12 4)).bind fun d => r (.vcvt d o) else none
    | 0x86, 0 => some (.vrsum np o, 0)
    | 0x86, 1 => r (.vrmax o) | 0x86, 2 => r (.vrmin o)
    | 0x87, 0 => some (.vscan np o, 0)
    | 0x88, 0 => r (.vrcp o) | 0x88, 1 => r (.vsqrt o) | 0x88, 2 => r (.vrsqrt o) | 0x88, 3 => r (.vexp o)
    | 0x88, 4 => r (.vexp2 o) | 0x88, 5 => r (.vlog2 o) | 0x88, 6 => r (.vtanh o) | 0x88, 7 => r (.vsigm o)
    | 0x89, 0 => r (.vcompress o) | 0x89, 1 => r (.vexpand o)
    | 0x8A, 0 => r (.vhist o) | 0x8A, 1 => r (.vdigit o) | 0x8A, 2 => r (.vordkey o)
    | 0x8B, _ => r (.vtopk (fld w 12 8) o)
    | 0x8C, n => if n < 8 then r (.vcbdec (fld w 12 3) o)
                 else if n < 16 then r (.vcbenc (fld w 12 3) o)
                 else if n < 24 then r (.cbld (fld w 12 3) o) else none
    | 0x8D, 0 => r (.mand o) | 0x8D, 1 => r (.mor o) | 0x8D, 2 => r (.mxor o) | 0x8D, 3 => r (.mandn o)
    | 0x8D, 4 => r (.mnot o) | 0x8D, 5 => r (.mset o) | 0x8D, 6 => r (.mclr o) | 0x8D, 7 => r (.mcnt o)
    | 0x8D, 8 => r (.mfirst o) | 0x8D, 9 => r (.mtov o) | 0x8D, 10 => r (.vtom o)
    | 0x8E, 0 => r (.vextr o) | 0x8E, 1 => r (.vins o) | 0x8E, 2 => r (.vsplat o)
    | 0x98, 0 => r (.whenVector o) | 0x99, 0 => r (.mergeVector o)
    | 0x9A, _ => (Policy.ofCode (fld w 12 8)).bind fun p => r (.unionVector p o)
    | 0x9B, 0 => r (.preVector o) | 0x9C, 0 => r (.fbyVector o) | 0x9D, 0 => r (.currentVector o)
    | _, _ => none

/-- VI opcodes 0x90 to 0x93 (R222, R269). -/
def viCand (op : Nat) (w : Word) : Cand :=
  match ElemType.ofCode (fld w 27 4) with
  | none => none
  | some ty =>
    let o := vimm w ty
    let r (i : Instr) : Cand := some (i, rangesMask [(38, 38), (17, 16)])
    match op, (fld w 22 5).toNat with
    | 0x90, 0 => r (.vaddImm o) | 0x90, 1 => r (.vsubImm o) | 0x90, 2 => r (.vmulImm o)
    | 0x90, 3 => r (.vminImm o) | 0x90, 4 => r (.vmaxImm o)
    | 0x91, 0 => r (.vandImm o) | 0x91, 1 => r (.vorImm o) | 0x91, 2 => r (.vxorImm o)
    | 0x91, 3 => r (.vandnImm o) | 0x91, 5 => r (.vsllImm o) | 0x91, 6 => r (.vsrlImm o)
    | 0x91, 7 => r (.vsraImm o) | 0x91, 8 => r (.vrotlImm o)
    | 0x92, n => (VCond.ofCode n).bind fun cc => r (.vcmpImm cc o)
    | 0x93, 0 => r (.vmovi o)
    | _, _ => none

/-- MT opcodes 0xA0 to 0xA6 (R223, R294). An ITEM of 7 to 31 is out of range (R294), so it is passed on
as a set reserved bit. -/
def mtCand (op : Nat) (w : Word) : Cand :=
  let h := hdr w
  let mTY := bitMask 23 20
  match op with
  | 0xA0 => (ElemType.ofCode (fld w 20 4)).bind fun ty =>
      some (.tcfg h (fld w 39 3) ty (fld w 9 7) (fld w 0 9),
        rangesMask [(44, 42), (38, 38), (37, 24), (19, 16)])
  | 0xA1 =>
      some (.mma ⟨h, fld w 39 4, fld w 32 4, uA w, fld w 25 4, uB w, fld w 16 4,
          w.getLsbD 15, w.getLsbD 14, w.getLsbD 13, w.getLsbD 12⟩,
        rangesMask [(44, 43), (38, 38), (37, 36), (30, 29), (23, 20), (11, 0)])
  | 0xA2 =>
      let o := mcfg w
      let m := rangesMask [(44, 38), (23, 16), (7, 0)]
      match (fld w 8 5).toNat with
      | 0 => some (.mcfgLoop o, m) | 1 => some (.mcfgStep o, m) | 2 => some (.mcfgGstep o, m)
      | 3 => some (.mcfgBase o, m) | 4 => some (.mcfgPitch o, m) | 5 => some (.mcfgOper o, m)
      | 6 => some (.mcfgAcc o, m)
      | _ => some (.mcfgAcc o, m ||| bitMask 12 8)
  | 0xA3 => some (.mgo h (fld w 39 4) (fld w 16 4), rangesMask [(44, 43), (38, 24), (15, 0)] ||| mTY)
  | 0xA4 => some (.accrd ⟨h, fld w 39 5, false, fA w, uA w, imm16 w⟩,
      rangesMask [(44, 44), (38, 38), (30, 24), (19, 16)] ||| mTY)
  | 0xA5 => some (.accwr ⟨h, fld w 25 5, uB w, fA w, uA w, imm16 w⟩,
      rangesMask [(44, 38), (30, 30), (19, 16)] ||| mTY)
  | 0xA6 => some (.accz ⟨h, 0, false, fA w, uA w, imm16 w⟩,
      rangesMask [(44, 38), (30, 24), (19, 16)] ||| mTY)
  | _ => none

/-- GN opcodes 0xB0 to 0xB7 (R224, R308). -/
def gnCand (op : Nat) (w : Word) : Cand :=
  let h := hdr w
  let sub := fnAL w
  let m2 := rangesMask [(44, 43), (38, 38), (15, 0)]
  match op, sub.toNat with
  | 0xB0, _ => some (.gset h (fld w 39 4) (.ofCode (fld w 36 3)) (fld w 26 10) (fld w 16 10) (fld w 0 16),
      bitMask 44 43)
  | 0xB1, 0 => some (.gkey (genSS w), m2) | 0xB1, 1 => some (.gkeyOff (genSS w), m2)
  | 0xB1, 2 => some (.gkeyParam (genSS w), m2)
  | 0xB2, 0 => some (.gctr (genSS w), m2)
  | 0xB3, 0 => some (.gadv (genSS w), m2)
  | 0xB4, 0 => some (.gdraw h (fld w 39 5) (fld w 32 4) (fB w) (uB w), rangesMask [(44, 44), (38, 38), (37, 36), (31, 31), (15, 0)])
  | 0xB4, 1 => some (.gdrawAdv h (fld w 39 5) (fld w 32 4) (fB w) (uB w), rangesMask [(44, 44), (38, 38), (37, 36), (31, 31), (15, 0)])
  | 0xB5, _ => some (.gscope h (fld w 39 4) sub, rangesMask [(44, 43), (38, 24), (15, 0)])
  | 0xB6, 0 => some (.gsave h (fld w 39 5) (fld w 32 4), rangesMask [(44, 44), (38, 38), (37, 36), (31, 24), (15, 0)])
  | 0xB7, 0 => some (.gload h (fld w 39 4) (fld w 32 5) (uA w), rangesMask [(44, 43), (38, 38), (37, 37), (30, 24), (15, 0)])
  | _, _ => none

/-- Sequencer opcodes 0x00 to 0x3F (R227). -/
def seqCand (op : Nat) (w : Word) : Cand :=
  let c := clk w
  let mBar := rangesMask [(63, 60), (38, 38), (19, 0)]
  match op with
  | 0x01 => some (.b (fld w 0 24), mCtl ||| bitMask 44 24)
  | 0x02 => (Cond.ofCode (fld w 27 4)).bind fun cc =>
      some (.br cc (fD w) (uD w) (fA w) (uA w) (fld w 0 24), mCtl ||| bitMask 26 24)
  | 0x03 => some (.call (fld w 0 24), mCtl ||| bitMask 44 24)
  | 0x04 => some (.ret, mCtl ||| bitMask 44 0)
  | 0x05 => some (.jmpr (fD w) (uD w), mCtl ||| bitMask 37 0)
  | 0x06 => some (.callr (fD w) (uD w), mCtl ||| bitMask 37 0)
  | 0x08 => some (.loopRegister ⟨fD w, uD w, fA w, uA w, fB w, uB w, fld w 21 3, fld w 0 21⟩, mCtl)
  | 0x09 => some (.loopImmediate ⟨fld w 42 3, fld w 32 10, fld w 16 16, fld w 10 6, fld w 0 10⟩, mCtl)
  | 0x0A => some (.ibegin, mCtl ||| bitMask 44 0)
  | 0x0B => some (.iend, mCtl ||| bitMask 44 0)
  | 0x0C => if fnAL w == 0#8 then some (.launch (sun w), mAL ||| bitMask 30 24) else none
  | 0x0D => if fnAL w == 0#8 then some (.launchi (srr w), mAL) else none
  | 0x0E => some (.succgo, mCtl ||| bitMask 44 0)
  | 0x0F => some (.waitpred, mCtl ||| bitMask 44 0)
  | 0x10 => some (.retire, mCtl ||| bitMask 44 0)
  | 0x11 => some (.qpoint, mCtl ||| bitMask 44 0)
  | 0x12 => kdef w
  | 0x13 => if fnAL w == 0#8 then some (.whenScalar (sun w), mAL ||| bitMask 30 24) else none
  | 0x14 => if fnAL w == 0#8 then some (.mergeScalar (srr w), mAL) else none
  | 0x15 => (Policy.ofCode (fnAL w)).bind fun p => some (.unionScalar p (srr w), mAL)
  | 0x16 => some (.preScalar (sdelay w), mAL ||| bitMask 30 24 ||| bitMask 23 20)
  | 0x17 => some (.fbyScalar (sdelay w), mAL ||| bitMask 30 24 ||| bitMask 23 20)
  | 0x18 => if fnAL w == 0#8 then some (.currentScalar (sun w), mAL ||| bitMask 30 24) else none
  | 0x19 => scalarGroup w
  | 0x1A => some (.addi (sri w), mALI) | 0x1B => some (.andi (sri w), mALI)
  | 0x1C => some (.ori (sri w), mALI) | 0x1D => some (.xori (sri w), mALI)
  | 0x1E => some (.slti (sri w), mALI) | 0x1F => some (.sltiu (sri w), mALI)
  | 0x20 =>
      let m := mALI ||| bitMask 30 8
      match (fld w 6 2).toNat with
      | 0 => some (.slli (sshift w), m) | 1 => some (.srli (sshift w), m)
      | 2 => some (.srai (sshift w), m) | _ => some (.rotli (sshift w), m)
  | 0x21 => some (.movhi c (fD w) (fld w 0 32), mALI ||| bitMask 37 32)
  | 0x22 => unaryGroup w
  | 0x23 => if (fnAL w).toNat ≤ 6 then some (.shadd (fld w 16 3) (srr w), mAL) else none
  | 0x24 => some (.sel (fld w 16 6) (srr w), mAL ||| bitMask 23 22)
  | 0x25 => some (.csrr c (fD w) (fld w 8 12), mSY ||| bitMask 37 31 ||| bitMask 7 0)
  | 0x26 => csrwCand w
  | 0x28 => some (.trap c (fld w 0 8), mSY ||| bitMask 44 8)
  | 0x29 => some (.tret, mCtl ||| bitMask 44 0)
  | 0x2A => some (.trig c, mTok ||| bitMask 44 0)
  | 0x2B => some (.bkpt c (fld w 0 8), mSY ||| bitMask 44 8)
  | 0x2C => some (.barInit c (fA w) (uA w) (fB w) (uB w) (fld w 20 4), mBar ||| bitMask 44 39)
  | 0x2D => some (.barArrive c (fD w) (fld w 20 4), mBar ||| bitMask 37 24)
  | 0x2E => some (.barWait c (fA w) (uA w) (fld w 20 4), mBar ||| bitMask 44 39 ||| bitMask 30 24)
  | 0x2F => some (.dump c (fA w) (uA w), mSY ||| bitMask 44 39 ||| bitMask 19 0)
  | 0x30 => (MemWidth.ofCode (fld w 16 8)).bind fun mw =>
      some (.ldh ⟨hdr w, fD w, fA w, uA w, mw, imm16 w⟩, rangesMask [(63, 60), (38, 38), (30, 24)])
  | 0x31 => (MemWidth.ofCode (fld w 16 8)).bind fun mw =>
      some (.sth ⟨hdr w, fD w, uD w, fA w, uA w, mw, imm16 w⟩, rangesMask [(63, 60), (30, 24)])
  | 0x32 =>
      let m := rangesMask [(63, 60), (44, 38), (23, 20)]
      match ProbeKind.ofCode (fld w 16 4) with
      | some k => some (.probe c k (fA w) (uA w) (fB w) (uB w) (imm16 w), m)
      | none => some (.probe c .read (fA w) (uA w) (fB w) (uB w) (imm16 w), m ||| bitMask 19 16)
  | 0x34 => amoCand w .amold | 0x35 => amoCand w .amost | 0x36 => amoCand w .amoswap
  | 0x37 => amoCand w .amocas | 0x38 => amoCand w .amoadd | 0x39 => amoCand w .amoand
  | 0x3A => amoCand w .amoor | 0x3B => amoCand w .amoxor | 0x3C => amoCand w .amomin
  | 0x3D => amoCand w .amomax
  | 0x3E =>
      let m := rangesMask [(63, 60), (44, 9), (5, 0)]
      match Scope.ofCode (fld w 6 3) with
      | some sc => some (.fence c sc, m)
      | none => some (.fence c .ce, m ||| bitMask 8 6)
  | 0x3F => some (.syncls c, mTok ||| bitMask 44 0)
  | _ => none

/-- L opcodes 0x40 to 0x7F (R63, R113). -/
def lCand (op : Nat) (w : Word) : Cand :=
  let h := hdr w
  let mCH := rangesMask [(37, 37), (31, 31), (24, 21), (15, 0)]
  match op with
  | 0x40 => (MemWidth.ofCode (fld w 16 8)).bind fun mw =>
      some (.lds ⟨h, fD w, fA w, uA w, mw, imm16 w⟩, rangesMask [(38, 38), (30, 24)])
  | 0x41 => some (.ldv (ldstV w (fD w)), rangesMask [(44, 44), (37, 36), (31, 20), (19, 17)])
  | 0x42 => if (fld w 20 4).toNat == 4 || (fld w 20 4).toNat == 5 then
        some (.ldvx (ldstVX w ((fld w 20 4).toNat == 4)), rangesMask [(44, 44), (37, 36), (31, 31), (30, 30)])
      else none
  | 0x43 => some (.ldt h (fld w 39 3) (fld w 32 4) (w.getLsbD 16), rangesMask [(44, 42), (38, 38), (37, 36), (31, 17), (15, 0)])
  | 0x44 => (ElemType.ofCode (fld w 20 4)).bind fun ty =>
      some (.vperm h ty (fld w 39 5) (fld w 32 5) (uA w) (fld w 25 5) (uB w),
        rangesMask [(44, 44), (38, 37), (30, 30), (19, 0)])
  | 0x48 =>
      let m := rangesMask [(44, 43), (38, 38)]
      match (fld w 16 4).toNat with
      | 0 => some (.aset (streamOp w) (fld w 20 11), m)
      | 1 => some (.asetV (streamOp w) (fld w 20 11), m)
      | _ => some (.aset (streamOp w) (fld w 20 11), m ||| bitMask 19 16)
  | 0x49 => some (.asetx (streamOp w) (fld w 16 4), rangesMask [(44, 43), (38, 38), (30, 20)])
  | 0x4A =>
      let m := rangesMask [(44, 43), (38, 38), (30, 20), (19, 17)]
      if w.getLsbD 16 then some (.aadvAbs (streamOp w), m) else some (.aadv (streamOp w), m)
  | 0x4B => some (.abnd h (fld w 39 4) (fA w) (uA w) (fB w) (uB w), rangesMask [(44, 43), (38, 38), (23, 0)])
  | 0x50 => some (.xcopyIn (copy w), 0) | 0x51 => some (.xcopyInStrided (copy w), 0)
  | 0x52 => some (.xcopyd (copy w), 0)
  | 0x54 => some (.xaddw (copy w), 0) | 0x55 => some (.xaddwStrided (copy w), 0)
  | 0x56 => some (.xbcast (copy w), 0) | 0x57 => some (.xbcastStrided (copy w), 0)
  | 0x58 => some (.chrd (chRead w), mCH ||| rangesMask [(38, 38), (19, 16)])
  | 0x59 => some (.chtry (chRead w), mCH ||| rangesMask [(38, 38), (19, 16)])
  | 0x5A => some (.chtag (chRead w), mCH ||| rangesMask [(38, 38), (19, 16)])
  | 0x5B => some (.chstat h (fD w) (fld w 32 5) (fld w 16 4), mCH ||| rangesMask [(38, 38), (30, 25), (20, 20)])
  | _ => none

/-- S opcodes 0xC0 to 0xDF (R63, R113). -/
def sCand (op : Nat) (w : Word) : Cand :=
  let h := hdr w
  match op with
  | 0xC0 => (MemWidth.ofCode (fld w 16 8)).bind fun mw =>
      some (.sts ⟨h, fD w, uD w, fA w, uA w, mw, imm16 w⟩, bitMask 30 24)
  | 0xC1 => some (.stv (ldstV w (fD w)), rangesMask [(44, 44), (37, 36), (31, 20), (19, 17)])
  | 0xC2 => if (fld w 20 4).toNat == 4 || (fld w 20 4).toNat == 5 then
        some (.stvx (ldstVX w ((fld w 20 4).toNat == 4)), rangesMask [(44, 44), (37, 36), (31, 31), (30, 30)])
      else none
  | 0xD0 => some (.xcopyOut (copy w), 0)
  | 0xD1 => some (.xcopyOutStrided (copy w), 0)
  | 0xD8 =>
      let m := rangesMask [(37, 37), (31, 22), (19, 0)]
      if w.getLsbD 21 then some (.chwrI (chWrite w), m) else some (.chwr (chWrite w), m)
  | 0xD9 => some (.chclose h (fld w 32 5), rangesMask [(44, 37), (31, 0)])
  | _ => none

/-- The candidate that a word's opcode and function fields name. -/
def candidate (w : Word) : Cand :=
  let op := (fld w 45 8).toNat
  if op < 0x40 then seqCand op w
  else if op < 0x80 then lCand op w
  else if op < 0x90 then vvCand op w
  else if op < 0x98 then viCand op w
  else if op < 0xA0 then vvCand op w
  else if op < 0xB0 then mtCand op w
  else if op < 0xC0 then gnCand op w
  else sCand op w

/-- A long instruction (R199, R229). -/
def isLong (w : Word) : Bool :=
  let op := (fld w 45 8).toNat
  op == 0xA1 || op == 0xA3 || ((op == 0x86 || op == 0x87) && fld w 12 8 == 0#8)

/-- The profile number of a long instruction (R223, R221). -/
def profile (w : Word) : BitVec 4 := if (fld w 45 8).toNat < 0x90 then fld w 4 4 else fld w 16 4

end Decode

/-- DISC.NP of the device: profiles 1 to 6 (R209). -/
def discNp : BitVec 16 := 0x007E

/-- The fate of every word, in the order of R229. -/
def decode (w : Word) : Except WordFault Instr :=
  let op : BitVec 8 := fld w 45 8
  if 0xE0 ≤ op.toNat then .error (.extension (fld w 45 5))
  else if Decode.isLong w && Decode.profile w != 0#4 && !discNp.getLsbD (Decode.profile w).toNat then
    .error .emulation
  else
    match Decode.candidate w with
    | none => .error .illegalOpcode
    | some (i, reserved) =>
      if !i.listed then .error .illegalOpcode
      else if (w &&& reserved) != 0#64 || !i.ranged then .error .reservedField
      else .ok i

/-- The step that the sequencer takes for a word: the instruction, or INVALID_WORD (R230). -/
def decodeInstr (w : Word) : Instr :=
  match decode w with
  | .ok i => i
  | .error _ => .invalidWord w

/-- The 64-bit word of eight bytes, least significant first (R213, R3). -/
def wordOfBytes : List Byte → Word
  | [] => 0
  | b :: bs => (wordOfBytes bs <<< 8) ||| zx b

/-- The decoder on bytes: eight bytes are one word; fewer are no instruction. -/
def decodeBytes (bs : List Byte) : Except WordFault Instr :=
  if bs.length < 8 then .error .illegalOpcode else decode (wordOfBytes (bs.take 8))

/-- The instruction that the decoder reads from a table word (bits above `nbits` are zero). -/
def decodeTableWord (nbits w : Nat) : Option Instr :=
  match decode (BitVec.ofNat 64 (w % 2 ^ nbits)) with
  | .ok i => some i
  | .error _ => none

/-! ### The encoder -/

namespace Encode

/-- One bit. -/
abbrev bit (b : Bool) : BitVec 1 := BitVec.ofBool b

/-- A word of the sequencer: no token bits (R213). -/
def seq (clk : Tag) (op : BitVec 8) (body : BitVec 45) : Word := 0#4 ++ clk ++ op ++ body
/-- A control word: neither token bits nor a clock (R233). -/
def ctl (op : BitVec 8) (body : BitVec 45) : Word := seq 0 op body
/-- A word of a queue. -/
def que (h : Hdr) (op : BitVec 8) (body : BitVec 45) : Word := h.tok ++ h.clk ++ op ++ body

/-- AL register layout (R220). -/
def al (d a : BitVec 6) (ua : Bool) (b : BitVec 6) (ub : Bool) (fn : BitVec 8) : BitVec 45 :=
  d ++ 0#1 ++ a ++ bit ua ++ b ++ bit ub ++ fn ++ 0#16
def alR (o : SRR) (op fn : BitVec 8) : Word := seq o.clk op (al o.d o.a o.ua o.b o.ub fn)
def alU (o : SUn) (op fn : BitVec 8) : Word := seq o.clk op (al o.d o.a o.ua 0 false fn)
/-- AL immediate layout (R220). -/
def alI (o : SRI) (op : BitVec 8) : Word := seq o.clk op (o.d ++ 0#1 ++ o.a ++ bit o.ua ++ o.imm)
def alS (o : SShift) (f : BitVec 2) : Word :=
  seq o.clk 0x20 (o.d ++ 0#1 ++ o.a ++ bit o.ua ++ 0#23 ++ f ++ o.amt)
def alD (o : SDelay) (op : BitVec 8) : Word := seq o.clk op (al o.d o.a o.ua 0 false (0#4 ++ o.dl))
/-- SQ branch layout (R219). -/
def branch (op : BitVec 8) (a : BitVec 6) (ua : Bool) (b : BitVec 6) (ub : Bool) (cond : BitVec 4) (off : BitVec 24) :
    Word := ctl op (a ++ bit ua ++ b ++ bit ub ++ cond ++ 0#3 ++ off)
def kdefW (k p : Tag) (ks : BitVec 2) (x : BitVec 29) : Word := ctl 0x12 (k ++ p ++ ks ++ x)
/-- SY (R225). -/
def sy (clk : Tag) (op : BitVec 8) (d a : BitVec 6) (ua : Bool) (csr : BitVec 12) (code : BitVec 8) : Word :=
  seq clk op (d ++ 0#1 ++ a ++ bit ua ++ 0#11 ++ csr ++ code)
/-- ST (R61). -/
def st (d : BitVec 6) (ud : Bool) (b : BitVec 6) (ub : Bool) (x : BitVec 6) (ux : Bool) (tySub : BitVec 8)
    (imm : BitVec 16) : BitVec 45 := d ++ bit ud ++ b ++ bit ub ++ x ++ bit ux ++ tySub ++ imm
def amoW (o : Amo) (op : BitVec 8) : Word :=
  seq o.clk op (st o.d false o.b o.ub o.x o.ux (o.ty.code ++ 0#2 ++ o.ord.code)
    (o.c ++ bit o.uc ++ o.scope.code ++ bit o.ty.w64 ++ 0#5))
/-- XC (R62). -/
def xc (o : Copy) (op : BitVec 8) : Word :=
  que o.h op (o.d ++ bit o.ud ++ o.s ++ bit o.us ++ o.n ++ o.bar ++ bit o.be ++ o.slot ++ bit o.li ++ o.off)
/-- CH (R112). -/
def ch (h : Hdr) (op : BitVec 8) (d : BitVec 6) (ud : Bool) (p : BitVec 5) (x : BitVec 6) (i v : Bool)
    (sl : BitVec 4) : Word :=
  que h op (d ++ bit ud ++ 0#1 ++ p ++ 0#1 ++ x ++ 0#3 ++ bit i ++ bit v ++ sl ++ 0#16)
/-- VV (R221). -/
def vv (o : VOp) (op fn : BitVec 8) (np : BitVec 4 := 0) : Word :=
  que o.h op (o.d ++ bit o.ud ++ o.a ++ bit o.ua ++ o.b ++ bit o.ub ++ o.ty.code ++ fn ++ bit o.me ++ o.msk ++ np ++ o.mod)
/-- VI (R222). -/
def vi (o : VImm) (op : BitVec 8) (fn : BitVec 5) : Word :=
  que o.h op (o.d ++ 0#1 ++ o.a ++ bit o.ua ++ o.ty.code ++ fn ++ bit o.me ++ o.msk ++ 0#2 ++ o.imm)
/-- MT (R223). -/
def mt (h : Hdr) (op : BitVec 8) (d a : BitVec 6) (ua : Bool) (b : BitVec 6) (ub : Bool) (ty np : BitVec 4)
    (low : BitVec 16) : Word := que h op (d ++ 0#1 ++ a ++ bit ua ++ b ++ bit ub ++ ty ++ np ++ low)
def mcfgW (o : McfgOp) (item : BitVec 5) : Word := mt o.h 0xA2 0 o.a o.ua o.b o.ub 0 0 (o.lvl ++ item ++ 0#8)
/-- GN register layout (R224). -/
def gn (h : Hdr) (op : BitVec 8) (d a : BitVec 6) (ua : Bool) (b : BitVec 6) (ub : Bool) (sub : BitVec 8) : Word :=
  que h op (d ++ 0#1 ++ a ++ bit ua ++ b ++ bit ub ++ sub ++ 0#16)
def genW (o : GenSS) (op sub : BitVec 8) : Word := gn o.h op (0#2 ++ o.d) o.a o.ua o.b o.ub sub
def stream (o : StreamOp) (op : BitVec 8) (ln : BitVec 11) (sub : BitVec 4) : Word :=
  que o.h op (0#2 ++ o.d ++ 0#1 ++ o.b ++ bit o.ub ++ ln ++ sub ++ o.imm)
def ldW (o : LdS) (op : BitVec 8) : Word := que o.h op (st o.d false o.b o.ub 0 false o.w.code o.imm)
def stW (o : StS) (op : BitVec 8) : Word := que o.h op (st o.d o.ud o.b o.ub 0 false o.w.code o.imm)
def vecW (o : LdStV) (op : BitVec 8) : Word :=
  que o.h op (st (0#1 ++ o.d) o.ud (0#2 ++ o.b) false 0 false (0#7 ++ bit o.adv) o.imm)
def idxW (o : LdStVX) (op : BitVec 8) : Word :=
  que o.h op (st (0#1 ++ o.d) o.ud (0#2 ++ o.b) false (0#1 ++ o.x) o.ux
    ((if o.nat32 then 4#4 else 5#4) ++ bit o.me ++ o.msk) o.imm)
def chR (o : ChRead) (op : BitVec 8) : Word := ch o.h op o.d false o.p o.x false o.v 0
def accW (o : AccOp) (op : BitVec 8) (d : BitVec 6) (b : BitVec 6) : Word :=
  mt o.h op d o.a o.ua b o.uv 0 0 o.off

end Encode

open Encode in
/-- The word of a well-formed instruction, from the same formats (R219 to R227). An event has no word. -/
def encode : Instr → Option Word
  | .b off => some (branch 0x01 0 false 0 false 0 off)
  | .br cc a ua rb ub off => some (branch 0x02 a ua rb ub cc.code off)
  | .call off => some (branch 0x03 0 false 0 false 0 off)
  | .ret => some (ctl 0x04 0)
  | .jmpr a ua => some (branch 0x05 a ua 0 false 0 0)
  | .callr a ua => some (branch 0x06 a ua 0 false 0 0)
  | .loopRegister o => some (ctl 0x08 (o.a ++ bit o.ua ++ o.b ++ bit o.ub ++ o.c ++ bit o.uc ++ o.lc ++ o.fin))
  | .loopImmediate o => some (ctl 0x09 (o.lc ++ o.start ++ o.bound ++ o.step ++ o.fin))
  | .ibegin => some (ctl 0x0A 0)
  | .iend => some (ctl 0x0B 0)
  | .launch o => some (alU o 0x0C 0)
  | .launchi o => some (alR o 0x0D 0)
  | .succgo => some (ctl 0x0E 0)
  | .waitpred => some (ctl 0x0F 0)
  | .retire => some (ctl 0x10 0)
  | .qpoint => some (ctl 0x11 0)
  | .kdefEvery k p n phase => some (kdefW k p 0 (n ++ phase))
  | .kdefOn k p c => some (kdefW k p 1 (c ++ 0#23))
  | .kdefOnnot k p c => some (kdefW k p 2 (c ++ 0#23))
  | .kdefUnion k p q => some (kdefW k p 3 (q ++ 0#22))
  | .whenScalar o => some (alU o 0x13 0)
  | .mergeScalar o => some (alR o 0x14 0)
  | .unionScalar p o => some (alR o 0x15 p.code)
  | .preScalar o => some (alD o 0x16)
  | .fbyScalar o => some (alD o 0x17)
  | .currentScalar o => some (alU o 0x18 0)
  | .add o => some (alR o 0x19 0x00) | .sub o => some (alR o 0x19 0x01)
  | .and o => some (alR o 0x19 0x02) | .or o => some (alR o 0x19 0x03)
  | .xor o => some (alR o 0x19 0x04) | .andn o => some (alR o 0x19 0x05)
  | .sll o => some (alR o 0x19 0x06) | .srl o => some (alR o 0x19 0x07)
  | .sra o => some (alR o 0x19 0x08) | .rotl o => some (alR o 0x19 0x09)
  | .slt o => some (alR o 0x19 0x0A) | .sltu o => some (alR o 0x19 0x0B)
  | .seq o => some (alR o 0x19 0x0C) | .min o => some (alR o 0x19 0x0D)
  | .max o => some (alR o 0x19 0x0E) | .minu o => some (alR o 0x19 0x0F)
  | .maxu o => some (alR o 0x19 0x10) | .mul o => some (alR o 0x19 0x11)
  | .mulh o => some (alR o 0x19 0x12) | .mulhu o => some (alR o 0x19 0x13)
  | .div o => some (alR o 0x19 0x14) | .divu o => some (alR o 0x19 0x15)
  | .rem o => some (alR o 0x19 0x16) | .remu o => some (alR o 0x19 0x17)
  | .addi o => some (alI o 0x1A) | .andi o => some (alI o 0x1B) | .ori o => some (alI o 0x1C)
  | .xori o => some (alI o 0x1D) | .slti o => some (alI o 0x1E) | .sltiu o => some (alI o 0x1F)
  | .slli o => some (alS o 0) | .srli o => some (alS o 1) | .srai o => some (alS o 2) | .rotli o => some (alS o 3)
  | .movhi clk d imm => some (seq clk 0x21 (d ++ 0#1 ++ 0#6 ++ imm))
  | .clz o => some (alU o 0x22 0) | .ctz o => some (alU o 0x22 1) | .popc o => some (alU o 0x22 2)
  | .sextb o => some (alU o 0x22 3) | .sexth o => some (alU o 0x22 4) | .sextw o => some (alU o 0x22 5)
  | .zextb o => some (alU o 0x22 6) | .zexth o => some (alU o 0x22 7) | .zextw o => some (alU o 0x22 8)
  | .movlc clk d lc => some (seq clk 0x22 (al d (0#3 ++ lc) false 0 false 9))
  | .shadd n o => some (alR o 0x23 (0#5 ++ n))
  | .sel c o => some (alR o 0x24 (0#2 ++ c))
  | .csrr clk d csr => some (sy clk 0x25 d 0 false csr 0)
  | .csrw clk a ua csr => some (sy clk 0x26 0 a ua csr 0)
  | .csrwIscope clk a ua => some (sy clk 0x26 0 a ua 0x003 0)
  | .csrwBndTags clk a ua => some (sy clk 0x26 0 a ua 0x008 0)
  | .csrwTcfg clk a ua t => some (sy clk 0x26 0 a ua (0x04#9 ++ t) 0)
  | .csrwCtxStatus clk a ua => some (sy clk 0x26 0 a ua 0x000 0)
  | .csrwPmc clk a ua n => some (sy clk 0x26 0 a ua (0x40#9 ++ n) 0)
  | .csrwTrapScr clk a ua n => some (sy clk 0x26 0 a ua (0x1B#11 ++ n) 0)
  | .trap clk code => some (sy clk 0x28 0 0 false 0 code)
  | .bkpt clk code => some (sy clk 0x2B 0 0 false 0 code)
  | .tret => some (ctl 0x29 0)
  | .trig clk => some (sy clk 0x2A 0 0 false 0 0)
  | .barInit clk rb ub x ux bar => some (seq clk 0x2C (st 0 false rb ub x ux (bar ++ 0#4) 0))
  | .barArrive clk d bar => some (seq clk 0x2D (st d false 0 false 0 false (bar ++ 0#4) 0))
  | .barWait clk rb ub bar => some (seq clk 0x2E (st 0 false rb ub 0 false (bar ++ 0#4) 0))
  | .dump clk a ua => some (sy clk 0x2F 0 a ua 0 0)
  | .ldh o => some (ldW o 0x30)
  | .sth o => some (stW o 0x31)
  | .probe clk kind rb ub x ux imm => some (seq clk 0x32 (st 0 false rb ub x ux (0#4 ++ kind.code) imm))
  | .amold o => some (amoW o 0x34) | .amost o => some (amoW o 0x35) | .amoswap o => some (amoW o 0x36)
  | .amocas o => some (amoW o 0x37) | .amoadd o => some (amoW o 0x38) | .amoand o => some (amoW o 0x39)
  | .amoor o => some (amoW o 0x3A) | .amoxor o => some (amoW o 0x3B) | .amomin o => some (amoW o 0x3C)
  | .amomax o => some (amoW o 0x3D)
  | .fence clk sc => some (seq clk 0x3E (0#36 ++ sc.code ++ 0#6))
  | .syncls clk => some (seq clk 0x3F 0)
  | .lds o => some (ldW o 0x40)
  | .sts o => some (stW o 0xC0)
  | .ldv o => some (vecW o 0x41)
  | .stv o => some (vecW o 0xC1)
  | .ldvx o => some (idxW o 0x42)
  | .stvx o => some (idxW o 0xC2)
  | .ldt h d rb adv => some (que h 0x43 (st (0#3 ++ d) false (0#2 ++ rb) false 0 false (0#7 ++ bit adv) 0))
  | .vperm h ty d s us x ux =>
      some (que h 0x44 (st (0#1 ++ d) false (0#1 ++ s) us (0#1 ++ x) ux (ty.code ++ 0#4) 0))
  | .aset o ln => some (stream o 0x48 ln 0)
  | .asetV o ln => some (stream o 0x48 ln 1)
  | .asetx o dim => some (stream o 0x49 0 dim)
  | .aadv o => some (stream o 0x4A 0 0)
  | .aadvAbs o => some (stream o 0x4A 0 1)
  | .abnd h d rb ub x ux => some (que h 0x4B (st (0#2 ++ d) false rb ub x ux 0 0))
  | .xcopyIn o => some (xc o 0x50) | .xcopyInStrided o => some (xc o 0x51) | .xcopyd o => some (xc o 0x52)
  | .xaddw o => some (xc o 0x54) | .xaddwStrided o => some (xc o 0x55)
  | .xbcast o => some (xc o 0x56) | .xbcastStrided o => some (xc o 0x57)
  | .xcopyOut o => some (xc o 0xD0) | .xcopyOutStrided o => some (xc o 0xD1)
  | .chwr o => some (ch o.h 0xD8 o.d o.ud o.p 0 false o.v 0)
  | .chwrI o => some (ch o.h 0xD8 o.d o.ud o.p 0 true o.v 0)
  | .chclose h p => some (ch h 0xD9 0 false p 0 false false 0)
  | .chrd o => some (chR o 0x58) | .chtry o => some (chR o 0x59) | .chtag o => some (chR o 0x5A)
  | .chstat h d p sl => some (ch h 0x5B d false p 0 false false sl)
  | .vadd o => some (vv o 0x80 0) | .vsub o => some (vv o 0x80 1) | .vmul o => some (vv o 0x80 2)
  | .vmin o => some (vv o 0x80 3) | .vmax o => some (vv o 0x80 4) | .vabs o => some (vv o 0x80 5)
  | .vneg o => some (vv o 0x80 6) | .vdiv o => some (vv o 0x80 7) | .vmulh o => some (vv o 0x80 8)
  | .vfma o => some (vv o 0x81 0) | .vfms o => some (vv o 0x81 1) | .vfnma o => some (vv o 0x81 2)
  | .vand o => some (vv o 0x82 0) | .vor o => some (vv o 0x82 1) | .vxor o => some (vv o 0x82 2)
  | .vandn o => some (vv o 0x82 3) | .vnot o => some (vv o 0x82 4) | .vsll o => some (vv o 0x82 5)
  | .vsrl o => some (vv o 0x82 6) | .vsra o => some (vv o 0x82 7) | .vrotl o => some (vv o 0x82 8)
  | .vcmp cc o => some (vv o 0x83 cc.code)
  | .vsel o => some (vv o 0x84 0) | .vmov o => some (vv o 0x84 1)
  | .vaddImm o => some (vi o 0x90 0) | .vsubImm o => some (vi o 0x90 1) | .vmulImm o => some (vi o 0x90 2)
  | .vminImm o => some (vi o 0x90 3) | .vmaxImm o => some (vi o 0x90 4)
  | .vandImm o => some (vi o 0x91 0) | .vorImm o => some (vi o 0x91 1) | .vxorImm o => some (vi o 0x91 2)
  | .vandnImm o => some (vi o 0x91 3) | .vsllImm o => some (vi o 0x91 5) | .vsrlImm o => some (vi o 0x91 6)
  | .vsraImm o => some (vi o 0x91 7) | .vrotlImm o => some (vi o 0x91 8)
  | .vcmpImm cc o => some (vi o 0x92 (fld cc.code 0 5))
  | .vmovi o => some (vi o 0x93 0)
  | .vcvt dst o => some (vv o 0x85 (0#4 ++ dst.code))
  | .vrsum np o => some (vv o 0x86 0 np)
  | .vrmax o => some (vv o 0x86 1) | .vrmin o => some (vv o 0x86 2)
  | .vscan np o => some (vv o 0x87 0 np)
  | .vrcp o => some (vv o 0x88 0) | .vsqrt o => some (vv o 0x88 1) | .vrsqrt o => some (vv o 0x88 2)
  | .vexp o => some (vv o 0x88 3) | .vexp2 o => some (vv o 0x88 4) | .vlog2 o => some (vv o 0x88 5)
  | .vtanh o => some (vv o 0x88 6) | .vsigm o => some (vv o 0x88 7)
  | .vcompress o => some (vv o 0x89 0) | .vexpand o => some (vv o 0x89 1)
  | .vhist o => some (vv o 0x8A 0) | .vdigit o => some (vv o 0x8A 1) | .vordkey o => some (vv o 0x8A 2)
  | .vtopk k o => some (vv o 0x8B k)
  | .vcbdec cb o => some (vv o 0x8C (0#5 ++ cb)) | .vcbenc cb o => some (vv o 0x8C (1#5 ++ cb))
  | .cbld cb o => some (vv o 0x8C (2#5 ++ cb))
  | .mand o => some (vv o 0x8D 0) | .mor o => some (vv o 0x8D 1) | .mxor o => some (vv o 0x8D 2)
  | .mandn o => some (vv o 0x8D 3) | .mnot o => some (vv o 0x8D 4) | .mset o => some (vv o 0x8D 5)
  | .mclr o => some (vv o 0x8D 6) | .mcnt o => some (vv o 0x8D 7) | .mfirst o => some (vv o 0x8D 8)
  | .mtov o => some (vv o 0x8D 9) | .vtom o => some (vv o 0x8D 10)
  | .vextr o => some (vv o 0x8E 0) | .vins o => some (vv o 0x8E 1) | .vsplat o => some (vv o 0x8E 2)
  | .whenVector o => some (vv o 0x98 0) | .mergeVector o => some (vv o 0x99 0)
  | .unionVector p o => some (vv o 0x9A p.code)
  | .preVector o => some (vv o 0x9B 0) | .fbyVector o => some (vv o 0x9C 0) | .currentVector o => some (vv o 0x9D 0)
  | .tcfg h t ty rows rlen => some (mt h 0xA0 (0#3 ++ t) 0 false 0 false ty.code 0 (rows ++ rlen))
  | .mma o => some (mt o.h 0xA1 (0#2 ++ o.d) (0#2 ++ o.a) o.ua (0#2 ++ o.b) o.ub 0 o.np
      (bit o.ga ++ bit o.gb ++ bit o.ta ++ bit o.tb ++ 0#12))
  | .mcfgLoop o => some (mcfgW o 0) | .mcfgStep o => some (mcfgW o 1) | .mcfgGstep o => some (mcfgW o 2)
  | .mcfgBase o => some (mcfgW o 3) | .mcfgPitch o => some (mcfgW o 4) | .mcfgOper o => some (mcfgW o 5)
  | .mcfgAcc o => some (mcfgW o 6)
  | .mgo h d np => some (mt h 0xA3 (0#2 ++ d) 0 false 0 false 0 np 0)
  | .accrd o => some (accW o 0xA4 (0#1 ++ o.v) 0)
  | .accwr o => some (accW o 0xA5 0 (0#1 ++ o.v))
  | .accz o => some (accW o 0xA6 0 0)
  | .gset h d kind rows cols scale => some (que h 0xB0 (0#2 ++ d ++ kind.code ++ rows ++ cols ++ scale))
  | .gkey o => some (genW o 0xB1 0) | .gkeyOff o => some (genW o 0xB1 1) | .gkeyParam o => some (genW o 0xB1 2)
  | .gctr o => some (genW o 0xB2 0) | .gadv o => some (genW o 0xB3 0)
  | .gdraw h d a rb ub => some (gn h 0xB4 (0#1 ++ d) (0#2 ++ a) false rb ub 0)
  | .gdrawAdv h d a rb ub => some (gn h 0xB4 (0#1 ++ d) (0#2 ++ a) false rb ub 1)
  | .gscope h d sc => some (gn h 0xB5 (0#2 ++ d) 0 false 0 false sc)
  | .gsave h d a => some (gn h 0xB6 (0#1 ++ d) (0#2 ++ a) false 0 false 0)
  | .gload h d a ua => some (gn h 0xB7 (0#2 ++ d) (0#1 ++ a) ua 0 false 0)
  | .invalidWord w => some w
  | .delayRotation | .commit | .copyCompletion | .loadDelivery | .storePerform
  | .channelPush | .refillStart | .refillLanding | .creditReturn | .deadlockDetectorFire
  | .checksumMismatch | .nestIteration | .retirementTrackerFree | .launchiCountRead | .groupAdmission
  | .scratchImageLoaded | .launchAgeing | .preemptionTake | .preemptBoundExpiry | .contextResume
  | .preciseStop | .invalidationWatchdogExpiry | .replayWatchdogExpiry | .triggerLatch | .sampleRecord
  | .fabricAccess | .cmdLaunch | .cmdTable | .cmdTrigger | .cmdRecord
  | .cmdReplay | .cmdPreempt | .cmdResume | .cmdStop | .cmdDiscard
  | .cmdReset | .cmdClass | .cmdDump | .cmdConfig | .cmdLoess
  | .cmdAttest | .powerOn | .currentClamp | .thermalClamp | .thermalShutdown
  | .cellCycle | .timeBaseTick | .scalarAccessReturn | .softError | .slotTableWrite
  | .lockGroupFrequencyChange | .firmwarePreemptionRequest | .clampRelease | .powerLoss => none

end Sys2Proof
end

