-- ==== Sys2Proof/Machine/State.lean ====
section
/-! DEFINITION. The state of the device: everything the spec gives it, as plain data. Collections of like
things (cells, contexts, channels, dies) are association lists; a key that is absent stands for the value
after reset. -/

namespace Sys2Proof.Machine

/-! ### Association lists -/

/-- The value at a key. -/
def find? {κ α : Type} [DecidableEq κ] : List (κ × α) → κ → Option α
  | [], _ => none
  | (k, v) :: l, x => if k = x then some v else find? l x

/-- Replaces the value at a key, or adds it at the end. -/
def put {κ α : Type} [DecidableEq κ] : List (κ × α) → κ → α → List (κ × α)
  | [], x, a => [(x, a)]
  | (k, v) :: l, x, a => if k = x then (k, a) :: l else (k, v) :: put l x a

/-- Removes a key. -/
def drop {κ α : Type} [DecidableEq κ] : List (κ × α) → κ → List (κ × α)
  | [], _ => []
  | (k, v) :: l, x => if k = x then drop l x else (k, v) :: drop l x

/-! ### Registers of a context -/

/-- A scalar register: value, clock tag (R178), dead mark (R215), pending bit (R160) and poison (R351). -/
structure SReg where
  val : Word := 0
  tag : Tag := 0
  dead : Bool := false
  pend : Bool := false
  bad : Bool := false
  deriving DecidableEq, Repr

/-- A vector register: value, clock tag, dead mark, and one poison bit for each 64-bit word (R351). That a load will write it is
derived: a receive entry for it stands in the C queue (R160, R161). -/
structure VReg where
  val : Vec := 0
  tag : Tag := 0
  dead : Bool := false
  bad : BitVec 64 := 0
  /-- an ACCRD has issued and not yet written it (R292) -/
  pend : Bool := false
  deriving DecidableEq, Repr

/-- A context's own view of a tile register: TCFG.Tn (R283), clock tag and dead mark (R284). -/
structure TReg where
  cfg : Word := 0
  tag : Tag := 0
  dead : Bool := false
  deriving DecidableEq, Repr

/-- A delay register (R183, R250): held value with its F bit, next value with its valid bit. -/
structure DReg where
  held : Vec := 0
  heldTag : Tag := 0
  f : Bool := false
  next : Vec := 0
  nextTag : Tag := 0
  nextF : Bool := false
  valid : Bool := false
  deriving DecidableEq, Repr

/-- A stream register (R69). -/
structure StreamReg where
  base : Word := 0
  pos : Word := 0
  ext : Vector (BitVec 32) 6 := .replicate 6 0
  layout : BitVec 56 := 0
  sp : Bool := false
  bv : Bool := false
  blo : Word := 0
  bhi : Word := 0
  record : BitVec 512 := 0
  deriving DecidableEq, Repr

/-- A generator register (R302). -/
structure Gen where
  key : BitVec 128 := 0
  ctr : BitVec 128 := 0
  cctr : BitVec 128 := 0
  rows : BitVec 32 := 0
  cols : BitVec 32 := 0
  roff : BitVec 32 := 0
  coff : BitVec 32 := 0
  stride : BitVec 32 := 0
  scale : BitVec 16 := 0
  kind : BitVec 3 := 0
  scope : BitVec 8 := 0
  param : Word := 0
  deriving DecidableEq, Repr

/-- A clock's definition (R177, R244). -/
inductive ClockDef where
  | undef
  | every (p : Tag) (n : BitVec 16) (phase : BitVec 13)
  | on (p : Tag) (c : BitVec 6)
  | onnot (p : Tag) (c : BitVec 6)
  | union (p q : Tag)
  deriving DecidableEq, Repr

/-- A clock register: the definition in effect, the one that the next IBEGIN brings into effect, and the
presence fixed for the current instant (R177). -/
structure Clock where
  cur : ClockDef := .undef
  new : Option ClockDef := none
  known : Bool := false
  present : Bool := false
  deriving DecidableEq, Repr

/-- One level of a nest configuration (R294). -/
structure NestLevel where
  count : BitVec 32 := 1
  sc : BitVec 32 := 0
  sa : BitVec 32 := 0
  sb : BitVec 32 := 0
  sgr : BitVec 32 := 0
  sgc : BitVec 32 := 0
  deriving DecidableEq, Repr

/-- A nest configuration (R294). -/
structure NestCfg where
  lvl : Vector NestLevel 6 := .replicate 6 {}
  abase : BitVec 32 := 0
  bbase : BitVec 32 := 0
  apitch : BitVec 32 := 0
  bpitch : BitVec 32 := 0
  aoper : BitVec 32 := 0
  boper : BitVec 32 := 0
  cbase : BitVec 32 := 0
  deriving DecidableEq, Repr

/-- A channel port (R102, R104, R118): the channel it is bound to, its direction, the credits it holds, whether it has
recorded a close, and the number of its pending elements. -/
structure Port where
  chan : Option Nat := none
  write : Bool := false
  credits : Nat := 0
  closed : Bool := false
  pending : Nat := 0
  deriving DecidableEq, Repr

/-- A token FIFO (R163): tokens available, slots reserved by pushes not yet complete, and the tokens among those available that came
in this cycle, which its pops do not see. -/
structure TokFifo where
  avail : Nat := 0
  held : Nat := 0
  fresh : Nat := 0
  deriving DecidableEq, Repr

/-- A hardware loop that is running (R170, R171): its counter, first body address, end address, iterations left after the
current one, iterations started before the current one, stride and, for the reaction level, its number of body iterations. -/
structure LoopFrame where
  lc : Nat := 0
  body : Word := 0
  fin : Word := 0
  left : Nat := 0
  done : Nat := 0
  stride : Word := 0
  /-- the counter's value on completion (R170) -/
  final : Word := 0
  react : Bool := false
  deriving DecidableEq, Repr

/-- The active reaction (R180, R182): ACT, STG, ITER, B0 and its local count N. -/
structure React where
  act : Bool := false
  stg : Nat := 0
  iter : Nat := 0
  b0 : Word := 0
  n : Nat := 0
  deriving DecidableEq, Repr

/-- The trap registers (R330). -/
structure TrapRegs where
  base : Word := 0
  epc : Word := 0
  cause : Word := 0
  addr : Word := 0
  info : Word := 0
  act : Bool := false
  emu : Bool := false
  preh : Bool := false
  scr0 : Word := 0
  scr0Tag : Tag := 0
  scr1 : Word := 0
  scr1Tag : Tag := 0
  hook : Bool := false
  pend : Bool := false
  deriving DecidableEq, Repr

/-! ### Faults of a context -/

/-- Trap and fault codes (R329). -/
inductive Code where
  | emulation | probeFault | bkpt | preempt | loopStep | trap
  | clockMismatch | clockOverlap | illegalOpcode | reservedField | deadRead | bounds | footprintOverlap
  | scheduleViolation | fatalTranslation | atomicAttribute | uncorrected | channelDeadlock
  deriving DecidableEq, Repr

/-- The number of a code (R329). -/
def Code.num : Code → BitVec 8
  | .emulation => 0 | .probeFault => 1 | .bkpt => 2 | .preempt => 3 | .loopStep => 4 | .trap => 5
  | .clockMismatch => 16 | .clockOverlap => 17 | .illegalOpcode => 18 | .reservedField => 19 | .deadRead => 20
  | .bounds => 21 | .footprintOverlap => 22 | .scheduleViolation => 23 | .fatalTranslation => 24
  | .atomicAttribute => 25 | .uncorrected => 26 | .channelDeadlock => 27

/-- What a fault or a trap reports beside its code (R332, R337). -/
structure Info where
  addr : Word := 0
  sub : BitVec 8 := 0
  level : BitVec 3 := 0
  serial : BitVec 16 := 0
  lane : BitVec 10 := 0
  aux : BitVec 16 := 0
  deriving DecidableEq, Repr

/-- Why a queue head or the sequencer waits: the classes of R356 with their index. -/
inductive WaitClass where
  | token (i : Nat) | channel (port : Nat) | score | neighbour (i : Nat) | sync (i : Nat) | operand (i : Nat)
  | full (i : Nat) | engine (i : Nat)
  deriving DecidableEq, Repr

/-- The place of a class in the order of R356. -/
def WaitClass.rank : WaitClass → Nat
  | .token _ => 1 | .channel _ => 2 | .score => 3 | .neighbour _ => 4 | .sync _ => 5 | .operand _ => 6 | .full _ => 7 | .engine _ => 8

/-- Of two causes that both hold, the one whose class stands first (R356). -/
def WaitClass.first (a b : WaitClass) : WaitClass := if b.rank < a.rank then b else a

/-- How an instruction or a queue head can end instead of completing: a fatal context error (R336), a restartable
trap (R331), or a wait that leaves everything as it is. (DEDUCED: log entry 76.) -/
inductive Raise where
  | fatal (c : Code) (i : Info)
  | trap (c : Code) (i : Info)
  | wait (w : WaitClass)
  deriving DecidableEq, Repr

/-! ### Queues and what is in flight -/

/-- LOOP, PIPE, STG and ITER of R362 and R363. -/
structure Iteration where
  loop : BitVec 3 := 7
  pipe : Bool := false
  stg : BitVec 4 := 0
  iter : Word := 0
  deriving DecidableEq, Repr

/-- What an entry of a queue stands for (R161, R175, R150). -/
inductive EntryKind where
  | instr | receive | storeData | source | cMark | sMark | sync
  deriving DecidableEq, Repr

/-- A queue entry: the instruction, what the sequencer captured when it routed it (R82, R116, R261), and the number that
ties a companion entry to its instruction (R161). -/
structure Entry where
  kind : EntryKind := .instr
  i : Instr := .ret
  pc : Word := 0
  id : Nat := 0
  /-- the instruction's instant (R103, R174, R180) and whether it was routed with an instant open -/
  inst : Word := 0
  opened : Bool := false
  /-- whether its clock is present (R177) and, when it is absent, tokens alone are performed (R64) -/
  present : Bool := true
  /-- routed in handler mode (R333) -/
  hand : Bool := false
  /-- captured scalars with their tags, in the order of the instruction's scalar sources; one of them was dead -/
  scal : List (Word × Tag) := []
  /-- the tags that a clock fault reports for them -/
  stags : List Tag := []
  sdead : Bool := false
  /-- what a stream instruction consults, as it stood at routing (R177, R246): the clocks its definition names, the clocks found
  present, and the clocks whose parent is the selector's -/
  ks : List Tag := []
  pres : BitVec 128 := 0
  sib : BitVec 128 := 0
  /-- no later instruction of the context routes (R181, R230, R246) -/
  stop : Bool := false
  /-- the stream register as the address stage found it (R79) -/
  strm : StreamReg := {}
  /-- the scratch bytes that it touches, from the lowest to one past the highest, once its address stage knows them (R58) -/
  rng : Option (Nat × Nat) := none
  /-- loop counters as MOVLC would read them (R303) -/
  lc : Vector Word 6 := .replicate 6 0
  /-- those of them that were poisoned (R351) -/
  lcBad : BitVec 6 := 0
  /-- a fault found at routing or in the address stage, raised when the entry issues (R181, R230) -/
  err : Option Raise := none
  /-- it faults as an invalid word does, with no token popped or pushed (R246) -/
  bare : Bool := false
  /-- a captured scalar, or the stream register, was poisoned (R350): found when no other check fails (R65) -/
  sbad : Bool := false
  /-- the companion entry has passed its data: vectors that a source or store-data entry read (R161) -/
  data : List Vec := []
  passed : Bool := false
  /-- the entry, or its data in the store data queue, is poisoned (R351) -/
  dataBad : Bool := false
  /-- counters that a C marker recorded for its S marker (R310) -/
  ctrs : List (BitVec 128) := []
  /-- the iteration that records name for it (R363); for an S marker that of its commit (R364) -/
  iter : Iteration := {}
  deriving DecidableEq, Repr

/-- Where a load delivers (R83 to R88, R117). -/
inductive LoadDest where
  | s (r : BitVec 6) | v (r : BitVec 5) | t (r : BitVec 3)
  deriving DecidableEq, Repr

/-- A load, VPERM or channel read that has issued and not yet written its destination. `cells` are the tile bytes
that a tile load writes (R87). -/
structure Load where
  id : Nat := 0
  i : Instr := .ret
  dest : LoadDest := .s 0
  tag : Tag := 0
  hand : Bool := false
  val : Vec := 0
  bad : BitVec 64 := 0
  cells : List (Nat × Byte) := []
  badCells : List Nat := []
  push : List (Fin 4) := []
  /-- a scalar status register that is written with it (R114) -/
  stat : Option (BitVec 6 × Word) := none
  /-- entries of the load data queue that it takes (R72, R162) -/
  beats : Nat := 1
  landed : Bool := false
  deriving DecidableEq, Repr

/-- A scratch store that holds a forwarding-table entry (R58): its range, whether it is a scatter (R59), its bytes by flat key with
the bits of each that it writes. -/
structure Store where
  id : Nat := 0
  rng : Nat × Nat := (0, 0)
  scatter : Bool := false
  cells : List (Nat × Byte × Byte) := []
  push : List (Fin 4) := []
  deriving DecidableEq, Repr

/-- An outstanding LDH, STH or atomic (R80, SCALAR_ACCESS_RETURN): the destination and its value; a remote access can
fail (R30). -/
structure ScalarRet where
  id : Nat := 0
  dest : Option (BitVec 6) := none
  val : Word := 0
  tag : Tag := 0
  hand : Bool := false
  remote : Bool := false
  level : BitVec 3 := 0
  serial : BitVec 16 := 0
  addr : Word := 0
  pc : Word := 0
  i : Instr := .ret
  iter : Iteration := {}
  deriving DecidableEq, Repr

/-- One span of the commit buffer (R174): instant, scratch address of the 512-byte span, the bits written, the bytes, and the
number of the last store that wrote it. -/
structure Span where
  inst : Word := 0
  addr : Nat := 0
  msk : Vec := 0
  data : Vec := 0
  id : Nat := 0
  deriving DecidableEq, Repr

/-- An entry of a neighbour queue (R164). -/
structure NqEntry where
  val : Vec := 0
  tag : Tag := 0
  bad : BitVec 64 := 0
  deriving DecidableEq, Repr

/-- A translation (R344): the page's 4 KiB-granular virtual range, frame, bits, serial and device. -/
structure TlbEntry where
  vbase : Nat := 0
  size : Nat := 0
  frame : Nat := 0
  w : Bool := false
  x : Bool := false
  cmp : BitVec 2 := 0
  silt : Bool := false
  rem : Bool := false
  serial : BitVec 16 := 0
  dev : BitVec 16 := 0
  deriving DecidableEq, Repr

/-- What a context is doing. `image`: admitted, its scratch image not yet copied (R322). `retiring`: RETIRE waits. `dying`: stopped by a fatal
error, its issued nest still to complete (R336). -/
inductive Phase where
  | image | running | retiring | dying
  deriving DecidableEq, Repr

/-- What the fault record of a stopped context will hold (R336, R337). -/
structure Stopped where
  pc : Word := 0
  word : Word := 0
  code : Code := .bkpt
  info : Info := {}
  nested : Bool := false
  abandoned : Bool := false
  deriving DecidableEq, Repr

/-- What a command of the matrix unit still does to `n` accumulator words from `a` on (R291 to R293): it reads them in cycle `rd` and writes
them in cycle `wr`. A product adds the row `ra` by the columns `cb` to what it reads; otherwise `data` is written, or what was read stays there. -/
structure RowWork where
  rd : Option Nat := none
  wr : Option Nat := none
  a : Nat := 0
  n : Nat := 0
  np : Nat := 0
  ra : List Nat := []
  cb : List (List Nat) := []
  data : List Nat := []
  /-- written as poisoned (R301) -/
  bad : Bool := false
  /-- the iteration of a nest that it belongs to -/
  run : Nat := 0
  deriving DecidableEq, Repr

/-- A product whose checksum is still to be compared (R301): its number in a nest, the cycle of the comparison, first word, rows and columns. -/
structure Product where
  no : Nat := 0
  chk : Nat := 0
  base : Nat := 0
  m : Nat := 0
  n : Nat := 0
  deriving DecidableEq, Repr

/-- An MMA, ACCRD, ACCWR, ACCZ or nest in flight (R134, R291 to R297): accumulator and scratch footprints, the cycle in
which it completes and its work on accumulator rows. -/
structure EngCmd where
  id : Nat := 0
  slot : Nat := 0
  isNest : Bool := false
  accLo : Nat := 0
  accHi : Nat := 0
  writes : Bool := true
  scr : List (Nat × Nat) := []
  tiles : List Nat := []
  /-- a product that reads a generator (R309) -/
  gen : Bool := false
  compute : Nat := 0
  doneAt : Nat := 0
  work : List RowWork := []
  /-- ACCRD: the destination that it writes when it completes -/
  dest : Option (BitVec 5) := none
  tag : Tag := 0
  hand : Bool := false
  pc : Word := 0
  i : Instr := .ret
  /-- cycles of one product (R291), and the products whose checksum is still to come -/
  t : Nat := 0
  runs : List Product := []
  /-- a product has been executed again: add-on-writes of the cell are held (R301) -/
  held : Bool := false
  /-- the iteration that records name (R363) -/
  iter : Iteration := {}
  push : List (Fin 4) := []
  deriving DecidableEq, Repr

/-- The active nest of a cell (R295 to R298). -/
structure NestRun where
  slot : Nat := 0
  cfg : NestCfg := {}
  np : Nat := 0
  acc : Nat := 0
  tag : Tag := 0
  ent : Entry := {}
  /-- the generator of a generator operand as it stood at issue, and the step table words read then (R306) -/
  gen : Gen := {}
  steps : List (Nat × Word) := []
  /-- linear index of the next iteration -/
  next : Nat := 0
  total : Nat := 0
  /-- L of the next iteration, and the first cycle in which it may compute (R297) -/
  load : Nat := 0
  ready : Nat := 0
  cmd : Nat := 0
  deriving DecidableEq, Repr

/-- The registers and queues of one context. (DESIGN CHOICE: log entry 4.) -/
structure Ctx where
  pid : Nat := 0
  seq : Nat := 0
  phase : Phase := .running
  pc : Word := 0
  entry : Word := 0
  -- register files (R23)
  s : Vector SReg 64 := .replicate 64 {}
  v : Vector VReg 32 := .replicate 32 {}
  m : Vector (BitVec 1024) 8 := .replicate 8 0
  a : Vector StreamReg 16 := .replicate 16 {}
  d : Vector DReg 16 := .replicate 16 {}
  g : Vector Gen 16 := .replicate 16 {}
  cb : Vector (BitVec 256) 8 := .replicate 8 0
  lc : Vector Word 6 := .replicate 6 0
  t : Vector TReg 8 := .replicate 8 {}
  clk : Vector Clock 128 := .replicate 128 {}
  port : Vector Port 32 := .replicate 32 {}
  /-- poisoned registers of the other files (R351) -/
  badRegs : List (RegFile × Nat) := []
  nest : NestCfg := {}
  -- instants, loops, reaction (R168 to R182)
  basei : Word := 0
  iopen : Bool := false
  /-- instants opened and not yet committed, oldest first (R338) -/
  instants : List Word := []
  chk : Bool := false
  coll : Bool := false
  looptab : Vector Word 6 := .replicate 6 0
  loops : List LoopFrame := []
  suspended : List LoopFrame := []
  /-- loops of the code that a resident emulation routine interrupted (R333, R335) -/
  emuLoops : List LoopFrame := []
  react : React := {}
  /-- the reaction as it stood at the IBEGIN of the open instant: what its stage clocks and instants follow (R177) -/
  ireact : React := {}
  /-- the reaction as it stood when a handler, or a resident routine, was entered (R333) -/
  suspReact : React := {}
  emuReact : React := {}
  -- the launch rectangle (R170)
  x : Nat := 0
  y : Nat := 0
  z : Nat := 0
  width : Nat := 1
  height : Nat := 1
  depth : Nat := 1
  zdies : List Nat := []
  -- context CSRs
  iscope : Word := 0
  fpchk : Bool := false
  det : Bool := false
  layoutBase : Word := 0
  bndTags : Word := 0
  slip : Word := 0
  trap : TrapRegs := {}
  preArea : Word := 0
  pendSerial : BitVec 16 := 0
  pendCount : BitVec 16 := 0
  -- queues (R162), tokens L→C, C→L, C→S, S→C (R163), neighbour queues qn qe qs qw (R164)
  qL : List Entry := []
  qC : List Entry := []
  qS : List Entry := []
  tok : Vector TokFifo 4 := .replicate 4 {}
  loads : List Load := []
  stores : List Store := []
  scalars : List ScalarRet := []
  commits : List Span := []
  nq : Vector (List NqEntry) 4 := .replicate 4 []
  /-- the sequencer TLB, and the stream TLBs of a0 to a15 and of the copy engine's inbound and outbound sides (R344) -/
  tlb : List TlbEntry := []
  stlb : Vector (List TlbEntry) 18 := .replicate 18 []
  /-- invalidations posted since the context's last quiescent point: base and bytes (R346) -/
  inval : List (Nat × Nat) := []
  /-- tag-table entries held (R74): tag, low bound, limit -/
  tagCache : List (BitVec 8 × Word × Word) := []
  /-- layout records held (R75) -/
  recCache : List (Word × BitVec 512) := []
  /-- numbers given to entries, so that "routed before" and companions are known -/
  nextId : Nat := 0
  /-- what the sequencer head waits for (R356) -/
  waiting : Option WaitClass := none
  /-- entries set aside while a PREEMPT hook runs (R340) -/
  aside : List Entry × List Entry × List Entry := ([], [], [])
  /-- the token FIFOs set aside with them, and the number of the first entry routed since then (R340) -/
  asideTok : Option (Vector TokFifo 4) := none
  asideAt : Nat := 0
  /-- a resident emulation routine's word (R335) -/
  emuWord : Word := 0
  emuPresent : Bool := false
  /-- consecutive blocked cycles (R120) -/
  blocked : Nat := 0
  /-- pre-emption and stop requests (R339, R367): PRE.CTL.PEND is `trap.pend` -/
  forced : Bool := false
  /-- a handler has returned with a pre-emption requested: a pre-emption point (R339) -/
  afterTret : Bool := false
  /-- the save that has begun is a precise stop's -/
  stopSave : Bool := false
  stopReq : Bool := false
  saveNow : Bool := false
  forcedSub : BitVec 8 := 0
  /-- SUCCGO executed (R240) -/
  succgo : Bool := false
  /-- WAITPRED satisfied: predecessors (R241) -/
  preds : List Nat := []
  /-- a held BAR.ARRIVE has been counted: the phase that it writes (R152) -/
  arrived : Option (BitVec 32) := none
  /-- heads that have routed or issued since the last cell cycle: bit 0 the sequencer's, then L, C and S (R356) -/
  acted : BitVec 4 := 0
  /-- the last cycle in which an access of more than one beat that has issued holds a beat (R72) -/
  beatsTo : Nat := 0
  /-- instructions routed since then (R159) -/
  routed : Nat := 0
  /-- replay (R373): physical addresses of this context's logged records not yet consumed -/
  replay : Option (List Nat) := none
  /-- a nest that a resumption has still to reissue (R298, R343) -/
  reissue : Option (NestRun × EngCmd) := none
  /-- the fatal error of a dying context (R336) -/
  stopped : Option Stopped := none
  deriving DecidableEq, Repr

/-! ### Copies, channels -/

/-- The forms of R90 to R96. -/
inductive CopyKind where
  | xin | xind | xaddw | xbcast | xout
  deriving DecidableEq, Repr

/-- A copy in flight or its resume record (R57, R340). The virtual side runs from `va`; the near side from `near`
(a scratch address, or a word address for XADDW). A strided copy holds its stream. -/
structure CopyOp where
  id : Nat := 0
  /-- its entry's number -/
  eid : Nat := 0
  ctx : CtxId := ⟨0, 0⟩
  pid : Nat := 0
  seq : Nat := 0
  kind : CopyKind := .xin
  va : Word := 0
  near : Nat := 0
  len : Nat := 0
  strm : Option StreamReg := none
  slot : Nat := 0
  bar : Option Nat := none
  push : List (Fin 4) := []
  pc : Word := 0
  i : Instr := .ret
  /-- the iteration that records name (R363) -/
  iter : Iteration := {}
  /-- bytes already performed -/
  done : Nat := 0
  /-- its context has retired (R187) -/
  orphan : Bool := false
  /-- translations made ahead of its bytes at a quiescent point of its context (R243) -/
  held : List TlbEntry := []
  /-- the last cell cycle in which an XADDW wrote (R42) -/
  last : Option Nat := none
  deriving DecidableEq, Repr

/-- An element on its way to the reader's channel unit (R105), or a close marker. -/
structure Elem where
  val : Vec := 0
  tag : Word := 0
  bad : Bool := false
  badTag : Bool := false
  /-- the instant whose commit makes it present, when it is pending (R109) -/
  pend : Option Word := none
  /-- written by CHWR.I within its instant (R372) -/
  own : Bool := false
  close : Bool := false
  /-- the writer and its entry: what the release condition waits for (R111) -/
  wctx : CtxId := ⟨0, 0⟩
  wseq : Nat := 0
  wid : Nat := 0
  deriving DecidableEq, Repr

/-- What a channel unit knows of an element at the tail: the instant that makes it present, none once it is (R109), whether it is a close marker
(R118), and whether it was written by CHWR.I (R372). -/
structure Mark where
  pend : Option Word := none
  close : Bool := false
  own : Bool := false
  deriving DecidableEq, Repr

/-- An endpoint of a channel (R98). -/
structure Endpoint where
  dev : BitVec 16 := 0
  cell : Nat := 0
  slot : Nat := 0
  port : Nat := 0
  resident : Bool := true
  deriving DecidableEq, Repr

/-- A bound channel: the descriptor's fields (R98) as the channel unit holds them (R101), the elements in transit, the
refill reads in flight, the pending marks of the tail in order and the credits on their way back. (DEDUCED: log entry 58.) -/
structure Chan where
  esz : Nat := 2
  rsz : Nat := 1
  cls : Nat := 0
  scope : Nat := 0
  stat : Bool := false
  rbase : Nat := 0
  sbase : Word := 0
  slog : Nat := 0
  rhead : BitVec 32 := 0
  rtail : BitVec 32 := 0
  shead : BitVec 32 := 0
  stail : BitVec 32 := 0
  wcount : Word := 0
  rcount : Word := 0
  state : BitVec 3 := 0
  spill : Bool := false
  wblk : Bool := false
  rblk : Bool := false
  grown : BitVec 8 := 0
  writer : Option Endpoint := none
  reader : Option Endpoint := none
  transit : List Elem := []
  refills : List Elem := []
  /-- the elements from the oldest pending one on, and close markers among them, oldest first -/
  marks : List Mark := []
  returning : Nat := 0
  /-- pending elements and markers that have left for a reader on another device (R125, R372) -/
  away : List Elem := []
  /-- on the writer's device, the state word that came with the last credit (R119) -/
  rword : BitVec 13 := 0
  /-- what the unit has applied in this cycle of the reader's cell: 0 pops only, 1 a landing, 2 a push (R105) -/
  step : Nat := 0
  /-- the refill engine's stream TLB (R344) -/
  tlb : List TlbEntry := []
  deriving DecidableEq, Repr

/-- A cluster barrier (R151, R152): expected arrivals and copies, counts, phase; the partition it is granted to. -/
structure Barrier where
  ea : BitVec 32 := 0
  ec : BitVec 32 := 0
  ac : BitVec 32 := 0
  cc : BitVec 32 := 0
  ph : BitVec 32 := 0
  /-- arrivals that wait for the next phase, oldest first, and held copies (R152) -/
  ha : List CtxId := []
  hc : Nat := 0
  owner : Option Nat := none
  users : List Nat := []
  deriving DecidableEq, Repr

/-! ### Cells, partitions, dies, islands -/

/-- A retirement-tracker entry (R186): a copy, or the stores of a retired context, those of its sequencer among them. -/
inductive Track where
  | copy (id : Nat) (pid seq : Nat)
  | stores (pid seq slot : Nat) (l : List Store) (r : List ScalarRet)
  deriving DecidableEq, Repr

/-- State of a cell that is not a context's and not storage. -/
structure Cell where
  cyc : Word := 0
  turn : Nat := 0
  pmc : Vector Word 8 := .replicate 8 0
  pms : Vector Word 8 := .replicate 8 0
  pmh : Vector Word 8 := .replicate 8 0
  /-- the counters at the end of the cell's last cycle (R358) -/
  pmcEnd : Vector Word 8 := .replicate 8 0
  slipH : Vector Word 2 := .replicate 2 0
  trcCtl : Word := 0
  bp : Vector Word 2 := .replicate 2 0
  bpi : Vector Word 2 := .replicate 2 0
  slots : Vector (BitVec 2) 16 := .replicate 16 2
  /-- how many memories `past` held when the instruction cache was last emptied, and the words fetched since (R398) -/
  emptied : Nat := 0
  icache : List (Nat × Word) := []
  /-- the lines of the data cache, none for one filled with poison (R37, R350) -/
  dcache : List (Nat × Option (BitVec 512)) := []
  tracker : List Track := []
  /-- the cell TLB, each entry with its partition (R344) -/
  tlb : List (Nat × TlbEntry) := []
  engine : List EngCmd := []
  nest : Option NestRun := none
  /-- the matrix unit's row writes of this cycle: first word and words (R42) -/
  rowsNow : List (Nat × Nat) := []
  /-- counters that a CSRW has written in this cycle (R354) -/
  wrote : List Nat := []
  /-- the generator unit executes a GDRAW before this cycle (R308) -/
  genBusy : Nat := 0
  /-- slots whose SAMPLE record of this cycle is written (R361) -/
  sampled : List Nat := []
  /-- last cycle through which add-on-writes are held (R301) -/
  addHold : Nat := 0
  /-- slots of the trace queue that are taken, and records lost since the last one that was written (R364, R365) -/
  traceN : Nat := 0
  traceLost : Nat := 0
  deriving DecidableEq, Repr

/-- A host command in progress (R375): whether it has started, the latch time that a TRIGGER waits for, and whether a REPLAY has
reached its serial and resumed its contexts (R373), a TABLE has set its serial (R346). -/
structure CmdRun where
  cmd : Command := 0
  started : Bool := false
  datum : Nat := 0
  resumed : Bool := false
  deriving DecidableEq, Repr

/-- Record mode (R371): log base, capacity and bytes used. -/
structure RecordLog where
  base : Nat := 0
  cap : Nat := 0
  used : Nat := 0
  deriving DecidableEq, Repr

/-- A partition: translation and channel registers (R25, R123), configuration (R379), launch numbering (R316), the halt
of admission (R323) and its host commands (R377). -/
structure Part where
  root : Word := 0
  rdt : Word := 0
  serial : BitVec 16 := 0
  chanBase : Word := 0
  chanLimit : Word := 0
  siltPool : Word := 0
  siltLim : Word := 0
  siltUsed : List (Nat × Nat) := []
  areaBase : Word := 0
  configured : Bool := false
  evBase : Word := 0
  evCap : Nat := 0
  evNum : Nat := 0
  nextSeq : Nat := 1
  halted : Bool := false
  record : Option RecordLog := none
  ordered : List CmdRun := []
  unordered : List CmdRun := []
  replaying : Bool := false
  diverged : Option (Nat × Nat × Word) := none
  broken : Bool := false
  deriving DecidableEq, Repr

/-- Where a launch stands. -/
inductive LaunchPhase where
  | pending | running | retired
  deriving DecidableEq, Repr

/-- A launch (R312 to R327): the record, header and binding block as the controller read them, its own class and group
count, and what it has placed. -/
structure Launch where
  pid : Nat := 0
  seq : Nat := 0
  /-- launch controller of die 0 to 3, or 4 for the distributor -/
  ctrl : Nat := 0
  order : Nat := 0
  cls : Nat := 0
  record : BitVec 512 := 0
  hdr : BitVec 512 := 0
  bars : BitVec 16 := 0
  ports : List (BitVec 32) := []
  /-- LAUNCHI: the address of the group count -/
  countAt : Option Word := none
  groups : Option Nat := none
  placed : Nat := 0
  phase : LaunchPhase := .pending
  /-- time base at which it last became eligible in its class (R325) -/
  since : Option Word := none
  deriving DecidableEq, Repr

/-- A saved context (R340 to R343): its state, whether it is pinned to its slot (R342) or its cell's image was saved in save number
`batch`, the image itself at the lowest saved slot, its resume records, and whether it has been told to resume. -/
structure Saved where
  ctx : Ctx := {}
  pinned : Bool := true
  batch : Nat := 0
  image : Bool := false
  img : List Host.Cell := []
  imgBad : List Nat := []
  copies : List CopyOp := []
  nest : Option NestRun := none
  nestCmd : Option EngCmd := none
  resume : Bool := false
  forWatchdog : Bool := false
  deriving DecidableEq, Repr

/-- State of a die (R352, R357, R360). -/
structure Die where
  pmd : Vector Word 16 := .replicate 16 0
  pms : Vector Word 16 := .replicate 16 0
  pmh : Vector Word 16 := .replicate 16 0
  /-- events that the next tick of the time base counts (R357) -/
  pmdDue : Vector Nat 16 := .replicate 16 0
  loess : Word := 0
  wptr : Word := 0
  lost : Word := 0
  /-- the die TLB, each entry with its partition (R344) -/
  tlb : List (Nat × TlbEntry) := []
  deriving DecidableEq, Repr

/-- A power island (R383). -/
structure Island where
  volt : BitVec 16 := 0
  clt : Bool := false
  cli : Bool := false
  group : BitVec 4 := 15
  freq : BitVec 16 := 600
  /-- firmware's frequency target (R384) -/
  target : BitVec 16 := 600
  deriving DecidableEq, Repr

/-- The device as a whole: CMETA and discovery registers, time base and trigger, boot state, attestation log and leaf,
firmware's bounds and thresholds. (DESIGN CHOICE: log entry 3.) -/
structure Dev where
  devNum : BitVec 16 := 0
  cmeta : Word := 0
  extl : Word := 0
  extp : Word := 0
  np : Word := 0x7E
  time : Word := 0
  trgT : Word := 0
  latchDue : Bool := false
  /-- TRG.TIME and TRG.NUM, which every cell latches alike (R358) -/
  trgLast : Word := 0
  trgNum : BitVec 32 := 0
  /-- they read 0: a partition reset came after the last latch (R5) -/
  trgClear : Bool := false
  powered : Bool := true
  booted : Bool := true
  log : List (BitVec 512) := []
  leaf : Nat := 0
  minVersion : Nat := 0
  powerOff : Bool := false
  ageing2 : Nat := 0
  ageing3 : Nat := 0
  routines : List (BitVec 8 × Nat) := []
  /-- destinations of extension words (R231), and firmware's region of HBM: first address and one past the last (R335) -/
  extDests : List (BitVec 8 × ExtDest) := []
  region : Nat × Nat := (0, 0)
  /-- the bound of the replay watchdog in µs (R373) -/
  replayBound : Nat := 1000
  fabResult : List Byte := []
  fabErr : Bool := false
  fabBad : Bool := false
  nextCopy : Nat := 0
  nextOrder : Nat := 0
  softErrs : Nat := 0
  /-- firmware's threshold of corrected errors, 0 for none (R349, R378) -/
  softLimit : Nat := 0
  deriving DecidableEq, Repr

/-- What firmware sets through the control complex: SILT.POOL and SILT.LIM of a partition (R123), the ageing threshold of a class in µs (R325), the
threshold of corrected errors (R349), the bound of the replay watchdog in µs (R373). -/
inductive Firmware where
  | siltPool (pid : Nat) (w : Word)
  | siltLim (pid : Nat) (w : Word)
  | ageing (cls us : Nat)
  | softLimit (n : Nat)
  | replayBound (us : Nat)
  deriving DecidableEq, Repr

/-- What the schedule asks the next steps to do. -/
inductive Act where
  /-- route the next instruction of a context -/
  | route (c : CtxId)
  /-- an event, with what it acts on -/
  | event (i : Instr) (a : EvArg)
  /-- a setting of firmware -/
  | firmware (f : Firmware)
  deriving DecidableEq, Repr

/-- The device. `mem` is the one flat store of HBM and of every cell's storage (Machine/Mem), `poison` the poisoned units,
`cur` the context whose instruction the next step routes, `agenda` the schedule, `ev` what the current event acts on,
`fresh` the number of the next free value (the model's own field). (DESIGN CHOICE: log entry 5.) -/
structure State where
  mem : List Host.Cell := []
  poison : List Nat := []
  /-- metadata bytes that a block write has made good in a unit that stays poisoned for other blocks (R47, R53) -/
  metaOk : List Nat := []
  /-- what the table writes since the last tick replaced, the newest first: a walk may read either side of each (R33) -/
  tableOld : List (List Host.Cell) := []
  /-- memory before each step that changed HBM, the newest first: what an instruction fetch may still return (R398) -/
  past : List (List Host.Cell) := []
  cur : CtxId := ⟨0, 0⟩
  agenda : List Act := []
  ev : EvArg := {}
  fresh : Nat := 0
  ctxs : List (CtxId × Ctx) := []
  saved : List (CtxId × Saved) := []
  cells : List (Nat × Cell) := []
  parts : List (Nat × Part) := []
  chans : List (ChanId × Chan) := []
  bars : List ((Nat × Nat) × Barrier) := []
  launches : List Launch := []
  copies : List CopyOp := []
  dies : List (Nat × Die) := []
  islands : List (Nat × Island) := []
  dev : Dev := {}
  deriving DecidableEq, Repr

/-- An entry of the attestation log (R387). -/
def logEntry (digest : BitVec 256) (kind index : Nat) : BitVec 512 :=
  0#192 ++ BitVec.ofNat 32 index ++ BitVec.ofNat 32 kind ++ digest

/-- The device after a partition reset with firmware running and nothing launched. Its boot has logged the firmware and a configuration image without resident
routines (R386, R387). (DESIGN CHOICE: log entry 11.) -/
def State.reset : State := { dev := { log := [logEntry (Config.imageDigest 0) 1 0, logEntry (Config.imageDigest 1) 2 1] } }

/-- Why a step stops the model. No instruction of the spec stops the device, so these are cases in which the model is
asked to do what no schedule of the device does. -/
inductive Fault where
  /-- Raised by the step when it is asked to route for a context that is not resident. Safe: the device routes only for
  resident contexts (R159). -/
  | noContext
  /-- Raised by the step when the agenda names a program instruction as an event. Safe: instructions run only by being fetched (R159). -/
  | notAnEvent
  /-- Raised by the step when the device is not powered or has not booted and the agenda asks for something other than
  power-on. Safe: nothing runs then (R386). -/
  | notRunning
  deriving DecidableEq, Repr

/-- Why an instruction has no meaning. -/
inductive Refusal where
  /-- Raised by an arm of the dispatch whose meaning has not been written. Safe. -/
  | notModelled (mnemonic : String)
  deriving DecidableEq, Repr

end Sys2Proof.Machine
end

