-- ==== Sys2Proof/Machine/Mem.lean ====
section
/-! DEFINITION. Storage: the one flat memory of HBM and of every cell's scratch, accumulator and tile storage, its
poison (R40, R350), scratch addresses (R18, R19), and block compression (R43 to R53). -/

namespace Sys2Proof.Machine

/-! ### Bytes -/

/-- The little-endian number of some bytes (R3). -/
def leNat : List Byte → Nat
  | [] => 0
  | b :: l => b.toNat + 256 * leNat l

/-- The low `n` bytes of a number, least significant first. -/
def leBytes : Nat → Nat → List Byte
  | 0, _ => []
  | n + 1, w => BitVec.ofNat 8 (w % 256) :: leBytes n (w / 256)

/-! ### One byte of memory -/

/-- What an address that memory does not list reads as. (DESIGN CHOICE: log entry 2.) -/
def Memory.blank : Byte := 0

/-- One byte of memory. -/
def Memory.get : List Host.Cell → Nat → Byte
  | [], _ => Memory.blank
  | (k, v) :: l, a => if k = a then v else Memory.get l a

/-- Writes one byte and keeps the form: addresses rising, no entry equal to the blank value. -/
def Memory.set : List Host.Cell → Nat → Byte → List Host.Cell
  | [], a, b => if b = Memory.blank then [] else [(a, b)]
  | (k, v) :: l, a, b =>
    if a < k then (if b = Memory.blank then (k, v) :: l else (a, b) :: (k, v) :: l)
    else if a = k then (if b = Memory.blank then l else (a, b) :: l)
    else (k, v) :: Memory.set l a b

/-- Addresses from `n` up, strictly rising, and no listed byte blank. -/
def Memory.wfFrom : Nat → List Host.Cell → Bool
  | _, [] => true
  | n, (k, v) :: l => decide (n ≤ k) && (v != Memory.blank) && Memory.wfFrom (k + 1) l

/-- The canonical form of memory. -/
def Memory.wf (m : List Host.Cell) : Bool := Memory.wfFrom 0 m

/-- Writes a list of bytes in order. -/
def Memory.setAll (m : List Host.Cell) (l : List (Nat × Byte)) : List Host.Cell :=
  l.foldl (fun m c => Memory.set m c.1 c.2) m

/-! ### The flat key space

HBM bytes stand at their physical address. Above `hbmEnd` every cell has its 6 MiB of scratch (local window, then its
share of the cluster window), its accumulator memory and its tile storage. -/

/-- Key of byte `off` of a cell's scratch: below 4 MiB the local window, above it the cluster share. -/
def scratchKey (cell off : Nat) : Nat := Config.hbmEnd + cell * (Config.localBytes + Config.shareBytes) + off
/-- First key of accumulator memory. -/
def accBase : Nat := Config.hbmEnd + Config.cells * (Config.localBytes + Config.shareBytes)
/-- Key of byte `off` of a cell's accumulator memory. -/
def accKey (cell off : Nat) : Nat := accBase + cell * Config.accBytes + off
/-- First key of tile storage. -/
def tileBase : Nat := accBase + Config.cells * Config.accBytes
/-- Key of byte `off` of a cell's tile storage: tile n is bytes 16384 n on (R284, R286). -/
def tileKey (cell off : Nat) : Nat := tileBase + cell * Config.tileBytes + off

/-- The cell at row `r`, column `c` of a die (R98). -/
def cellAt (die r c : Nat) : Nat := Config.cellsPerDie * die + Config.gridSide * r + c
/-- Die, row and column of a package cell. -/
def dieOf (cell : Nat) : Nat := cell / Config.cellsPerDie
def rowOf (cell : Nat) : Nat := cell % Config.cellsPerDie / Config.gridSide
def colOf (cell : Nat) : Nat := cell % Config.gridSide
/-- The cluster of a cell: 4 × 4 cells, nine to a die, numbered by rows (R19, R383). -/
def clusterOf (cell : Nat) : Nat := 9 * dieOf cell + 3 * (rowOf cell / 4) + colOf cell / 4
/-- Cell `i` of a cluster, by rows (R19). -/
def clusterCell (cl i : Nat) : Nat :=
  cellAt (cl / 9) (4 * (cl % 9 / 3) + i / 4) (4 * (cl % 3) + i % 4)

/-- The flat key that a 32-bit scratch address names in a cell, if it is a valid address (R18, R19): bit 31 selects the
cluster window, whose byte W lies in cell (W >> 7) & 15 of the cluster. -/
def scratchAddr (cell a : Nat) : Option Nat :=
  if a < 0x400000 then some (scratchKey cell a)
  else if 0x80000000 ≤ a ∧ a < 0x82000000 then
    let w := a - 0x80000000
    some (scratchKey (clusterCell (clusterOf cell) (w / 128 % 16)) (0x400000 + w / 2048 * 128 + w % 128))
  else none

/-- The keys of `n` bytes at a scratch address; an address that is no scratch address, or a range that spans both windows
or runs past one, gives the lowest bad address (R18). -/
def scratchRange (cell a n : Nat) : Except Nat (List Nat) :=
  (List.range n).foldr (fun i acc =>
    match scratchAddr cell (a + i) with
    | some k => acc.map (k :: ·)
    | none => .error (a + i)) (.ok [])

/-! ### Poison -/

/-- The unit of poison that a key lies in: 64 bytes of HBM (R349), 8 bytes elsewhere (R40). -/
def unitSize (k : Nat) : Nat := if k < Config.hbmEnd then 64 else 8
def unitOf (k : Nat) : Nat := k - (k % unitSize k)

/-- Adds a unit to the rising list of poisoned units. -/
def Poison.add : List Nat → Nat → List Nat
  | [], u => [u]
  | x :: l, u => if u < x then u :: x :: l else if u = x then x :: l else x :: Poison.add l u
/-- Removes a unit. -/
def Poison.del (p : List Nat) (u : Nat) : List Nat := p.filter (· != u)

/-- The different units that some keys touch. -/
def unitsOf (l : List Nat) : List Nat := (l.map unitOf).eraseDups

namespace State

/-- One stored byte. -/
def byte (s : State) (k : Nat) : Byte := Memory.get s.mem k
/-- Whether a byte lies in a poisoned unit. -/
def bad (s : State) (k : Nat) : Bool := s.poison.contains (unitOf k)
/-- Bytes at some keys. -/
def bytes (s : State) (ks : List Nat) : List Byte := ks.map s.byte
/-- `n` consecutive raw bytes. -/
def raw (s : State) (k n : Nat) : List Byte := (List.range n).map fun i => s.byte (k + i)
/-- A raw little-endian number of `n` bytes. -/
def rawNat (s : State) (k n : Nat) : Nat := leNat (s.raw k n)
/-- Whether any of `n` consecutive bytes is poisoned. -/
def anyBad (s : State) (k n : Nat) : Bool := (List.range n).any fun i => s.bad (k + i)

/-- Stores bytes at keys. A unit that receives a poisoned byte becomes poisoned; a unit written whole by clean bytes becomes
clean; a unit written in part keeps its poison (R40, R350). -/
def write (s : State) (l : List (Nat × Byte)) (badKeys : List Nat := []) : State :=
  let keys := l.map (·.1)
  let p := (unitsOf keys).foldl (fun p u =>
    if badKeys.any (unitOf · == u) then Poison.add p u
    else if ((keys.filter (unitOf · == u)).eraseDups).length = unitSize u then Poison.del p u
    else p) s.poison
  { s with mem := Memory.setAll s.mem l, poison := p, metaOk := match badKeys with
      | [] => s.metaOk
      | _ => s.metaOk.filter fun a => !badKeys.any (unitOf · == unitOf a) }

/-- Marks a unit poisoned (R349, R351). -/
def poisonUnit (s : State) (k : Nat) : State :=
  { s with poison := Poison.add s.poison (unitOf k), metaOk := s.metaOk.filter (unitOf · != unitOf k) }

/-- Consecutive keys paired with bytes. -/
def at' (k : Nat) (bs : List Byte) : List (Nat × Byte) := (List.range bs.length).zip bs |>.map fun (i, b) => (k + i, b)

/-- Raw store of consecutive bytes. -/
def writeRaw (s : State) (k : Nat) (bs : List Byte) : State := s.write (at' k bs)

end State

/-! ### The block codec (R43 to R47) -/

namespace Codec

/-- Splits a list into lines of 128 bytes; `n` lines. -/
def chunk : Nat → List Byte → List (List Byte)
  | 0, _ => []
  | n + 1, l => l.take 128 :: chunk n (l.drop 128)

/-- The bytes at even and at odd positions. -/
def deinterleave : List Byte → List Byte × List Byte
  | a :: b :: l => let (x, y) := deinterleave l; (a :: x, b :: y)
  | [a] => ([a], [])
  | [] => ([], [])

/-- Interleaves: the first list at even positions. -/
def interleave : List Byte → List Byte → List Byte
  | a :: x, b :: y => a :: b :: interleave x y
  | _, _ => []

/-- The 32 lines of a block (R43). -/
def lines (cmp : BitVec 2) (b : List Byte) : List (List Byte) :=
  if cmp = 1 then let (lo, hi) := deinterleave b; chunk 16 hi ++ chunk 16 lo else chunk 32 b

/-- The block of 32 lines. -/
def unlines (cmp : BitVec 2) (ls : List (List Byte)) : List Byte :=
  if cmp = 1 then interleave (ls.drop 16).flatten (ls.take 16).flatten else ls.flatten

/-- `d` of R44 lies in −8 to +7. -/
def fits (b x : Byte) : Bool := (x - b + 8).toNat < 16

/-- The lowest base that fits, searched from `b` upward over `n` candidates. -/
def base? : Nat → Byte → List Byte → Option Byte
  | 0, _, _ => none
  | n + 1, b, l => if l.all (fits b) then some b else base? n (b + 1) l

/-- Delta nibbles, two to a byte. -/
def nibbles (b : Byte) : List Byte → List Byte
  | x :: y :: l => ((fld (y - b) 0 4 : BitVec 4) ++ (fld (x - b) 0 4 : BitVec 4)) :: nibbles b l
  | [x] => [(0#4 ++ (fld (x - b) 0 4 : BitVec 4))]
  | [] => []

/-- Mode and coded bytes of a line (R44, R45). -/
def codeLine (l : List Byte) : BitVec 2 × List Byte :=
  let x0 := l.headD 0
  if l.all (· == 0) then (0, [])
  else if l.all (· == x0) then (1, [x0])
  else match base? 256 0 l with
    | some b => (2, b :: nibbles b l)
    | none => (3, l)

/-- Coded length of a mode. -/
def modeLen (m : Nat) : Nat := if m = 0 then 0 else if m = 1 then 1 else if m = 2 then 65 else 128

/-- The header and coded lines; the header's low bits describe line 0. -/
def codeLines : List (List Byte) → Nat × List Byte
  | [] => (0, [])
  | l :: ls =>
    let (h, bs) := codeLines ls
    let (m, c) := codeLine l
    (m.toNat + 4 * h, c ++ bs)

/-- The coded block padded to whole sectors, or none when every line is raw (R46). -/
def encode (cmp : BitVec 2) (b : List Byte) : Option (List Byte) :=
  let (h, bs) := codeLines (lines cmp b)
  if h = 2 ^ 64 - 1 then none
  else
    let t := 8 + bs.length
    some (leBytes 8 h ++ bs ++ List.replicate ((t + 127) / 128 * 128 - t) 0)

/-- The modes of a header. -/
def modes (h : Nat) : List Nat := (List.range 32).map fun n => h / 4 ^ n % 4

/-- The coded size T that a header gives. -/
def codedSize (h : Nat) : Nat := 8 + ((modes h).map modeLen).sum

/-- Sign-extends a nibble and adds the base. -/
def undelta (b n : Byte) : Byte := b + (fld n 0 4 : BitVec 4).signExtend 8

/-- A line from its mode and coded bytes. -/
def decodeLine (m : Nat) (c : List Byte) : List Byte :=
  if m = 0 then List.replicate 128 0
  else if m = 1 then List.replicate 128 (c.headD 0)
  else if m = 2 then
    let b := c.headD 0
    (c.drop 1).flatMap fun d => [undelta b (d &&& 0x0F), undelta b (d >>> 4)]
  else c

/-- Lines from modes and the coded bytes that follow the header. -/
def decodeLines : List Nat → List Byte → List (List Byte)
  | [], _ => []
  | m :: ms, bs => decodeLine m (bs.take (modeLen m)) :: decodeLines ms (bs.drop (modeLen m))

end Codec

namespace State

/-- Address of the metadata byte of the block at `p` (R47). -/
def metaAddr (s : State) (p : Nat) : Nat := (fld s.dev.cmeta 24 16 : BitVec 16).toNat * 0x1000000 + p / 4096

/-- The controller writes the metadata byte of a block: it is good from then on, also in a unit whose other bytes stay poisoned (R53). -/
def writeMeta (s : State) (p : Nat) (v : Byte) : State :=
  let a := s.metaAddr p
  let t := s.write [(a, v)]
  if t.bad a then { t with metaOk := Poison.add t.metaOk a } else t

/-- A block decodes as poisoned (R47). -/
def blockBad (s : State) (p : Nat) : Bool :=
  let m := (s.byte (s.metaAddr p)).toNat
  (s.bad (s.metaAddr p) && !s.metaOk.contains (s.metaAddr p)) || 32 < m ||
    (m != 0 && (128 * m < Codec.codedSize (s.rawNat p 8) || s.anyBad p (128 * m)))

/-- The 4096 bytes of a block on a page with CMP ≠ 00, each with its poison (R47, R51). -/
def blockRead (s : State) (cmp : BitVec 2) (p : Nat) : List (Byte × Bool) :=
  let m := (s.byte (s.metaAddr p)).toNat
  if s.blockBad p then List.replicate 4096 (0, true)
  else if m = 0 then (List.range 4096).map fun i => (s.byte (p + i), s.bad (p + i))
  else
    let c := s.raw p (128 * m)
    (Codec.unlines cmp (Codec.decodeLines (Codec.modes (leNat (c.take 8))) (c.drop 8))).map (·, false)

/-- Stores a whole block through a leaf with CMP ≠ 00 (R52): coded when that saves a sector, and uncompressed with its
poison when a byte is poisoned. (DEDUCED: log entry 40.) -/
def blockWrite (s : State) (cmp : BitVec 2) (p : Nat) (b : List (Byte × Bool)) : State :=
  let raw := b.map (·.1)
  if b.any (·.2) then
    let badKeys := ((List.range 4096).zip b).filterMap fun (i, x) => if x.2 then some (p + i) else none
    (s.write (at' p raw) badKeys).writeMeta p 0
  else match Codec.encode cmp raw with
    | none => (s.writeRaw p raw).writeMeta p 0
    | some c => (s.writeRaw p c).writeMeta p (BitVec.ofNat 8 (c.length / 128))

/-- A partial write to a compressed block (R53): the bytes that it covers, by their offset in the block, each with its poison. -/
def blockMerge (s : State) (cmp : BitVec 2) (p : Nat) (ws : List (Nat × Byte × Bool)) : State :=
  let old := s.blockRead cmp p
  let new : List (Byte × Bool) := ((List.range 4096).zip old).map fun x => (find? ws x.1).getD x.2
  if old.any (·.2) || ws.any (·.2.2) then
    let oldBad := s.blockBad p
    let badUnits := (List.range 64).filter fun u =>
      let mine := ws.filter fun w => w.1 / 64 == u
      mine.any (fun w => w.2.2) ||
        ((mine.map (·.1)).eraseDups.length < 64 && (oldBad || ((old.drop (64 * u)).take 64).any (·.2)))
    let raw := new.map (·.1)
    let s' := { s with mem := Memory.setAll s.mem (at' p raw) }
    let s' := { s' with poison := (List.range 64).foldl (fun q u =>
      if badUnits.contains u then Poison.add q (p + 64 * u) else Poison.del q (p + 64 * u)) s'.poison }
    s'.writeMeta p 0
  else s.blockWrite cmp p (new.map fun x => (x.1, false))

/-- Reads `n` bytes of HBM through a leaf with the given CMP (R51); the range lies in one 4 KiB block. -/
def hbmRead (s : State) (cmp : BitVec 2) (pa n : Nat) : List (Byte × Bool) :=
  if cmp = 0 then (List.range n).map fun i => (s.byte (pa + i), s.bad (pa + i))
  else ((s.blockRead cmp (pa / 4096 * 4096)).drop (pa % 4096)).take n

/-- Writes bytes of HBM through a leaf with the given CMP (R49, R52, R53); the range lies in one 4 KiB block. -/
def hbmWrite (s : State) (cmp : BitVec 2) (pa : Nat) (bs : List (Byte × Bool)) : State :=
  if cmp = 0 then
    s.write (at' pa (bs.map (·.1)))
      (((List.range bs.length).zip bs).filterMap fun (i, x) => if x.2 then some (pa + i) else none)
  else if pa % 4096 = 0 ∧ bs.length = 4096 then s.blockWrite cmp pa bs
  else s.blockMerge cmp (pa / 4096 * 4096) (((List.range bs.length).zip bs).map fun (i, x) => (pa % 4096 + i, x))

/-- Performs scattered bytes of one write on a compressed block: as a whole block when they cover it (R52), otherwise as one partial
write (R53). -/
def blockPut (s : State) (cmp : BitVec 2) (p : Nat) (ws : List (Nat × Byte × Bool)) : State :=
  if (List.range 4096).all fun i => (find? ws i).isSome then
    s.blockWrite cmp p ((List.range 4096).map fun i => (find? ws i).getD (0, false))
  else s.blockMerge cmp p ws

/-- Performs scattered bytes of HBM as one write, a later one of an address over an earlier: raw bytes together (R350), the bytes of each compressed block together (R52, R53). -/
def hbmScatter (s : State) (ws : List (Nat × BitVec 2 × Byte × Bool)) : State :=
  let ws := ws.reverse
  let raw := ws.filter fun w => w.2.1 == 0
  let s := s.write (raw.reverse.map fun w => (w.1, w.2.2.1)) ((raw.filter (·.2.2.2)).map (·.1))
  let coded := ws.filter (·.2.1 != 0)
  ((coded.map (·.1 / 4096)).eraseDups).foldl (fun s b =>
    let mine := coded.filter (·.1 / 4096 == b)
    s.blockPut ((mine.map (·.2.1)).headD 1) (4096 * b) (mine.map fun w => (w.1 % 4096, w.2.2.1, w.2.2.2))) s

/-! ### HBM by physical address

Addresses from `hbmEnd` up to 40 bits are unpopulated (R14): reading one gives a free value, and a write has no effect. (DESIGN CHOICE: log
entry 100.) -/

/-- One byte at a physical address. -/
def hbmByte (s : State) (a : Nat) : Byte := if a < Config.hbmEnd then s.byte a else Config.freeHole a
/-- A raw little-endian number at a physical address. -/
def hbmNat (s : State) (a n : Nat) : Nat := leNat ((List.range n).map fun i => s.hbmByte (a + i))
/-- Some bytes at a physical address are poisoned. -/
def hbmAnyBad (s : State) (a n : Nat) : Bool := (List.range n).any fun i => a + i < Config.hbmEnd && s.bad (a + i)
/-- Raw store of bytes at a physical address. -/
def hbmRaw (s : State) (a : Nat) (bs : List Byte) : State := if a + bs.length ≤ Config.hbmEnd then s.writeRaw a bs else s

end State

end Sys2Proof.Machine
end

