-- ==== Sys2Proof/Machine/Translate.lean ====
section
/-! DEFINITION. Virtual addresses: the five-level walk (R24 to R32), the lookup in the translation caches (R34, R344; Machine/Tlb fills
them), and the reads and writes of virtual memory that go through them. -/

namespace Sys2Proof.Machine

/-! ### Access to the parts of the state -/

namespace State

/-- A context. -/
def cx (s : State) (c : CtxId) : Ctx := (find? s.ctxs c).getD {}
/-- The context whose instruction is executing. -/
def me (s : State) : Ctx := s.cx s.cur
/-- Replaces a context. -/
def setCx (s : State) (i : CtxId) (c : Ctx) : State := { s with ctxs := put s.ctxs i c }
/-- Replaces the executing context. -/
def setMe (s : State) (c : Ctx) : State := s.setCx s.cur c
/-- Whether a slot of a cell holds a context. -/
def resident (s : State) (c : CtxId) : Bool := (find? s.ctxs c).isSome
def cell (s : State) (n : Nat) : Cell := (find? s.cells n).getD {}
def setCell (s : State) (n : Nat) (c : Cell) : State := { s with cells := put s.cells n c }
def part (s : State) (n : Nat) : Part := (find? s.parts n).getD {}
def setPart (s : State) (n : Nat) (p : Part) : State := { s with parts := put s.parts n p }
def die (s : State) (n : Nat) : Die := (find? s.dies n).getD {}
def setDie (s : State) (n : Nat) (d : Die) : State := { s with dies := put s.dies n d }
def island (s : State) (n : Nat) : Island :=
  (find? s.islands n).getD (if n < 12 then { group := 0 } else {})
def setIsland (s : State) (n : Nat) (d : Island) : State := { s with islands := put s.islands n d }
/-- The number of a free value for something numbered `k` within this step. (DESIGN CHOICE: log entry 7.) -/
def free (s : State) (k : Nat) : Nat := s.fresh * 2 ^ 64 + k

end State

/-! ### The walk -/

/-- Kinds of walk (R31). -/
inductive Access where
  | read | write | fetch | silt
  deriving DecidableEq, Repr

/-- Why a walk fails, with the level at which it stopped and the serial of the last entry (R32, R337). -/
structure WalkFail where
  cause : BitVec 8 := 0
  level : BitVec 3 := 0
  serial : BitVec 16 := 0
  /-- the address of a poisoned entry -/
  entryAt : Nat := 0
  deriving DecidableEq, Repr

/-- A translated address: the physical address, or the fabric offset and device of a remote page (R30). -/
structure Leaf where
  pa : Nat := 0
  size : Nat := 4096
  entry : TlbEntry := {}
  dev : BitVec 16 := 0
  level : BitVec 3 := 0
  deriving DecidableEq, Repr

/-- The index of a virtual address at a level (R24). -/
def tableIndex (va : Word) (level : Nat) : Nat :=
  match level with
  | 1 => (fld va 45 11 : BitVec 11).toNat
  | 2 => (fld va 36 9 : BitVec 9).toNat
  | 3 => (fld va 30 6 : BitVec 6).toNat
  | 4 => (fld va 21 9 : BitVec 9).toNat
  | _ => (fld va 12 9 : BitVec 9).toNat

/-- The page size of a leaf (R27). -/
def pageSize (e : Word) : Nat :=
  match (fld e 1 3 : BitVec 3).toNat with
  | 1 => if e.getLsbD 10 then 0x10000 else 0x1000
  | 2 => 0x200000
  | 3 => 0x40000000
  | _ => 0x1000000000

/-- FRAME as an address. -/
def frameOf (e : Word) : Nat := (fld e 12 28 : BitVec 28).toNat * 4096

/-- The address of an entry of the remote device table (R26). -/
def rdtAddr (p : Part) (rdi : Nat) : Nat := (fld p.rdt 12 28 : BitVec 28).toNat * 4096 + 2 * rdi

/-- An entry that is valid but malformed at its level (R28). -/
def malformed (s : State) (p : Part) (e : Word) (level : Nat) : Bool :=
  let ps := (fld e 1 3 : BitVec 3).toNat
  let rem := e.getLsbD 9
  let cmp : BitVec 2 := fld e 6 2
  let rdi := (fld e 40 8 : BitVec 8).toNat
  let size := pageSize e
  let base := frameOf e
  let psOk := match level with
    | 1 => ps == 0 | 2 => ps == 0 || ps == 4 | 3 => ps == 0 || ps == 3 | 4 => ps == 0 || ps == 2 | _ => ps == 1
  e.getLsbD 11 || 5 ≤ ps || !psOk ||
  (if ps == 0 then
    (fld e 40 8 : BitVec 8) != 0 || (fld e 4 7 : BitVec 7) != 0 ||
      Config.hbmEnd < base + (if level == 2 then 512 else 4096)
  else
    base % size != 0 || (e.getLsbD 10 && level != 5) || cmp == 3 ||
    (!rem && (rdi != 0 || Config.hbmEnd < base + size)) ||
    (rem && (cmp != 0 || e.getLsbD 8 || e.getLsbD 5)) ||
    (e.getLsbD 8 && cmp != 0) ||
    (rem && s.hbmNat (rdtAddr p rdi) 2 == 0xFFFF) ||
    (rem && Config.hbmEnd < base + size))

/-- The permission causes of R31, lowest code first. -/
def permission (e : TlbEntry) (k : Access) : Option (BitVec 8) :=
  match k with
  | .read => none
  | .write => if e.w then none else some 2
  | .fetch => if e.x then none else some 3
  | .silt => if e.silt && e.w then none else some 4

/-- The leaf that an entry makes for a virtual address, without its permissions. -/
def leafOf (s : State) (p : Part) (va : Word) (e : Word) (level : Nat) : Leaf :=
  let size := pageSize e
  let v := (fld va 0 56 : BitVec 56).toNat
  let base := frameOf e / size * size
  let rdi := (fld e 40 8 : BitVec 8).toNat
  let dev := if e.getLsbD 9 then
      BitVec.ofNat 16 (s.hbmNat (rdtAddr p rdi) 2) else s.dev.devNum
  { pa := base + v % size, size := size, level := BitVec.ofNat 3 level, dev := dev,
    entry := { vbase := v / size * size, size := size, frame := base, w := e.getLsbD 4, x := e.getLsbD 5,
               cmp := fld e 6 2, silt := e.getLsbD 8, rem := e.getLsbD 9, serial := fld e 48 16, dev := dev } }

/-- A byte as it stood before the newest `l` updates, which hold what they replaced. -/
def oldByte (l : List (List Host.Cell)) (a : Nat) (b : Byte) : Byte := l.foldl (fun b u => (find? u a).getD b) b

/-- A table entry as a walk reads it: whole, and from either side of each table write of the tick, which is a free value for each
entry (R33). -/
def entryWord (s : State) (a : Nat) : Word :=
  let newest := if s.tableOld.isEmpty then [] else s.tableOld.take (Config.freeStale (s.free (2 ^ 41 + a)))
  BitVec.ofNat 64 (leNat ((List.range 8).map fun i => oldByte newest (a + i) (s.hbmByte (a + i))))

/-- The address of the entry that a walk uses where it read `e` of a table: one of the 16 entries of a 64 KiB group when they differ, and
which one is a free value, one for the whole page (R29). -/
def groupAddr (s : State) (table idx level : Nat) (va e : Word) : Nat :=
  if level = 5 ∧ e.getLsbD 10 ∧ e.getLsbD 0 then
    let at? (i : Nat) : Nat := table + 8 * (idx / 16 * 16 + i)
    if (List.range 16).all fun i => entryWord s (at? i) == e then table + 8 * idx
    else at? (Config.freeGroupEntry (s.free (va.toNat / 65536))).toNat
  else table + 8 * idx

/-- The 4 KiB of this device that hold the translated address meet firmware's region of HBM: programs cannot read or write it (R335). -/
def inRegion (s : State) (l : Leaf) : Bool :=
  let p := l.pa / 4096 * 4096
  l.dev == s.dev.devNum && decide (p < s.dev.region.2) && decide (s.dev.region.1 < p + 4096)

/-- The walk from a table at a level (R31); `n` levels are left. A poisoned word that it reads ends it (R350): cause 255. -/
def walkFrom (s : State) (p : Part) (va : Word) (k : Access) : Nat → Nat → Except WalkFail Leaf
  | 0, _ => .error {}
  | n + 1, table =>
    let level := 5 - n
    let idx := tableIndex va level
    let a := groupAddr s table idx level va (entryWord s (table + 8 * idx))
    let e := entryWord s a
    let rdt := rdtAddr p (fld e 40 8 : BitVec 8).toNat
    let lv := BitVec.ofNat 3 level
    let fail (c : BitVec 8) (at' : Nat := a) : Except WalkFail Leaf := .error ⟨c, lv, fld e 48 16, at'⟩
    if s.hbmAnyBad (table + 8 * idx) 8 then fail 255 (table + 8 * idx)
    else if s.hbmAnyBad a 8 then fail 255
    else if !e.getLsbD 0 then fail 0
    else if (fld e 1 3 : BitVec 3) != 0 && e.getLsbD 9 && s.hbmAnyBad rdt 2 then fail 255 (rdt / 8 * 8)
    else if malformed s p e level then fail 1
    else if (fld e 1 3 : BitVec 3) = 0 then walkFrom s p va k n (frameOf e)
    else
      let l := leafOf s p va e level
      match permission l.entry k with
      | some c => fail c
      | none => .ok l

/-- A fresh walk for a partition (R31). With translation off no entry is read: level 1 and serial 0 are reported. (DESIGN CHOICE: log entry 101.) -/
def walk (s : State) (pid : Nat) (va : Word) (k : Access) : Except WalkFail Leaf :=
  let p := s.part pid
  if !p.root.getLsbD 0 then .error ⟨0, 1, 0, 0⟩
  else walkFrom s p va k 5 ((fld p.root 14 26 : BitVec 26).toNat * 0x4000)

/-! ### The translation caches (R344) -/

/-- What a lookup tries first: the sequencer TLB of the context, a stream TLB (0 to 15 the stream registers, 16 and 17 the copy engine's
inbound and outbound sides) of a stream that runs upward or downward, or the refill engine's of a channel. -/
inductive TlbUnit where
  | seq | stream (n : Fin 18) (down : Bool) | refill (chan : Nat)
  deriving DecidableEq, Repr

/-- The entries of that structure. -/
def unitTlb (s : State) (c : CtxId) (pid : Nat) : TlbUnit → List TlbEntry
  | .seq => (s.cx c).tlb
  | .stream n _ => (s.cx c).stlb[n]
  | .refill n => ((find? s.chans ⟨pid, n⟩).getD {}).tlb

/-- The entry that covers an address. -/
def tlbHit (l : List TlbEntry) (va : Word) : Option TlbEntry :=
  let v := (fld va 0 56 : BitVec 56).toNat
  l.find? fun e => e.vbase ≤ v && v < e.vbase + e.size

/-- The entries of a shared structure that are a partition's. -/
def ofPart (pid : Nat) (l : List (Nat × TlbEntry)) : List TlbEntry := l.filterMap fun x => if x.1 = pid then some x.2 else none

/-- The level of a leaf of a size (R27). -/
def levelOf (size : Nat) : BitVec 3 :=
  if size ≤ 0x10000 then 5 else if size = 0x200000 then 4 else if size = 0x40000000 then 3 else 2

/-- A cached translation of an address. -/
def TlbEntry.leaf (e : TlbEntry) (va : Word) : Leaf :=
  { pa := e.frame + ((fld va 0 56 : BitVec 56).toNat - e.vbase), size := e.size, entry := e, dev := e.dev, level := levelOf e.size }

/-- A translation that a program may use: one into firmware's region is reported as MALFORMED (R335). (DESIGN CHOICE: log entry 117.) -/
def allowed (s : State) (r : Except WalkFail Leaf) : Except WalkFail Leaf :=
  match r with
  | .error f => .error f
  | .ok l => if inRegion s l then .error ⟨1, l.level, l.entry.serial, 0⟩ else .ok l

/-- Looks an address up: the given entries, the cell TLB, the die TLB, then a walk (R344). Permissions are checked on a hit as well (R34). A
64 KiB page may be translated afresh, by any entry of its group, whatever is held (R29). -/
def lookup (s : State) (own : List TlbEntry) (cell pid : Nat) (va : Word) (k : Access) : Except WalkFail Leaf :=
  let cellTlb := ofPart pid (s.cell cell).tlb
  let dieTlb := ofPart pid (s.die (dieOf cell)).tlb
  allowed s <| match ((tlbHit own va).orElse fun _ => tlbHit cellTlb va).orElse fun _ => tlbHit dieTlb va with
  | none => walk s pid va k
  | some e =>
    if e.size == 0x10000 && Config.freeStale (s.free (2 ^ 42 + va.toNat / 65536)) % 2 == 1 then walk s pid va k
    else match permission e k with
      | some c => .error ⟨c, levelOf e.size, e.serial, 0⟩
      | none => .ok (e.leaf va)

/-- Translates one address of a context, through the sequencer TLB where nothing else is said (R344). -/
def translate (s : State) (c : CtxId) (va : Word) (k : Access) (u : TlbUnit := .seq) : Except WalkFail Leaf :=
  lookup s (unitTlb s c (s.cx c).pid u) c.cell (s.cx c).pid va k

/-- The virtual address of a pointer: bits 55:0 (R11). -/
def va56 (va : Word) : Word := va &&& bitMask 55 0

/-- The fault that a failed walk raises on an access other than PROBE (R32, R350). -/
def walkFault (va : Word) (f : WalkFail) : Raise :=
  if f.cause = 255 then .fatal .uncorrected { addr := BitVec.ofNat 64 f.entryAt, sub := 0, serial := f.serial }
  else .fatal .fatalTranslation { addr := va56 va, sub := f.cause, level := f.level, serial := f.serial }

/-- The pages that `n` bytes from `va` touch, in ascending order: first address on each and bytes there, at the finest page
size; at most `fuel` of them (R13). -/
def pieces : Nat → Word → Nat → List (Word × Nat)
  | 0, _, _ => []
  | f + 1, va, n =>
    if n = 0 then []
    else
      let room := 4096 - va.toNat % 4096
      let k := min room n
      (va, k) :: pieces f (va + BitVec.ofNat 64 k) (n - k)

/-- The pieces of a range. -/
def piecesOf (va : Word) (n : Nat) : List (Word × Nat) := pieces (n / 4096 + 2) va n

/-- The access runs past the 56-bit space (R12). -/
def outOfRange (va : Word) (n : Nat) : Bool := 2 ^ 56 < (fld va 0 56 : BitVec 56).toNat + n

/-- Bytes at an offset from a pointer that end past the 56-bit space: such an address does not wrap (R12). -/
def pastTop (va : Word) (off n : Nat) : Bool := n != 0 && decide (2 ^ 56 < (va56 va).toNat + off + n)

/-- The RANGE fault of R12: the lowest address of the access, level 0. -/
def rangeFault (va : Word) : Raise := .fatal .fatalTranslation { addr := va56 va, sub := 5 }

/-- Translates every page of an access, the lowest failing one reported (R12, R13). -/
def translateAll (s : State) (c : CtxId) (k : Access) (u : TlbUnit := .seq) : List (Word × Nat) → Except (Word × WalkFail) (List (Leaf × Nat))
  | [] => .ok []
  | (va, n) :: l =>
    match translate s c va k u with
    | .error f => .error (va, f)
    | .ok leaf => match translateAll s c k u l with
      | .error f => .error f
      | .ok r => .ok ((leaf, n) :: r)

/-- Translates an access of a context or gives its fault. -/
def translateRange (s : State) (c : CtxId) (k : Access) (va : Word) (n : Nat) : Except Raise (List (Leaf × Nat)) :=
  if outOfRange va n then .error (rangeFault va)
  else match translateAll s c k .seq (piecesOf va n) with
    | .error (a, f) => .error (walkFault a f)
    | .ok l => .ok l

/-- A page that the fabric reaches: remote, and not this device (R30). -/
def Leaf.far (s : State) (l : Leaf) : Bool := l.entry.rem && l.dev != s.dev.devNum

/-- Bytes read through translated pages; a remote byte is a free value. -/
def readLeaves (s : State) : List (Leaf × Nat) → List (Byte × Bool)
  | [] => []
  | (l, n) :: r =>
    (if l.far s then (List.range n).map fun i =>
        ((Config.freeRemote (s.free (l.pa + i))).setWidth 8, false)
     else s.hbmRead l.entry.cmp l.pa n) ++ readLeaves s r

/-- Bytes written through translated pages; a remote write leaves this device as it is. -/
def writeLeaves (s : State) : List (Leaf × Nat) → List (Byte × Bool) → State
  | [], _ => s
  | (l, n) :: r, bs =>
    let s' := if l.far s then s else s.hbmWrite l.entry.cmp l.pa (bs.take n)
    writeLeaves s' r (bs.drop n)

/-- The first address of a far page of an access whose fabric access completes with an error status (R30). -/
def farError (s : State) : List (Leaf × Nat) → Word → Option (Word × Leaf)
  | [], _ => none
  | (l, n) :: r, va =>
    if l.far s && Config.freeRemoteFails (s.free l.pa) then some (va, l)
    else farError s r (va + BitVec.ofNat 64 n)

/-- The fault of R30 for a remote access, with the level and serial of its leaf. -/
def remoteFault (va : Word) (l : Leaf) : Raise :=
  .fatal .fatalTranslation { addr := va56 va, sub := 6, level := l.level, serial := l.entry.serial }

/-- The word that holds the first poisoned byte of some read bytes (R337). -/
def badWord (va : Word) (bs : List (Byte × Bool)) : Option Word :=
  (((List.range bs.length).zip bs).find? (·.2.2)).map fun x => va56 (va + BitVec.ofNat 64 x.1) &&& ~~~7#64

/-- The UNCORRECTED fault of bytes read from HBM, when one of them is poisoned (R350). -/
def hbmBad (va : Word) (bs : List (Byte × Bool)) : Option Raise :=
  (badWord va bs).map fun a => .fatal .uncorrected { addr := a }

/-- Reads virtual memory for a context, raw poison beside each byte. -/
def readVirt (s : State) (c : CtxId) (k : Access) (va : Word) (n : Nat) : Except Raise (List (Byte × Bool)) :=
  match translateRange s c k va n with
  | .error e => .error e
  | .ok l => match farError s l va with
    | some (a, l) => .error (remoteFault a l)
    | none => .ok (readLeaves s l)

end Sys2Proof.Machine
end

