-- ==== Sys2Proof/Machine/Report.lean ====
section
/-! DEFINITION. What the device reports: cell and die counters (R354 to R357), Loess records (R360 to R365), host events
(R378), and fabric writes (R16, R17). -/

namespace Sys2Proof.Machine

/-! ### Fabric writes -/

/-- A write to a fabric global address: this device's HBM is written raw; another device's memory is not this machine's
(R16, R17, R30). -/
def fabWrite (s : State) (ga : Word) (bs : List Byte) : State :=
  let off := (fld ga 0 48 : BitVec 48).toNat
  if (fld ga 48 16 : BitVec 16) = s.dev.devNum ∧ off + bs.length ≤ Config.hbmEnd then s.writeRaw off bs else s

/-! ### Counters -/

/-- Counts up to 2⁶⁴ − 1 (R354). -/
def satInc (w : Word) : Word := if w = -1 then w else w + 1

/-- Whether a cell counter's select counts an event of a slot: `cellWide` events ignore CTXS, `q` is the queue of ISSUED and of
the head classes, `idx` the index within a class (R354, R355). -/
def selects (sel : Word) (slot evt q idx : Nat) (cellWide : Bool) : Bool :=
  let ctxs := (fld sel 29 2 : BitVec 2).toNat
  let selQ := (fld sel 27 2 : BitVec 2).toNat
  sel.getLsbD 31 && (fld sel 8 8 : BitVec 8).toNat == evt &&
    (cellWide || ctxs == slot || 2 ≤ ctxs) &&
    ((evt != 2 && evt < 0x10) || selQ == q) &&
    (evt < 0x10 || sel.getLsbD 26 || (fld sel 21 5 : BitVec 5).toNat == idx)

/-- Counts one occurrence of a cell event (R355), but in a counter that a CSRW has written in this cycle (R354). -/
def countCell (s : State) (cell slot evt : Nat) (q idx : Nat := 0) (cellWide : Bool := false) : State :=
  let c := s.cell cell
  let counts (i : Fin 8) : Bool := selects c.pms[i] slot evt q idx cellWide && !c.wrote.contains i.val
  if (List.finRange 8).any counts then
    let new : Vector Word 8 := Vector.ofFn fun i => if counts i then satInc c.pmc[i] else c.pmc[i]
    s.setCell cell { c with pmc := new }
  else s

/-- One occurrence of a die event, which the counters that select it count at the next tick of the time base (R357). -/
def countDie (s : State) (die evt : Nat) : State :=
  let d := s.die die
  let counts (w : Word) : Bool := w.getLsbD 31 && (fld w 8 8 : BitVec 8).toNat == evt
  if (List.finRange 16).any (fun i => counts d.pms[i]) then
    let new : Vector Nat 16 := Vector.ofFn fun i => if counts d.pms[i] then d.pmdDue[i] + 1 else d.pmdDue[i]
    s.setDie die { d with pmdDue := new }
  else s

/-- The counters of a die at a tick: what has happened since the last one is counted, up to 2⁶⁴ − 1 (R354, R357). -/
def Die.tick (d : Die) : Die :=
  { d with pmd := Vector.ofFn fun i => BitVec.ofNat 64 (min (2 ^ 64 - 1) (d.pmd[i].toNat + d.pmdDue[i])), pmdDue := .replicate 16 0 }

/-! ### The iteration that a record names (R363) -/

/-- The root of a clock under the definitions in effect, none for an undefined one or a UNION whose operands' roots differ
(R176). -/
def rootOf (c : Ctx) : Nat → Tag → Option Tag
  | 0, _ => none
  | n + 1, k =>
    if k = 0 ∨ 112 ≤ k.toNat then some k
    else match c.clk[k.toFin].cur with
      | .undef => none
      | .every p _ _ | .on p _ | .onnot p _ => rootOf c n p
      | .union p q =>
        let a := rootOf c n p
        if a.isSome && a == rootOf c n q then a else none

/-- The root of a clock. -/
def clockRoot (c : Ctx) (k : Tag) : Option Tag := rootOf c 128 k

/-- The instant of a clock root: BASEI for k0, B0 + j − s + 1 for stage clock k(111 + s) of a reaction (R176, R180). -/
def instantOf (c : Ctx) (r : React) (root : Tag) : Word :=
  if root.toNat < 112 then c.basei
  else r.b0 + BitVec.ofNat 64 r.iter - BitVec.ofNat 64 (root.toNat - 112)

/-- The instant of an instruction's clock (R176), in the reaction as the open instant found it (R177). (DEDUCED: log entry 118.) -/
def clockInstant (c : Ctx) (k : Tag) : Word := instantOf c c.ireact ((clockRoot c k).getD 0)

/-- The iteration of an instruction under a clock (R363). -/
def iterationOf (c : Ctx) (k : Tag) : Iteration :=
  let root := (clockRoot c k).getD 0
  if c.react.act then
    let r : Tag := if root.toNat < 112 then 112 else root
    let lvl := (c.loops.find? (·.react)).map (·.lc)
    ⟨BitVec.ofNat 3 (lvl.getD 7), true, BitVec.ofNat 4 (r.toNat - 112), instantOf c c.react r⟩
  else match c.loops with
    | f :: _ => ⟨BitVec.ofNat 3 f.lc, false, 0, BitVec.ofNat 64 f.done⟩
    | [] => ⟨7, false, 0, c.basei⟩

/-! ### Loess records -/

/-- The 64 bytes of a record (R362). -/
def recordWord (type : BitVec 4) (it : Iteration) (c : CtxId) (sub : BitVec 8) (lseq : Nat) (time pc : Word)
    (payload : BitVec 256) : BitVec 512 :=
  payload ++ pc ++ it.iter ++ time ++ BitVec.ofNat 32 lseq ++ sub ++ 0#1 ++ BitVec.ofNat 1 c.slot ++
    BitVec.ofNat 10 c.cell ++ it.loop ++ (if it.pipe then 1#1 else 0#1) ++ it.stg ++ type

/-- Writes a record of a die to its buffer (R360). -/
def dieRecord (s : State) (die : Nat) (r : BitVec 512) : State :=
  let d := s.die die
  if d.loess.getLsbD 6 then
    let base := (fld d.loess 16 24 : BitVec 24).toNat * 65536
    let size := 2 ^ (fld d.loess 0 6 : BitVec 6).toNat
    (s.hbmRaw (base + d.wptr.toNat % size) (leBytes 64 r.toNat)).setDie die { d with wptr := d.wptr + 64 }
  else s

/-- A record of a context enters its cell's trace queue of 32 and is written; with the queue full it is dropped and counted (R357, R365). The next
record of a cell that lost some follows a LOST record, where TRC.CTL traces that type (R364). (DEDUCED: log entry 94.) -/
def cellRecord (s : State) (c : CtxId) (r : BitVec 512) : State :=
  let die := dieOf c.cell
  let q := s.cell c.cell
  let lostToo := q.traceLost != 0 && q.trcCtl.getLsbD 24
  if !(s.die die).loess.getLsbD 6 then s
  else if (if lostToo then 31 else 32) ≤ q.traceN then
    let d := s.die die
    countDie ((s.setCell c.cell { q with traceLost := q.traceLost + 1 }).setDie die { d with lost := satInc d.lost }) die 9
  else
    let s := s.setCell c.cell { q with traceN := q.traceN + (if lostToo then 2 else 1), traceLost := 0 }
    let s := if lostToo then
        dieRecord s die (recordWord 8 {} c 0 (s.cx c).seq s.dev.time 0 (BitVec.ofNat 256 q.traceLost)) else s
    dieRecord s die r

/-- Writes a record of a launch's context when its cell's TRC.CTL traces the type and the slot (R361). -/
def traceOf (s : State) (c : CtxId) (seq : Nat) (type : BitVec 4) (it : Iteration) (sub : BitVec 8) (pc : Word) (payload : BitVec 256) : State :=
  let ctl := (s.cell c.cell).trcCtl
  if ctl.getLsbD (16 + type.toNat) && ctl.getLsbD c.slot then cellRecord s c (recordWord type it c sub seq s.dev.time pc payload) else s

/-- Writes a record of a resident context. -/
def trace (s : State) (c : CtxId) (type : BitVec 4) (it : Iteration) (sub : BitVec 8) (pc : Word)
    (payload : BitVec 256 := 0) : State := traceOf s c (s.cx c).seq type it sub pc payload

/-! ### The replay log (R371) -/

/-- Writes an event for the host into the partition's event queue (R378); without CONFIG nothing is written (R379). -/
def hostEvent (s : State) (pid : Nat) (kind code : BitVec 8) (cell : Nat) (slot : Nat) (datum : Nat) : State :=
  let p := s.part pid
  if p.configured && 0 < p.evCap then
    let r : List Byte :=
      [kind, code, 0, 0] ++ leBytes 2 cell ++ leBytes 1 slot ++ [0] ++ leBytes 8 datum ++ leBytes 8 s.dev.time.toNat ++
        leBytes 8 p.evNum ++ List.replicate 32 0
    (fabWrite s (p.evBase + BitVec.ofNat 64 (64 * (p.evNum % p.evCap))) r).setPart pid { p with evNum := p.evNum + 1 }
  else s

/-- Appends bytes to the replay log of a partition in record mode; a log without room ends record mode and reports LOG_FULL. -/
def logAppend (s : State) (pid : Nat) (bs : List Byte) : State :=
  let p := s.part pid
  match p.record with
  | none => s
  | some l =>
    if l.used + bs.length ≤ l.cap then
      (s.hbmRaw (l.base + l.used) bs).setPart pid { p with record := some { l with used := l.used + bs.length } }
    else hostEvent (s.setPart pid { p with record := none }) pid 5 0 0 0 0

/-- An INPUT, COMMIT or ANNOT record of a context for the replay log (R371), in the format of R362. -/
def logRecord (s : State) (c : CtxId) (type : BitVec 4) (it : Iteration) (sub : BitVec 8) (pc : Word)
    (payload : BitVec 256) (body : List Byte := []) : State :=
  let x := s.cx c
  if (s.part x.pid).record.isSome then
    logAppend s x.pid (leBytes 64 (recordWord type it c sub x.seq s.dev.time pc payload).toNat ++ body)
  else s

/-- An ANNOT event goes to the Loess and, for a corrected soft error, a PROBE_FAULT or a pre-emption in record mode, to the replay log
(R364, R371). A record that names no instruction has PC 0 and no iteration (R363). -/
def annot (s : State) (c : CtxId) (sub : BitVec 8) (pc : Word) (datum : Nat) (it : Iteration := {}) : State :=
  let it := if pc = 0 then {} else it
  let s := trace s c 7 it sub pc (BitVec.ofNat 256 datum)
  if sub.toNat < 3 then logRecord s c 7 it sub pc (BitVec.ofNat 256 datum) else s

/-! ### Soft errors (R349, R351) -/

/-- An event for every partition that has been configured (R378, R379). (DEDUCED: log entry 97.) -/
def tellAll (s : State) (kind code : BitVec 8) : State :=
  s.parts.foldl (fun s p => hostEvent s p.1 kind code 0 0 0) s

/-- A corrected error in storage of the kind of R350, of a cell or else of a die: counted there, noted for the context, and reported at firmware's
threshold (R349, R351, R378). (DESIGN CHOICE: log entry 81.) -/
def corrected (s : State) (c : CtxId) (cell : Bool) (kind : Nat) : State :=
  let s := if cell then countCell s c.cell c.slot 4 0 0 true else countDie s (dieOf c.cell) 7
  let s := if s.resident c then annot s c 0 0 kind else s
  let n := s.dev.softErrs + 1
  let s := { s with dev := { s.dev with softErrs := n } }
  if s.dev.softLimit != 0 && n % s.dev.softLimit == 0 then tellAll s 4 (BitVec.ofNat 8 kind) else s

end Sys2Proof.Machine
end

