-- ==== Sys2Proof/Machine/Tlb.lean ====
section
/-! DEFINITION. What an access leaves in the translation caches: the levels that its lookup missed are filled (R344), a stream TLB asks for the
next page (R345), and the misses are counted (R355, R357). -/

namespace Sys2Proof.Machine

/-- Adds an entry to a structure of `cap` entries; a full one replaces an entry that is a free value. -/
def tlbAdd {α : Type} [DecidableEq α] (cap victim : Nat) (l : List α) (e : α) : List α :=
  if l.contains e then l else if l.length < cap then l ++ [e] else l.set (victim % max cap 1) e

/-- Fills the cell and die TLBs with a translation that a lookup went past its first structure for, and counts what they missed. (DEDUCED: log
entry 102.) -/
def fillShared (s : State) (c : CtxId) (pid : Nat) (e : TlbEntry) : State :=
  let va := BitVec.ofNat 64 e.vbase
  let victim := Config.freeTlb (s.free e.vbase)
  let q := s.cell c.cell
  if (tlbHit (ofPart pid q.tlb) va).isSome then s
  else
    let s := countCell (s.setCell c.cell { q with tlb := tlbAdd 64 victim q.tlb (pid, e) }) c.cell c.slot 7
    let die := dieOf c.cell
    let s := countDie s die 1
    let d := s.die die
    if (tlbHit (ofPart pid d.tlb) va).isSome then s
    else countDie (countDie (s.setDie die { d with tlb := tlbAdd 8192 victim d.tlb (pid, e) }) die 2) die 3

/-- Replaces the entries of a first structure. -/
def setUnitTlb (s : State) (c : CtxId) (pid : Nat) (u : TlbUnit) (l : List TlbEntry) : State :=
  match u with
  | .seq => s.setCx c { s.cx c with tlb := l }
  | .stream n _ => s.setCx c { s.cx c with stlb := (s.cx c).stlb.set n l }
  | .refill n =>
    let i : ChanId := ⟨pid, n⟩
    { s with chans := put s.chans i { (find? s.chans i).getD {} with tlb := l } }

/-- The page that follows in a stream's direction, none past the ends of the space. -/
def nextPage (e : TlbEntry) (down : Bool) : Option Word :=
  if down then (if e.vbase = 0 then none else some (BitVec.ofNat 64 (e.vbase - 1)))
  else if 2 ^ 56 ≤ e.vbase + e.size then none else some (BitVec.ofNat 64 (e.vbase + e.size))

/-- A stream TLB comes to a page for the first time: it holds that page and, where it translates, the next (R344, R345). -/
def streamPage (s : State) (c : CtxId) (pid : Nat) (u : TlbUnit) (e : TlbEntry) (k : Access) (down : Bool) : State :=
  match (nextPage e down).map fun va => lookup s (unitTlb s c pid u) c.cell pid va k with
  | some (.ok l) =>
    let own := (unitTlb s c pid u).contains l.entry
    setUnitTlb (if own then s else fillShared s c pid l.entry) c pid u [e, l.entry]
  | _ => setUnitTlb s c pid u [e]

/-- What one translated access leaves: nothing when its first structure holds the page, otherwise that structure and those below it filled (R344). An
access that does not translate leaves nothing. -/
def useOne (s : State) (c : CtxId) (pid : Nat) (u : TlbUnit) (k : Access) (va : Word) : State :=
  let own := unitTlb s c pid u
  match lookup s own c.cell pid va k with
  | .error _ => s
  | .ok l =>
    match u with
    | .seq =>
      if (tlbHit own va).isSome then s
      else
        let s := fillShared s c pid l.entry
        setUnitTlb s c pid u (tlbAdd 32 (Config.freeTlb (s.free l.entry.vbase)) (s.cx c).tlb l.entry)
    | .stream _ _ | .refill _ =>
      let down := match u with
        | .stream _ d => d
        | _ => false
      if (tlbHit (own.take 1) va).isSome then s
      else if (tlbHit own va).isSome then streamPage s c pid u l.entry k down
      else streamPage (fillShared (countCell s c.cell c.slot 6) c pid l.entry) c pid u l.entry k down

/-- What the accesses of a range leave, page by page. -/
def useRange (s : State) (c : CtxId) (k : Access) (va : Word) (n : Nat) (u : TlbUnit := .seq) : State :=
  (piecesOf va n).foldl (fun s p => useOne s c (s.cx c).pid u k p.1) s

/-- A translation lies outside some invalidated ranges. -/
def TlbEntry.outside (l : List (Nat × Nat)) (e : TlbEntry) : Bool := !l.any fun r => e.vbase < r.1 + r.2 && r.1 < e.vbase + e.size

/-- A context acknowledges every invalidation posted to it and drops the entries that they cover from its sequencer and stream TLBs (R346). -/
def Ctx.quiet (x : Ctx) : Ctx :=
  { x with tlb := x.tlb.filter (·.outside x.inval), stlb := x.stlb.map (·.filter (·.outside x.inval)), inval := [], pendCount := 0 }

/-- A context reads a channel. -/
def readsChan (x : Ctx) (i : ChanId) : Bool := i.pid == x.pid && x.port.any fun p => p.chan == some i.chan && !p.write

/-- The refill engines of the channels that a context reads drop them too. -/
def dropRefills (s : State) (c : CtxId) : State :=
  let x := s.cx c
  if x.inval.isEmpty then s
  else { s with chans := s.chans.map fun (i, ch) => (i, if readsChan x i then { ch with tlb := ch.tlb.filter (·.outside x.inval) } else ch) }

/-- A save empties the context's TLBs, which acknowledges every invalidation (R340, R347). -/
def emptyTlbs (s : State) (c : CtxId) : State :=
  let x := s.cx c
  let clear (k : ChanId × Chan) : ChanId × Chan := if readsChan x k.1 then (k.1, { k.2 with tlb := [] }) else k
  let s : State := { s with chans := s.chans.map clear }
  s.setCx c { x with tlb := [], stlb := .replicate 18 [], inval := [], pendCount := 0 }

/-- The context passes a quiescent point (R346). -/
def quiesce (s : State) (c : CtxId) : State := (dropRefills s c).setCx c (s.cx c).quiet

end Sys2Proof.Machine
end

