-- ==== Sys2Proof/Machine/ChanUnit.lean ====
section
/-! DEFINITION. The channel unit: a channel's geometry (R98, R99), its elements (R105 to R109), binding, credits (R104),
write-back and unbinding (R101). -/

namespace Sys2Proof.Machine

namespace Chan

/-- Element size E in bytes, ring capacity n, Silt capacity C (R98). -/
def e (c : Chan) : Nat := 2 ^ c.esz
def n (c : Chan) : Nat := 2 ^ c.rsz
def c (c : Chan) : Nat := if c.slog = 0 then 0 else 2 ^ c.slog
/-- Elements in the ring, in the Silt, and altogether at the unit. -/
def ring (c : Chan) : Nat := (c.rtail - c.rhead).toNat
def silt (c : Chan) : Nat := (c.stail - c.shead).toNat
def held (c : Chan) : Nat := c.ring + c.refills.length + c.silt
/-- Pending elements and close markers on their way (R109). -/
def pendingTransit (c : Chan) : List Elem := c.transit.filter fun x => x.pend.isSome
/-- Elements at the unit from the oldest pending one on, and the pending ones among them (R109). -/
def marked (c : Chan) : List Mark := c.marks.filter (!·.close)
def pending (c : Chan) : Nat := ((marked c).filter (·.pend.isSome)).length
/-- Pending elements of the channel. -/
def pendingAll (c : Chan) : Nat := c.pending + ((pendingTransit c ++ c.away).filter (!·.close)).length
/-- The reader is bound and resident on its cell. -/
def served (c : Chan) : Bool := match c.reader with
  | some r => r.resident
  | none => false
/-- The oldest element of the ring is present and not pending (R117). -/
def headPresent (c : Chan) : Bool := 0 < c.ring && (marked c).length < c.held
/-- Every push goes to the Silt: spill mode, which is on while the reader is not bound and resident (R106). -/
def spilling (c : Chan) : Bool := c.spill || !c.served
/-- Closed with nothing left (R117). -/
def ended (c : Chan) : Bool := 2 ≤ c.state.toNat && c.held = 0 && c.transit.isEmpty

end Chan

namespace State

def chan (s : State) (i : ChanId) : Chan := (find? s.chans i).getD {}
def setChan (s : State) (i : ChanId) (c : Chan) : State := { s with chans := put s.chans i c }

end State

/-- Address of a descriptor (R22). -/
def descAddr (p : Part) (chan : Nat) : Nat := (fld p.chanBase 12 28 : BitVec 28).toNat * 4096 + 128 * chan

/-- The device-number, cell, slot and port fields of an endpoint (R98). -/
def endpointBits (e : Option Endpoint) : BitVec 32 :=
  match e with
  | none => 0
  | some e => BitVec.ofNat 5 e.port ++ BitVec.ofNat 1 e.slot ++ BitVec.ofNat 10 e.cell ++ e.dev

/-- The RW words of a descriptor that the unit writes back: bits 591:256 but for the reserved ones (R98). -/
def liveBits (c : Chan) : BitVec 336 :=
  BitVec.ofNat 32 c.pendingAll ++ c.grown ++ 0#1 ++ (if c.rblk then 1#1 else 0#1) ++ (if c.wblk then 1#1 else 0#1) ++
    (if c.pendingAll = 0 then 0#1 else 1#1) ++ (if c.spilling then 1#1 else 0#1) ++ c.state ++ c.rcount ++ c.wcount ++
    c.stail ++ c.shead ++ c.rtail ++ c.rhead ++ 0#27 ++ BitVec.ofNat 5 c.slog

/-- Writes the live state back into the descriptor, the bound endpoints included (R101). -/
def writeBack (s : State) (i : ChanId) : State :=
  let c := s.chan i
  let a := descAddr (s.part i.pid) i.chan
  let s := if c.writer.isSome then s.hbmRaw a (leBytes 4 (endpointBits c.writer).toNat) else s
  let s := if c.reader.isSome then s.hbmRaw (a + 8) (leBytes 4 (endpointBits c.reader).toNat) else s
  let s := s.hbmRaw (a + 24) (leBytes 8 c.sbase.toNat)
  s.hbmRaw (a + 32) (leBytes 42 (liveBits c).toNat)

/-- A channel from its descriptor's bytes (R98). -/
def chanOf (w : BitVec 1024) : Chan :=
  { esz := (fld w 128 4 : BitVec 4).toNat, rsz := (fld w 132 4 : BitVec 4).toNat, cls := (fld w 136 2 : BitVec 2).toNat,
    scope := (fld w 138 3 : BitVec 3).toNat, stat := w.getLsbD 141, rbase := (fld w 160 22 : BitVec 22).toNat,
    sbase := zx (fld w 192 56 : BitVec 56), slog := (fld w 256 5 : BitVec 5).toNat,
    rhead := fld w 288 32, rtail := fld w 320 32, shead := fld w 352 32, stail := fld w 384 32,
    wcount := fld w 416 64, rcount := fld w 480 64, state := fld w 544 3, spill := w.getLsbD 547, grown := fld w 552 8 }

/-- Key of ring slot `j`'s element and of its tag, in the reader's local window (R99). -/
def ringKey (c : Chan) (cell j : Nat) : Nat := scratchKey cell (c.rbase + c.e * j)
def ringTagKey (c : Chan) (cell j : Nat) : Nat := scratchKey cell (c.rbase + c.n * c.e + 8 * j)

/-- The bytes of an element. -/
def Elem.bytes (x : Elem) (n : Nat) : List Byte := leBytes n x.val.toNat

/-- Places an element at the ring's tail. -/
def ringPush (s : State) (i : ChanId) (cell : Nat) (x : Elem) : State :=
  let c := s.chan i
  let j := c.rtail.toNat % c.n
  let k := ringKey c cell j
  let t := ringTagKey c cell j
  let s := s.write (State.at' k (x.bytes c.e)) (if x.bad then [k] else [])
  let s := s.write (State.at' t (leBytes 8 x.tag.toNat)) (if x.badTag then [t] else [])
  s.setChan i { c with rtail := c.rtail + 1 }

/-- The ring's element number `m` from its head. -/
def ringAt (s : State) (i : ChanId) (cell m : Nat) : Elem :=
  let c := s.chan i
  let j := (c.rhead.toNat + m) % c.n
  let k := ringKey c cell j
  let t := ringTagKey c cell j
  { val := BitVec.ofNat 4096 (s.rawNat k c.e), tag := BitVec.ofNat 64 (s.rawNat t 8),
    bad := s.anyBad k c.e, badTag := s.anyBad t 8 }

/-- The element at the ring's head. -/
def ringHead (s : State) (i : ChanId) (cell : Nat) : Elem := ringAt s i cell 0

/-- Virtual addresses of Silt slot `j`'s element and tag (R99). -/
def siltAddr (c : Chan) (j : Nat) : Word := c.sbase + BitVec.ofNat 64 (c.e * j)
def siltTagAddr (c : Chan) (j : Nat) : Word := c.sbase + BitVec.ofNat 64 (c.c * c.e + 8 * j)

/-- The cell and slot on whose behalf the unit works: the reader's, the writer's where there is none. -/
def unitAt (c : Chan) : CtxId :=
  match c.reader.orElse fun _ => c.writer with
  | some e => ⟨e.cell, e.slot⟩
  | none => ⟨0, 0⟩

/-- Walks the Silt bytes of one slot with kind SILT, through the refill engine's TLB (R107, R344); bytes past the end of the space fail first (R12). -/
def siltWalk (s : State) (i : ChanId) (va : Word) (n : Nat) : Except (Word × WalkFail) (List (Leaf × Nat)) :=
  let own := (s.chan i).tlb
  if decide (2 ^ 56 < va.toNat + n) then .error (va, { cause := 5 })
  else (piecesOf va n).foldr (fun (a, k) acc =>
    match lookup s own (unitAt (s.chan i)).cell i.pid a .silt with
    | .error f => .error (a, f)
    | .ok l => acc.map ((l, k) :: ·)) (.ok [])

/-- The walks of a slot's element and tag, and the state with what they leave in the caches. -/
def siltSlot (s : State) (i : ChanId) (j : Nat) : Except (Word × WalkFail) (List (Leaf × Nat) × List (Leaf × Nat) × State) :=
  let c := s.chan i
  match siltWalk s i (siltAddr c j) c.e with
  | .error f => .error f
  | .ok le => match siltWalk s i (siltTagAddr c j) 8 with
    | .error f => .error f
    | .ok lt => .ok (le, lt, (piecesOf (siltAddr c j) c.e ++ piecesOf (siltTagAddr c j) 8).foldl (fun s p =>
        useOne s (unitAt c) i.pid (.refill i.chan) .silt p.1) s)

/-- Writes an element into Silt slot `j` (R99, R107). -/
def siltWrite (s : State) (i : ChanId) (j : Nat) (x : Elem) : Except (Word × WalkFail) State :=
  match siltSlot s i j with
  | .error f => .error f
  | .ok (le, lt, s) =>
    let s := writeLeaves s le ((x.bytes (s.chan i).e).map (·, x.bad))
    .ok (writeLeaves s lt ((leBytes 8 x.tag.toNat).map (·, x.badTag)))

/-- Reads Silt slot `j`. -/
def siltRead (s : State) (i : ChanId) (j : Nat) : Except (Word × WalkFail) (Elem × State) :=
  match siltSlot s i j with
  | .error f => .error f
  | .ok (le, lt, s) =>
    let b := readLeaves s le
    let t := readLeaves s lt
    .ok ({ val := BitVec.ofNat 4096 (leNat (b.map (·.1))), tag := BitVec.ofNat 64 (leNat (t.map (·.1))),
           bad := b.any (·.2), badTag := t.any (·.2) }, s)

/-- Elements of a channel in order: the ring's, the refills in flight, the Silt's. -/
def heldElem (s : State) (i : ChanId) (k : Nat) : Elem :=
  let c := s.chan i
  if k < c.ring then
    match c.reader with
    | some r => ringAt s i r.cell k
    | none => {}
  else if k < c.ring + c.refills.length then c.refills.getD (k - c.ring) {}
  else match siltRead s i ((c.shead.toNat + (k - c.ring - c.refills.length)) % max c.c 1) with
    | .ok (x, _) => x
    | .error _ => {}

/-- Places an element at the Silt's tail and starts spill mode; counts the spill for the reader's cell (R106, R355). -/
def siltPush (s : State) (i : ChanId) (x : Elem) : Except (Word × WalkFail) State :=
  let c := s.chan i
  match siltWrite s i (c.stail.toNat % max c.c 1) x with
  | .error f => .error f
  | .ok s =>
    let s := s.setChan i { s.chan i with stail := c.stail + 1, spill := true }
    match c.reader with
    | some r => .ok (countCell s r.cell r.slot 8)
    | none => .ok s

/-- The arrival of an element or close marker at the unit: a push (R106), a close (R118). -/
def arrive (s : State) (i : ChanId) (x : Elem) : Except (Word × WalkFail) State :=
  let c := s.chan i
  let mark (s : State) : State :=
    let c := s.chan i
    if x.pend.isNone && c.marks.isEmpty then s else s.setChan i { c with marks := c.marks ++ [⟨x.pend, x.close, x.own⟩] }
  if x.close && x.pend.isNone then .ok (s.setChan i { c with state := if c.state = 1 then 2 else c.state })
  else if x.close then .ok (mark s)
  else match c.reader with
    | some r =>
      if !c.spilling && c.ring + c.refills.length < c.n then .ok (mark (ringPush s i r.cell x))
      else (siltPush s i x).map mark
    | none => (siltPush s i x).map mark

/-- Ends spill mode when the Silt is empty and no refill is outstanding (R106). -/
def settleSpill (s : State) (i : ChanId) : State :=
  let c := s.chan i
  if c.spill && c.silt = 0 && c.refills.isEmpty && c.served then s.setChan i { c with spill := false } else s

/-- Marks that tell nothing: those before the oldest pending element or marker. -/
def pruneMarks (l : List Mark) : List Mark := l.dropWhile (·.pend.isNone)

/-- The pending elements and markers of an instant become present (R109, R118). -/
def commitChan (s : State) (i : ChanId) (m : Word) : State :=
  let c := s.chan i
  let closes := c.marks.any fun x => x.pend == some m && x.close
  let marks := (c.marks.filter fun x => !(x.close && x.pend == some m)).map fun x => if x.pend == some m then { x with pend := none } else x
  s.setChan i { c with
    marks := pruneMarks marks, away := c.away.filter (·.pend != some m), state := if closes && c.state = 1 then 2 else c.state }

/-- Keeps the first `k` elements at the unit. -/
def cutTail (c : Chan) (k : Nat) : Chan :=
  let n := c.held - k
  let fromSilt := min n c.silt
  let fromRefill := min (n - fromSilt) c.refills.length
  { c with stail := c.stail - BitVec.ofNat 32 fromSilt, refills := c.refills.take (c.refills.length - fromRefill),
           rtail := c.rtail - BitVec.ofNat 32 (n - fromSilt - fromRefill) }

/-- Discards every pending element, with its count, credit and marker (R109, R118); a present one that was written behind a pending one takes its
place. -/
def abandonChan (s : State) (i : ChanId) : State :=
  let c := s.chan i
  let elems := c.transit.filter fun x => x.pend.isSome && !x.close
  let total := c.pending + elems.length + (c.away.filter (!·.close)).length
  let first := c.held - c.marked.length
  let kept := (((List.range c.marked.length).zip c.marked).filter (·.2.pend.isNone)).map fun x => heldElem s i (first + x.1)
  let cut := cutTail c first
  let s := settleSpill (s.setChan i { cut with
    transit := c.transit.filter (·.pend.isNone), marks := [], away := [], wcount := c.wcount - BitVec.ofNat 64 total,
    returning := c.returning + (if c.writer.isSome then total else 0) }) i
  kept.foldl (fun s x => match arrive s i x with
    | .ok s => s
    | .error _ => s) s

/-- Drops the first `k` element marks. -/
def dropMarks : Nat → List Mark → List Mark
  | 0, l => l
  | _, [] => []
  | k + 1, m :: l => if m.close then m :: dropMarks (k + 1) l else dropMarks k l

/-- The ring and the refills in flight are discarded when the reader leaves (R101). -/
def discardRing (s : State) (i : ChanId) : State :=
  let c := s.chan i
  let n := c.ring + c.refills.length
  let newTail := c.rtail + BitVec.ofNat 32 c.refills.length
  s.setChan i { c with
    rhead := newTail, rtail := newTail, refills := [], marks := pruneMarks (dropMarks (n - (c.held - c.marked.length)) c.marks),
    returning := c.returning + (if c.writer.isSome then n else 0) }

/-- The other endpoint lies on another device (R125). -/
def foreign (s : State) (e : Option Endpoint) : Bool := match e with
  | some e => e.dev != s.dev.devNum
  | none => false

/-- A channel with both endpoints gone and nothing on its way leaves its unit, its live state written back (R101). -/
def dropIdle (s : State) (i : ChanId) : State :=
  let c := s.chan i
  if (find? s.chans i).isSome && (c.writer.isNone || foreign s c.writer) && (c.reader.isNone || foreign s c.reader) &&
      c.transit.isEmpty then
    let s := writeBack s i
    { s with chans := drop s.chans i }
  else s

/-- Unbinds one port of a context; when both endpoints are gone the live state is written back and the unit lets the channel
go (R101). (DEDUCED: log entry 57.) -/
def unbindPort (s : State) (pid : Nat) (p : Port) : State :=
  match p.chan with
  | none => s
  | some n =>
    let i : ChanId := ⟨pid, n⟩
    let s := if p.write then s.setChan i { s.chan i with writer := none }
      else let s := discardRing s i; s.setChan i { s.chan i with reader := none }
    dropIdle s i

/-- Unbinds every port of a context (R101). -/
def unbindAll (s : State) (c : CtxId) : State :=
  let x := s.cx c
  let s := x.port.toList.foldl (fun s p => unbindPort s x.pid p) s
  s.setCx c { s.cx c with port := .replicate 32 {} }

/-- The credits a write port may use: while the reader is not resident, only free Silt slots (R104). (DEDUCED: log entry 59.) -/
def usableCredits (c : Chan) (p : Port) : Nat :=
  if c.served then p.credits else min p.credits (c.c - c.silt - (c.transit.filter (!·.close)).length)

end Sys2Proof.Machine
end

