-- ==== Sys2Proof/Machine/Images.lean ====
section
/-! DEFINITION. The images of a context's registers: what the save area (R341), the fault record (R337), dumps (R369) and GSAVE
(R302) hold. -/

namespace Sys2Proof.Machine

/-- A Bool as one bit. -/
def bit1 (b : Bool) : BitVec 1 := if b then 1 else 0

/-- The six extents, EXT0 lowest. -/
def extBits (v : Vector (BitVec 32) 6) : BitVec 192 := v[5] ++ v[4] ++ v[3] ++ v[2] ++ v[1] ++ v[0]

/-- The image of a stream register (R69). -/
def StreamReg.image (a : StreamReg) : BitVec 1024 :=
  a.record ++ a.bhi ++ a.blo ++ 0#6 ++ bit1 a.bv ++ bit1 a.sp ++ a.layout ++ extBits a.ext ++ a.pos ++ a.base

/-- The image of a generator (R302). -/
def Gen.image (g : Gen) : BitVec 1024 :=
  0#320 ++ g.param ++ 0#56 ++ g.scope ++ 0#13 ++ g.kind ++ g.scale ++ g.stride ++ g.coff ++ g.roff ++ g.cols ++ g.rows ++
    g.cctr ++ g.ctr ++ g.key

/-- A generator from its image, reserved bits apart (R302). -/
def Gen.ofImage (w : BitVec 1024) : Gen :=
  { key := fld w 0 128, ctr := fld w 128 128, cctr := fld w 256 128, rows := fld w 384 32, cols := fld w 416 32,
    roff := fld w 448 32, coff := fld w 480 32, stride := fld w 512 32, scale := fld w 544 16, kind := fld w 560 3,
    scope := fld w 576 8, param := fld w 640 64 }

/-- CTX.STATUS (R168). -/
def statusWord (c : Ctx) (me : CtxId) : Word :=
  0#46 ++ BitVec.ofNat 10 me.cell ++ 0#4 ++ bit1 c.iopen ++ BitVec.ofNat 1 me.slot ++ bit1 c.chk ++ bit1 c.coll

/-- REACT.STATE (R182). -/
def reactWord (c : Ctx) : Word := 0#27 ++ bit1 c.react.act ++ BitVec.ofNat 4 c.react.stg ++ BitVec.ofNat 32 c.react.iter

/-- TRAP.STATUS and PRE.CTL and XLAT.PEND (R330). -/
def trapStatusWord (t : TrapRegs) : Word := 0#61 ++ bit1 t.preh ++ bit1 t.emu ++ bit1 t.act
def preCtlWord (t : TrapRegs) : Word := 0#62 ++ bit1 t.pend ++ bit1 t.hook
def xlatPendWord (c : Ctx) : Word := 0#32 ++ c.pendSerial ++ c.pendCount

/-- A context register by its number (R226, R330). -/
def ctxCsr (c : Ctx) (me : CtxId) (n : Nat) : Option Word :=
  match n with
  | 0x000 => some (statusWord c me)
  | 0x001 => some c.slip
  | 0x002 => some c.basei
  | 0x003 => some c.iscope
  | 0x004 => some (reactWord c)
  | 0x005 => some c.react.b0
  | 0x006 => some (0#62 ++ bit1 c.fpchk ++ bit1 c.det)
  | 0x007 => some c.layoutBase
  | 0x008 => some c.bndTags
  | 0x010 => some c.looptab[0] | 0x011 => some c.looptab[1] | 0x012 => some c.looptab[2]
  | 0x013 => some c.looptab[3] | 0x014 => some c.looptab[4] | 0x015 => some c.looptab[5]
  | 0x020 => some c.t[0].cfg | 0x021 => some c.t[1].cfg | 0x022 => some c.t[2].cfg | 0x023 => some c.t[3].cfg
  | 0x024 => some c.t[4].cfg | 0x025 => some c.t[5].cfg | 0x026 => some c.t[6].cfg | 0x027 => some c.t[7].cfg
  | 0x030 => some c.trap.base
  | 0x031 => some c.trap.epc
  | 0x032 => some c.trap.cause
  | 0x033 => some c.trap.addr
  | 0x034 => some c.trap.info
  | 0x035 => some (trapStatusWord c.trap)
  | 0x036 => some c.trap.scr0
  | 0x037 => some c.trap.scr1
  | 0x038 => some (preCtlWord c.trap)
  | 0x039 => some c.preArea
  | 0x03A => some (xlatPendWord c)
  | _ => none

/-- s0 to s63, 16 bytes each: the value, then its tag in byte 8 (R341). -/
def imgS (c : Ctx) : List Byte :=
  c.s.toList.flatMap fun r => leBytes 8 r.val.toNat ++ leBytes 8 r.tag.toNat
def imgM (c : Ctx) : List Byte := c.m.toList.flatMap fun m => leBytes 128 m.toNat
def imgA (c : Ctx) : List Byte := c.a.toList.flatMap fun a => leBytes 128 a.image.toNat
def imgG (c : Ctx) : List Byte := c.g.toList.flatMap fun g => leBytes 128 g.image.toNat
def imgCb (c : Ctx) : List Byte := c.cb.toList.flatMap fun b => leBytes 32 b.toNat
/-- The bytes of registers of a file, `n` bytes each, with the poison of each register (R342, R351). -/
def withBad (c : Ctx) (f : RegFile) (n : Nat) (l : List Byte) : List (Byte × Bool) :=
  if c.badRegs.isEmpty then l.map (·, false)
  else ((List.range l.length).zip l).map fun (i, b) => (b, c.badRegs.contains (f, i / n))
/-- v0 to v31, with the poison of each 64-bit word. -/
def imgV (c : Ctx) : List (Byte × Bool) :=
  c.v.toList.flatMap fun r => ((List.range 512).zip (leBytes 512 r.val.toNat)).map fun (i, b) => (b, r.bad.getLsbD (i / 8))
/-- d0 to d15: held value, then next value. -/
def imgD (c : Ctx) : List Byte := c.d.toList.flatMap fun r => leBytes 512 r.held.toNat ++ leBytes 512 r.next.toNat
/-- The neighbour input queues: four entries of 512 bytes each, with the poison of each 64-bit word. -/
def imgNq (c : Ctx) : List (Byte × Bool) :=
  c.nq.toList.flatMap fun q => (List.range 4).flatMap fun i =>
    ((List.range 512).zip (leBytes 512 (q.getD i {}).val.toNat)).map fun (j, b) => (b, (q.getD i {}).bad.getLsbD (j / 8))
/-- The scalars' bytes with the poison of each value. -/
def imgSBad (c : Ctx) : List (Byte × Bool) :=
  ((List.range 1024).zip (imgS c)).map fun (i, b) => (b, i % 16 < 8 && (c.s.toList.getD (i / 16) {}).bad)
/-- Context CSRs 0x000 to 0x03A, each 16 bytes: number, then value (R369). -/
def imgCsr (c : Ctx) (me : CtxId) : List Byte :=
  (List.range 0x3B).flatMap fun n => match ctxCsr c me n with
    | some w => leBytes 8 n ++ leBytes 8 w.toNat
    | none => []

/-- Bytes that a save leaves to the device's own layout (R341): free values. -/
def freeBytes (no lo n : Nat) : List Byte := (List.range n).map fun i => Config.freeControlByte no (lo + i)

/-- Bytes of a save with those at the offsets `bad` poisoned. -/
def markBad (bad : List Nat) (l : List Byte) : List (Byte × Bool) :=
  if bad.isEmpty then l.map (·, false) else ((List.range l.length).zip l).map fun x => (x.2, bad.contains x.1)

/-- The run of `n` offsets from `lo` on. -/
def runFrom (lo n : Nat) : List Nat := (List.range n).map (lo + ·)

/-- The offsets of the poisoned bytes of loads in their data queue, whose entries have 512 bytes: a load takes one for each beat (R72, R162). -/
def loadsBad : List Load → Nat → List Nat
  | [], _ => []
  | l :: ls, lo =>
    let ix := if l.cells.isEmpty then ((List.range 64).filter (l.bad.getLsbD ·)).flatMap fun w => runFrom (8 * w) 8
      else (List.range l.cells.length).filter fun i => (l.cells[i]?).any fun x => l.badCells.contains x.1
    ix.map (lo + ·) ++ loadsBad ls (lo + 512 * l.beats)

/-- The offsets of the poisoned entries of a queue whose entries have `n` bytes. -/
def entriesBad (l : List Bool) (lo n : Nat) : List Nat :=
  ((List.range l.length).filter fun i => l.getD i false).flatMap fun i => runFrom (lo + n * i) n

/-- Poison in the parts of a save whose layout is the device's own (R341, R342): loop counters in the control state, the load and the store data queue of 16
entries each, and the set-aside entries of the queues L, C and S of 32 each. (DEDUCED: log entry 123.) -/
def controlBad (c : Ctx) : List Nat := ((List.range 6).filter fun n => c.badRegs.contains (.lc, n)).flatMap fun n => runFrom (8 * n) 8
def dataBadAt (c : Ctx) : List Nat :=
  loadsBad c.loads 0 ++ entriesBad ((c.qS.filter (·.passed)).map fun e => e.dataBad || e.sbad) 0x2000 512
def asideBad (c : Ctx) : List Nat :=
  entriesBad (c.qL.map (·.dataBad)) 0 64 ++ entriesBad (c.qC.map (·.dataBad)) 0x800 64 ++ entriesBad (c.qS.map (·.dataBad)) 0x1000 64

/-- The save area from offset 0x40 up to the cell image (R341). -/
def saveBytes (c : Ctx) (no : Nat) : List (Byte × Bool) :=
  let ok (l : List Byte) : List (Byte × Bool) := l.map (·, false)
  markBad (controlBad c) (freeBytes no 0x40 0xFC0) ++ imgSBad c ++ withBad c .m 128 (imgM c) ++ withBad c .a 128 (imgA c) ++ withBad c .g 128 (imgG c) ++
    withBad c .cb 32 (imgCb c) ++ ok (freeBytes no 0x2900 0x700) ++ imgV c ++ withBad c .d 1024 (imgD c) ++ imgNq c ++
    markBad (dataBadAt c) (freeBytes no 0xD000 0x4000) ++ markBad (asideBad c) (freeBytes no 0x11000 0x2000) ++ ok (freeBytes no 0x13000 0x9000)

/-- The cell image: tile storage, accumulator memory, local window, cluster share, in the order of R341. -/
def imageKeys (cell : Nat) : List (Nat × Nat) :=
  [(tileKey cell 0, Config.tileBytes), (accKey cell 0, Config.accBytes),
   (scratchKey cell 0, Config.localBytes + Config.shareBytes)]

/-- A fault record (R337). -/
def faultRecord (pc word : Word) (code : BitVec 8) (i : Info) (nested abandoned : Bool) : BitVec 512 :=
  0#240 ++ i.aux ++ 0#14 ++ i.lane ++ i.serial ++ 0#3 ++ bit1 abandoned ++ bit1 nested ++ i.level ++ i.sub ++ code ++
    i.addr ++ word ++ pc

end Sys2Proof.Machine
end

