-- ==== Sys2Proof/Machine/Ops.lean ====
section
/-! DEFINITION. The shared operations on a context: scalar registers (R23, R178, R215), tokens (R163), what ends or suspends an
instruction, taking a restartable trap (R331, R332) and returning from one (R334), the fatal stop (R336), abandonment (R338),
the save and the resumption of a context (R340 to R343). -/

namespace Sys2Proof.Machine

/-- An instruction's result: the next state, or what ended it instead. -/
abbrev Res := Except Raise State

/-- A wait behind which another may stand: the class that a head is in is the first whose cause holds (R356). -/
def behind (w : WaitClass) (r : Res) : Res :=
  match r with
  | .error (.wait v) => .error (.wait (w.first v))
  | _ => .error (.wait w)

/-- The cause `w` of a wait holds where `b` is true: it names the class of a head that waits for something later in the order of R356. -/
def alsoWaits (b : Bool) (w : WaitClass) (r : Res) : Res :=
  match r with
  | .error (.wait v) => .error (.wait (if b then v.first w else v))
  | .error e => .error e
  | .ok s => .ok s

/-! ### Scalar registers -/

/-- The context runs in handler mode (R333). -/
def Ctx.handler (c : Ctx) : Bool := c.trap.act || c.trap.emu

/-- A scalar register's value; s0 is zero, and a dead register reads as a free value in normal mode (R23, R215). -/
def readS (s : State) (c : Ctx) (r : BitVec 6) : Word :=
  if r = 0 then 0
  else
    let x := c.s[r.toFin]
    if x.dead && !c.handler then (Config.freeDead (s.free r.toNat)).setWidth 64 else x.val

/-- Writes a scalar register with a tag: s0 discards it, handler mode keeps the tag, and the written value is live and no longer
pending (R23, R178, R215, R333). -/
def writeS (c : Ctx) (r : BitVec 6) (w : Word) (k : Tag) (hand : Bool) : Ctx :=
  if r = 0 then c
  else
    let x := c.s[r.toFin]
    { c with s := c.s.set r.toFin { val := w, tag := if hand then x.tag else k, dead := false, pend := false } r.toFin.isLt }

/-- Writes a scalar register of the executing context at routing, under the instruction's clock. -/
def setS (s : State) (r : BitVec 6) (w : Word) (k : Tag) : State :=
  s.setMe (writeS s.me r w k s.me.handler)

/-- Marks scalar sources with a last-use bit dead, unless in handler mode (R215, R333). -/
def killS (c : Ctx) (l : List (BitVec 6 × Bool)) : Ctx :=
  if c.handler then c
  else l.foldl (fun c x => if x.2 && x.1 != 0 then
    { c with s := c.s.set x.1.toFin { c.s[x.1.toFin] with dead := true } x.1.toFin.isLt } else c) c

/-- Sets or clears the pending bit of a scalar register (R160). -/
def pendS (c : Ctx) (r : BitVec 6) (b : Bool) : Ctx :=
  if r = 0 then c else { c with s := c.s.set r.toFin { c.s[r.toFin] with pend := b } r.toFin.isLt }

/-- AUX of a clock fault: the first two operand tags (R337). (DEDUCED: log entry 20.) -/
def tagAux (l : List Tag) : BitVec 16 := 0#2 ++ (l.getD 1 0 : Tag) ++ (l.getD 0 0 : Tag)

/-- The CLOCK_MISMATCH fault over some operand tags. -/
def mismatch (l : List Tag) : Raise := .fatal .clockMismatch { aux := tagAux l }

/-- A BOUNDS fault at an address. -/
def boundsAt (a : Word) (lane : Nat := 0) : Raise := .fatal .bounds { addr := a, lane := BitVec.ofNat 10 lane }

/-- The tags of scalar sources other than s0, which adopts any clock (R178). -/
def scalarTags (c : Ctx) (l : List (BitVec 6)) : List Tag := (l.filter (· != 0)).map fun r => c.s[r.toFin].tag

/-- A scalar source is poisoned, and the fault that reading it raises (R350, R351). -/
def badS (c : Ctx) (l : List (BitVec 6)) : Bool := l.any fun r => r != 0 && c.s[r.toFin].bad
def regBad : Raise := .fatal .uncorrected { sub := 4 }

/-- The tags that a clock fault reports for scalar sources, in operand order: an untagged s0 reports 0 (R178, R337). -/
def reportTags (c : Ctx) (l : List (BitVec 6)) : List Tag := l.map fun r => if r = 0 then 0 else c.s[r.toFin].tag

/-- The checks on the scalar sources of a sequencer instruction that is not a control instruction: pending writes (R160), clock
tags (R178), dead marks (R215), in the order of R65. -/
def checkTagsS (c : Ctx) (k : Tag) (l : List (BitVec 6)) : Except Raise Unit :=
  if l.any fun r => r != 0 && c.s[r.toFin].pend then .error (.wait (.operand 0))
  else if !c.handler && (scalarTags c l).any (· != k) then .error (mismatch (reportTags c l))
  else if c.chk && !c.handler && l.any fun r => r != 0 && c.s[r.toFin].dead then .error (.fatal .deadRead {})
  else .ok ()

/-- Those checks, and UNCORRECTED of a poisoned source (R350), where no bounds and no translation stand between them (R65). -/
def checkS (c : Ctx) (k : Tag) (l : List (BitVec 6)) : Except Raise Unit :=
  match checkTagsS c k l with
  | .error e => .error e
  | .ok _ => if badS c l then .error regBad else .ok ()

/-- UNCORRECTED of a poisoned source, found once every other check of an access has been passed (R65, R350). -/
def lateBad (c : Ctx) (l : List (BitVec 6)) (r : Res) : Res :=
  match r with
  | .ok t => if badS c l then .error regBad else .ok t
  | .error e => .error e

/-- Poison of some registers leaves with a whole write. -/
def cleanRegs (c : Ctx) (l : List (RegFile × Nat)) : Ctx :=
  if c.badRegs.isEmpty then c else { c with badRegs := c.badRegs.filter (!l.contains ·) }

/-- The destination of a sequencer instruction must not be pending (R160). -/
def checkDest (c : Ctx) (d : BitVec 6) : Except Raise Unit :=
  if d != 0 && c.s[d.toFin].pend then .error (.wait (.operand 0)) else .ok ()

/-! ### Program counter and tokens -/

/-- Writes a loop counter. -/
def setLc (c : Ctx) (n : Nat) (w : Word) : Ctx :=
  if h : n < 6 then { c with lc := c.lc.set n w h } else c

/-- What happens where the program counter has arrived by falling through (R171): the most recently started loop, when this is its
end address, starts its next iteration or finishes, and then the next outer loop tests the same address. Once no reaction is active, STG,
ITER and B0 read 0. (DESIGN CHOICE: log entry 113.) -/
def loopTest : List LoopFrame → Ctx → Ctx
  | [], c => { c with loops := [] }
  | f :: rest, c =>
    if c.pc = f.fin then
      if 0 < f.left then
        let c := setLc c f.lc ((c.lc.toList.getD f.lc 0) + f.stride)
        let r := if f.react then { c.react with iter := c.react.iter + 1 } else c.react
        { c with pc := f.body, loops := { f with left := f.left - 1, done := f.done + 1 } :: rest, react := r }
      else
        let c := setLc (cleanRegs c [(.lc, f.lc)]) f.lc f.final
        loopTest rest { c with react := if f.react then {} else c.react }
    else { c with loops := f :: rest }

/-- The program counter falls through to the next word. (DEDUCED: log entry 26.) -/
def fallThrough (c : Ctx) (pc : Word) : Ctx := loopTest c.loops { c with pc := pc }

/-- Moves the executing context past the instruction word. -/
def advance (s : State) : State := s.setMe (fallThrough s.me (s.me.pc + 8))

/-- The FIFOs of R163 by index: 0 L→C, 1 C→L, 2 C→S, 3 S→C. -/
def tokAdd (c : Ctx) (i : Fin 4) (avail held : Int) : Ctx :=
  let f := c.tok[i]
  { c with tok := c.tok.set i ⟨((f.avail : Int) + avail).toNat, ((f.held : Int) + held).toNat, f.fresh⟩ }

/-- One push becomes a token: its reserved slot is one no longer, and no pop of this cycle sees it (R163). -/
def pushToken (c : Ctx) (i : Fin 4) : Ctx :=
  let f := c.tok[i]
  { c with tok := c.tok.set i ⟨f.avail + 1, f.held - 1, f.fresh + 1⟩ }

/-- Makes pushes available at a completion: their reserved slots become tokens (R163). -/
def pushTokens (c : Ctx) (l : List (Fin 4)) : Ctx := l.foldl pushToken c

/-- The pushes of entry `id` at its completion: those of one that was routed before the entries were set aside go to the FIFOs that stand aside with
them (R340). -/
def pushFor (c : Ctx) (id : Nat) (l : List (Fin 4)) : Ctx :=
  match c.asideTok with
  | some f => if id < c.asideAt then { c with asideTok := some (pushTokens { c with tok := f } l).tok } else pushTokens c l
  | none => pushTokens c l

/-- The FIFOs as a save holds them: those set aside, with what a hook has left in its own (R340). (DEDUCED: log entry 119.) -/
def joinTokens (c : Ctx) : Ctx :=
  match c.asideTok with
  | some f => { c with tok := Vector.ofFn fun i => ⟨f[i].avail + c.tok[i].avail, f[i].held + c.tok[i].held, 0⟩, asideTok := none }
  | none => c

/-- A new cycle: the tokens that the last one brought are seen (R163). -/
def seeTokens (c : Ctx) : Ctx := { c with tok := c.tok.map fun f => { f with fresh := 0 } }

/-! ### Channels of an abandoned context, abandonment (R338) -/

/-- Abandons every instant of a context that has opened and not committed (R338). -/
def abandon (s : State) (c : CtxId) : State :=
  let x := s.cx c
  if x.instants.isEmpty && x.commits.isEmpty then s
  else
    let d' := x.d.map fun r => { r with valid := false }
    let g' := x.g.map fun g => { g with ctr := g.cctr }
    let x' := { x with commits := [], instants := [], iopen := false, d := d', g := g' }
    let pendingClose (p : Port) : Bool := match p.chan with
      | some n =>
        let ch := s.chan ⟨x.pid, n⟩
        ch.marks.any (·.close) || (Chan.pendingTransit ch ++ ch.away).any (·.close)
      | none => false
    let x' := { x' with port := x.port.map fun p =>
      if p.write then { p with pending := 0, closed := p.closed && !pendingClose p } else p }
    x.port.toList.foldl (fun s p => match p.chan with
      | some n => if p.write then abandonChan s ⟨x.pid, n⟩ else s
      | none => s) (s.setCx c x')

/-! ### Work already issued -/

/-- Poisons a scalar register (R351). -/
def poisonS (c : Ctx) (r : BitVec 6) : Ctx :=
  if r = 0 then c else { c with s := c.s.set r.toFin { c.s[r.toFin] with bad := true } r.toFin.isLt }

/-- Delivers a scalar-destination load, with its status register and tokens (R163). -/
def deliverS (c : Ctx) (l : Load) : Ctx :=
  let c := match l.dest with
    | .s r => if l.bad = 0 then writeS c r l.val.toNat l.tag l.hand else poisonS (writeS c r l.val.toNat l.tag l.hand) r
    | _ => c
  let c := match l.stat with
    | some (r, w) => writeS c r w l.tag l.hand
    | none => c
  pushFor c l.id l.push

/-- The words that a command of the matrix unit works on, some of them poisoned. -/
def RowWork.poisoned (s : State) (cell : Nat) (w : RowWork) : Bool := s.anyBad (accKey cell (4 * w.a)) (4 * w.n)

/-- Reads the accumulator words of a row and computes what will be written there (R291, R292). -/
def RowWork.read (s : State) (cell : Nat) (w : RowWork) : RowWork :=
  let old := (List.range w.n).map fun j => s.rawNat (accKey cell (4 * (w.a + j))) 4
  { w with rd := none, data := if w.cb.isEmpty then old else (old.zip w.cb).map fun (o, c) => dot w.np o (w.ra.zip c) }

/-- Writes a row. -/
def RowWork.write (s : State) (cell : Nat) (w : RowWork) : State :=
  let l := State.at' (accKey cell (4 * w.a)) (w.data.flatMap (leBytes 4))
  s.write l (if w.bad then l.map (·.1) else [])

/-- Writes a vector register: value, tag, live, clean (R178, R215, R333). -/
def writeV (c : Ctx) (r : BitVec 5) (w : Vec) (k : Tag) (hand : Bool) (bad : BitVec 64 := 0) : Ctx :=
  let x := c.v[r.toFin]
  { c with v := c.v.set r.toFin { val := w, tag := if hand then x.tag else k, dead := false, bad := bad } r.toFin.isLt }

/-- The destination of a completed ACCRD receives the words that it read, and a completed command's tokens are pushed (R163, R292). -/
def engineDone (c : Ctx) (k : EngCmd) : Ctx :=
  let c := match k.dest with
    | some r => writeV c r (BitVec.ofNat 4096 (leNat ((k.work.flatMap (·.data)).flatMap (leBytes 4)))) k.tag k.hand
    | none => c
  pushFor c k.id k.push

/-- A remote access that completes with an error status (R30). -/
def ScalarRet.fails (s : State) (r : ScalarRet) : Bool := r.remote && Config.freeRemoteFails (s.free r.addr.toNat)

/-- Completes what has issued and can no longer wait: scalar returns, one that fails without its destination, and scalar loads; the others' data has
landed. -/
def settle (s : State) (c : CtxId) : State :=
  let x := s.cx c
  let x := x.scalars.foldl (fun x r => match r.dest with
    | some d => if r.fails s then x else writeS x d r.val r.tag r.hand
    | none => x) { x with scalars := [] }
  let isS (l : Load) : Bool := match l.dest with
    | .s _ => true
    | _ => false
  let x := (x.loads.filter isS).foldl deliverS x
  s.setCx c { x with loads := (x.loads.filter (!isS ·)).map fun l => { l with landed := true } }

/-- A command of the matrix unit that the context has issued has not completed, or a nest waits to be reissued. -/
def engineBusy (s : State) (c : CtxId) : Bool := (s.cell c.cell).engine.any (·.slot == c.slot) || (s.cx c).reissue.isSome

/-- A nest that has written its last row: its tiles carry its tag (R295, R333), and its tokens are pushed. -/
def nestDone (x : Ctx) (run : NestRun) (push : List (Fin 4)) : Ctx :=
  let tile (x : Ctx) (d : BitVec 32) : Ctx :=
    let t : BitVec 3 := fld d 0 3
    let r := x.t[t.toFin]
    if d.getLsbD 3 then x
    else { x with t := x.t.set t.toFin { r with tag := if run.ent.hand then r.tag else run.tag, dead := false } t.toFin.isLt }
  pushFor (tile (tile x run.cfg.aoper) run.cfg.boper) run.cmd push

/-- Takes the nest of a context off its cell, with its command, between two iterations (R298, R340). A nest that waits to be reissued is taken as it is. -/
def takeNest (s : State) (c : CtxId) : State × Option (NestRun × EngCmd) :=
  let cell := s.cell c.cell
  let s' := s.setCell c.cell { cell with
    nest := cell.nest.filter (·.slot != c.slot), engine := cell.engine.filter fun e => e.slot != c.slot || !e.isNest }
  match cell.nest.filter (·.slot == c.slot), cell.engine.find? fun e => e.slot == c.slot && e.isNest with
  | some run, some cmd => (s', some (run, { cmd with work := [], runs := [], held := false }))
  | _, _ => (s'.setCx c { s'.cx c with reissue := none }, (s.cx c).reissue)

/-- The bits of `b` that `m` selects over `old`. -/
def merge (old b m : Byte) : Byte := (old &&& ~~~m) ||| (b &&& m)

/-- The written bytes of a store by key, a later write of the same key over an earlier one. -/
def combine : List (Nat × Byte × Byte) → List (Nat × Byte × Byte) → List (Nat × Byte × Byte)
  | [], acc => acc
  | (k, b, m) :: l, acc =>
    let x := (find? acc k).getD (0, 0)
    combine l (put acc k (merge x.1 b m, x.2 ||| m))

/-- Performs masked bytes: whole bytes first, so that a whole word clears its poison (R40), then those written in part. -/
def perform (s : State) (cells : List (Nat × Byte × Byte)) : State :=
  let l := combine cells []
  let s := s.write ((l.filter fun x => x.2.2 == 0xFF).map fun x => (x.1, x.2.1))
  s.write ((l.filter fun x => x.2.2 != 0xFF).map fun x => (x.1, merge (s.byte x.1) x.2.1 x.2.2))

/-- Performs the stores of a context that hold forwarding-table entries (R143). -/
def flushStores (s : State) (c : CtxId) : State :=
  let x := s.cx c
  let s := x.stores.foldl (fun s st => perform s st.cells) s
  let x := x.stores.foldl (fun x st => pushFor x st.id st.push) { x with stores := [] }
  s.setCx c x

/-! ### The save area (R340, R341) -/

/-- Writes bytes into the save area page by page through the context's translation; the first failing walk stops it. -/
def areaWrite (s : State) (c : CtxId) : List (Word × Nat) → List (Byte × Bool) → Except (Word × WalkFail × State) State
  | [], _ => .ok s
  | (va, n) :: l, bs =>
    match translate s c va .write with
    | .error f => .error (va, f, s)
    | .ok leaf =>
      areaWrite (writeLeaves s [(leaf, n)] (bs.take n)) c l (bs.drop n)

/-- Bytes of a run of flat keys, each with its poison. -/
def regionBytes (s : State) (r : Nat × Nat) : List (Byte × Bool) :=
  (List.range r.2).map fun i => (s.byte (r.1 + i), s.bad (r.1 + i))

/-- No other context is resident on the cell. -/
def alone (s : State) (c : CtxId) : Bool := s.ctxs.all fun x => x.1.cell != c.cell || x.1 == c

/-- The save of R340 step 4: control state and registers, and the cell image when every context of the cell is being saved
(R342). The image goes into the area of the lowest saved slot. -/
def writeArea (s : State) (c : CtxId) (imageAt : Option Word) : Except (Word × WalkFail × State) State :=
  let x := s.cx c
  let body := saveBytes x s.fresh
  match areaWrite s c (piecesOf (x.preArea + 0x40) body.length) body with
  | .error e => .error e
  | .ok s => match imageAt with
    | none => .ok s
    | some base =>
      let img := (imageKeys c.cell).flatMap (regionBytes s)
      areaWrite s c (piecesOf (base + 0x1C000) img.length) img

/-! ### Launch bookkeeping -/

/-- Whether a launch has placed all its groups and every context of it has drained (R187). -/
def launchDrained (s : State) (l : Launch) : Bool :=
  (match l.groups with
   | some g => g ≤ l.placed
   | none => false) &&
  s.ctxs.all (fun x => x.2.pid != l.pid || x.2.seq != l.seq) &&
  s.saved.all (fun x => x.2.ctx.pid != l.pid || x.2.ctx.seq != l.seq) &&
  s.cells.all (fun x => x.2.tracker.all fun t => match t with
    | .copy _ p q => p != l.pid || q != l.seq
    | .stores p q _ _ _ => p != l.pid || q != l.seq)

/-- Withdraws the held arrivals of a context: it waits at BAR.ARRIVE no longer (R152). -/
def withdraw (s : State) (c : CtxId) : State :=
  { s with bars := s.bars.map fun (k, b) => (k, { b with ha := b.ha.filter (· != c) }) }

/-- Ends the grants of barriers whose last using launch has retired; the state stays for the next grant (R151, R322). -/
def releaseBars (s : State) (pid seq : Nat) : State :=
  { s with bars := s.bars.map fun (k, b) =>
      if b.owner = some pid then (k, { b with users := b.users.filter (· != seq) }) else (k, b) }

/-- Marks retired every launch that has drained (R187). -/
def retireLaunches (s : State) : State :=
  let done := s.launches.filter fun l => l.phase == .running && launchDrained s l
  let s := { s with launches := s.launches.map fun l => if done.contains l then { l with phase := .retired } else l }
  done.foldl (fun s l => releaseBars s l.pid l.seq) s

/-! ### Fatal context errors (R336) -/

/-- In-flight copies and stores of a context go to the retirement tracker (R186, R336). (DEDUCED: log entry 52.) -/
def toTracker (s : State) (c : CtxId) : State :=
  let x := s.cx c
  let mine := s.copies.filter fun k => k.ctx == c && !k.orphan
  let cell := s.cell c.cell
  let t := mine.map (fun k => Track.copy k.id x.pid x.seq) ++
    (if x.stores.isEmpty && x.scalars.isEmpty then [] else [Track.stores x.pid x.seq c.slot x.stores x.scalars])
  let orphaned (k : CopyOp) : CopyOp := if k.ctx == c && !k.orphan then { k with orphan := true, push := [] } else k
  let s := { s with copies := s.copies.map orphaned }
  (s.setCx c { x with stores := [], scalars := [] }).setCell c.cell { cell with tracker := cell.tracker ++ t }

/-- Removes a context from its slot. -/
def removeCtx (s : State) (c : CtxId) : State := withdraw { s with ctxs := drop s.ctxs c } c

/-- The context of the other slot that is pinned to a cell (R342). -/
def pinnedAt (s : State) (cell : Nat) : Option (CtxId × Saved) := s.saved.find? fun v => v.1.cell == cell && v.2.pinned

/-- Where the cell image goes when the last context of a cell is saved (R342): into the area of the lowest saved slot. It stays on the cell
while another context is resident or a context of another partition is pinned. -/
def imageArea (s : State) (c : CtxId) : Option Word :=
  let x := s.cx c
  if !alone s c then none
  else match pinnedAt s c.cell with
    | none => some x.preArea
    | some (i, v) => if v.ctx.pid != x.pid then none else some (if i.slot < c.slot then v.ctx.preArea else x.preArea)

/-- The cell image as data, and its poison. (DEDUCED: log entry 78.) -/
def takeImage (s : State) (cell : Nat) : List Host.Cell × List Nat :=
  let inImg (k : Nat) : Bool := (imageKeys cell).any fun r => r.1 ≤ k && k < r.1 + r.2
  (s.mem.filter fun x => inImg x.1, s.poison.filter inImg)

/-- The cell image leaves with the last context of the cell that stops: a context that was pinned there is no longer pinned and holds it
(R342). -/
def leaveImage (s : State) (cell : Nat) : State :=
  let (img, bad) := takeImage s cell
  { s with saved := s.saved.map fun (i, v) =>
      if i.cell = cell ∧ v.pinned then (i, { v with pinned := false, batch := s.fresh, image := true, img := img, imgBad := bad }) else (i, v) }

/-- The end of a fatal stop (R336 steps 5 to 7): the save, without the hook and not resumable, and the fault record as far as the area's walks
allow; the ports unbind, the slot is free, and the host is told (R378). -/
def finishStop (s : State) (c : CtxId) (r : Stopped) : State :=
  let x := s.cx c
  let image := imageArea s c
  let s := match writeArea s c image with
    | .error (_, _, s) => s
    | .ok s =>
      let rec' := leBytes 64 (faultRecord r.pc r.word r.code.num r.info r.nested r.abandoned).toNat
      match areaWrite s c (piecesOf x.preArea 64) (rec'.map (·, false)) with
      | .error (_, _, s) => s
      | .ok s => s
  let s := if image.isSome && (pinnedAt s c.cell).isSome then leaveImage s c.cell else s
  let s := unbindAll s c
  let p := s.part x.pid
  let s := if p.replaying && r.code == .uncorrected then s.setPart x.pid { p with broken := true } else s
  let s := hostEvent s x.pid 1 r.code.num c.cell c.slot x.seq
  retireLaunches (removeCtx s c)

/-- The fatal stop of a context (R336): entries that have not issued are discarded, those that have complete, instants are abandoned, copies and
stores go to the tracker, and the save follows once every command of the matrix unit that has issued has run to its end in its own schedule (R42).
(DEDUCED: log entry 99.) -/
def fatalStop (s : State) (c : CtxId) (pc word : Word) (code : Code) (i : Info) (nested : Bool := false) (it : Option Iteration := none) : State :=
  let x := s.cx c
  let abandoned := !x.instants.isEmpty
  let it := it.getD (if pc = 0 then {} else iterationOf x (fld word 53 7))
  let pay : BitVec 256 := 0#80 ++ i.aux ++ 0#6 ++ i.lane ++ 0#5 ++ i.level ++ i.sub ++ word ++ i.addr
  let s := trace s c 4 it code.num pc pay
  let s := settle (s.setCx c { x with qL := [], qC := [], qS := [], aside := ([], [], []) }) c
  let s := toTracker (abandon s c) c
  let r : Stopped := ⟨pc, word, code, i, nested, abandoned⟩
  if engineBusy s c then
    s.setCx c { s.cx c with phase := .dying, stopped := some r, waiting := none }
  else finishStop s c r

/-! ### Restartable traps (R331 to R334) -/

/-- TRAP.CAUSE (R330). -/
def causeWord (code : Code) (i : Info) : Word := 0#45 ++ i.level ++ i.sub ++ code.num

/-- TAKING A RESTARTABLE TRAP (R331, R332): saves where TRET resumes, the code with its sub-cause, the address and the word, sets
ACT (and PREH for PREEMPT), suspends the active loops and routes on at TRAP.BASE + 64 × code. -/
def enterTrap (s : State) (c : CtxId) (epc word : Word) (code : Code) (i : Info) : State :=
  let x := s.cx c
  let base : Word := (0#8 ++ (fld x.trap.base 10 46 : BitVec 46) ++ 0#10)
  let t := { x.trap with epc := epc &&& ~~~7#64, cause := causeWord code i, addr := i.addr, info := word, act := true,
                         preh := code == .preempt }
  let s := s.setCx c { x with
    trap := t, pc := base + 64 * zx code.num, suspended := x.loops, loops := [], suspReact := x.react, waiting := none }
  trace s c 3 (if code == .preempt then {} else iterationOf x (fld word 53 7)) code.num (if code == .preempt then 0 else x.pc)
    (0#128 ++ word ++ i.addr)

/-- A restartable trap raised by a sequencer instruction at `pc` (R332, R333): the handler, or what an unhandled or a nested
trap does. TRAP resumes after its word; an unhandled BKPT is a forced pre-emption at its own address. -/
def takeTrap (s : State) (c : CtxId) (word : Word) (code : Code) (i : Info) : State :=
  let x := s.cx c
  let s := if code == .probeFault then annot s c 1 x.pc i.sub.toNat (iterationOf x (fld word 53 7)) else s
  if x.trap.act || x.trap.emu then fatalStop s c x.pc word code i true
  else if x.trap.base.getLsbD 0 then
    enterTrap s c (if code == .trap then x.pc + 8 else x.pc) word code i
  else if code == .bkpt then
    let t := { x.trap with epc := x.pc, cause := causeWord code i, addr := 0, info := word }
    s.setCx c { x with trap := t, saveNow := true, forcedSub := 1, waiting := none, aside := (x.qL, x.qC, x.qS), qL := [], qC := [],
                       qS := [] }
  else fatalStop s c x.pc word code i

/-- EMULATION (R335): TRAP.INFO, ADDR, EPC and CODE written, EMU set, and the resident routine of the word's opcode runs. Raised in
a resident routine it stops the context (R333). Where the configuration image supplies no routine, firmware's own handler stops the context
with ILLEGAL_OPCODE at the word, as for the unpublished profiles 7 to 15 (R210). (DEDUCED: log entry 18.) -/
def takeEmulation (s : State) (c : CtxId) (pc word : Word) (present : Bool) : State :=
  let x := s.cx c
  if x.trap.emu then fatalStop s c pc word .emulation {} true
  else
    let t := { x.trap with epc := pc + 8, cause := 0, addr := pc, info := word, emu := true }
    let s := trace (s.setCx c { x with
      trap := t, emuWord := word, emuPresent := present, waiting := none, emuLoops := x.loops, emuReact := x.react, loops := [] }) c 3
      (iterationOf x (fld word 53 7)) 0 pc (0#128 ++ word ++ pc)
    match find? s.dev.routines (fld word 45 8) with
    | some start => s.setCx c { s.cx c with pc := BitVec.ofNat 64 start }
    | none => fatalStop s c pc word .illegalOpcode {}

/-! ### What an instruction's result does -/

/-- Applies what ended an instruction of a context at `pc` with word `word` (R331, R336): a wait leaves all as it is but for the
class that the head waits in (R356). `it` is the iteration of an entry of a queue (R363). -/
def raised (s : State) (c : CtxId) (pc word : Word) (r : Raise) (it : Option Iteration := none) : State :=
  match r with
  | .fatal code i => fatalStop s c pc word code i false it
  | .trap .emulation i => takeEmulation s c pc word (i.sub != 0)
  | .trap code i => takeTrap s c word code i
  | .wait w => s.setCx c { s.cx c with waiting := some w }

/-- The word of an instruction, for the registers and records that report it. -/
def wordOf (i : Instr) : Word := (encode i).getD 0

/-- The outcome of a sequencer instruction: no instruction stops the device. -/
def finish (s : State) (i : Instr) (r : Res) : Host.Outcome State Fault Refusal :=
  match r with
  | .ok t => .next (t.setMe { t.me with waiting := none })
  | .error e => .next (raised s s.cur s.me.pc (wordOf i) e)

/-! ### Saving and resuming (R340 to R343) -/

/-- The iteration of the next instruction of a context in routing order, which the records of a save name (R363): its clock stands in its word. -/
def nextIteration (s : State) (c : CtxId) : Iteration :=
  let x := s.cx c
  let word (bs : List (Byte × Bool)) : Word := BitVec.ofNat 64 (leNat (bs.map (·.1)))
  let w := if x.trap.emu then word (s.hbmRead 0 x.pc.toNat 8)
    else match readVirt s c .fetch x.pc 8 with
      | .ok bs => word bs
      | .error _ => 0
  iterationOf x (fld w 53 7)

/-- Endpoints of a context become resident or not; the unit of a channel it reads writes its state back when it leaves (R101,
R106). -/
def setResident (s : State) (c : CtxId) (b : Bool) : State :=
  let x := s.cx c
  x.port.toList.foldl (fun s p => match p.chan with
    | none => s
    | some n =>
      let i : ChanId := ⟨x.pid, n⟩
      let ch := s.chan i
      if p.write then s
      else
        let s := s.setChan i { ch with reader := ch.reader.map ({ · with resident := b }), spill := !b || ch.spill }
        if b then settleSpill s i else writeBack s i) s

/-- Puts a cell image back. -/
def putImage (s : State) (cell : Nat) (img : List Host.Cell) (bad : List Nat) : State :=
  let inImg (k : Nat) : Bool := (imageKeys cell).any fun r => r.1 ≤ k && k < r.1 + r.2
  { s with mem := Memory.setAll (s.mem.filter fun x => !inImg x.1) img,
           poison := bad.foldl Poison.add (s.poison.filter fun k => !inImg k) }

/-- The save of a context (R340 steps 3 to 5, R342): work that has issued completes, copies become resume records, the area is
written, channel state is written back, the context leaves its slot. `sub` is 0 at an instant boundary and 1 when forced. (DEDUCED: log entry 77.) -/
def saveCtx (s : State) (c : CtxId) (sub : BitVec 8) (watchdog stop : Bool := false) : State :=
  let x := s.cx c
  let s := flushStores (settle s c) c
  let (s, nest) := takeNest s c
  let y := s.cx c
  let (al, ac, as') := y.aside
  let y := { joinTokens y with
    qL := al ++ y.qL, qC := ac ++ y.qC, qS := as' ++ y.qS, aside := ([], [], []), saveNow := false,
    forced := false, afterTret := false, waiting := none, trap := { y.trap with pend := false } }
  let s := s.setCx c y
  let it := nextIteration s c
  let image := imageArea s c
  match writeArea s c image with
  | .error (va, f, s) => match walkFault va f with
    | .fatal code i => fatalStop (s.setCx c { s.cx c with reissue := nest }) c x.pc 0 code i
    | _ => s
  | .ok s =>
    let s := if stop then trace s c 9 it 0 x.pc else annot (trace s c 5 it sub x.pc) c 2 0 0
    let s := emptyTlbs (setResident s c false) c
    let copies := s.copies.filter fun k => k.ctx == c && !k.orphan
    let sv : Saved := { ctx := s.cx c, copies := copies, nest := nest.map (·.1), nestCmd := nest.map (·.2), forWatchdog := watchdog }
    let left (v : CtxId × Saved) : CtxId × Saved :=
      if image.isSome && v.1.cell == c.cell && v.2.pinned then (v.1, { v.2 with pinned := false, batch := s.fresh }) else v
    let (img, bad) := takeImage s c.cell
    let sv := if image.isSome then { sv with pinned := false, batch := s.fresh, image := true, img := img, imgBad := bad } else sv
    removeCtx { s with copies := s.copies.filter (fun k => k.ctx != c || k.orphan), saved := s.saved.map left ++ [(c, sv)] } c

/-- A context stops routing and issuing for a save: its entries are set aside, with its token FIFOs (R340 step 1). What the save will be is
remembered. -/
def setAside (x : Ctx) (sub : BitVec 8) (watchdog stop : Bool) : Ctx :=
  { x with aside := (x.qL, x.qC, x.qS), qL := [], qC := [], qS := [],
           asideTok := some x.tok, tok := .replicate 4 {}, asideAt := x.nextId, forcedSub := sub, forced := watchdog, stopSave := stop,
           afterTret := false, waiting := none, trap := { x.trap with pend := false } }

/-- The PREEMPT hook would run, were it handled (R340). -/
def Ctx.hooked (x : Ctx) : Bool := x.trap.hook && !x.trap.act && !x.trap.emu

/-- The address that a copy's next byte goes to: its virtual address outbound, otherwise its near side; an accumulator word has four bytes. A
strided copy counts on its contiguous side (R93). -/
def CopyOp.dest (k : CopyOp) : Nat :=
  (if k.kind = .xaddw then 4 * k.near else if k.kind = .xout && k.strm.isNone then k.va.toNat else k.near) + k.done

/-- Every copy of the context stands at a 512-byte boundary of its destination, or has not begun (R340). -/
def copiesStand (s : State) (c : CtxId) : Bool :=
  s.copies.all fun k => k.ctx != c || k.orphan || k.done == 0 || k.dest % 512 == 0

/-- What the context has issued has come to where the save takes it (R340 step 3): its copies stand, its scalar accesses have returned, its commands of the
matrix unit have completed, and its nest stands between two iterations (R298). -/
def still (s : State) (c : CtxId) : Bool :=
  let q := s.cell c.cell
  copiesStand s c && (s.cx c).scalars.isEmpty &&
    q.engine.all fun k => k.slot != c.slot || (k.isNest && k.work.isEmpty && q.nest.any fun r => decide (r.next < r.total))

/-- The save goes on once what has issued has come to its point (R340 step 3). -/
def saveWhenStill (s : State) (c : CtxId) : State :=
  let x := s.cx c
  if still s c then saveCtx s c x.forcedSub x.forced x.stopSave else s

/-- Begins a pre-emption (R340 steps 1 and 2): the entries are set aside and the PREEMPT hook runs when it is enabled, otherwise
the save follows. Without a handler the trap registers still say what the hook would have found (R332). -/
def beginPreempt (s : State) (c : CtxId) (sub : BitVec 8) (useHook : Bool := true) (watchdog stop : Bool := false) : State :=
  let x := s.cx c
  if useHook && x.hooked && x.trap.base.getLsbD 0 then
    enterTrap (s.setCx c (setAside x sub watchdog stop)) c x.pc 0 .preempt { sub := sub }
  else
    let y := setAside x sub watchdog stop
    let t := if useHook && x.hooked then
        { y.trap with epc := x.pc, cause := causeWord .preempt { sub := sub }, addr := 0, info := 0 } else y.trap
    saveWhenStill (s.setCx c { y with trap := t, saveNow := true }) c

/-- Empties the instruction cache of a cell (R398). -/
def emptyIcache (s : State) (cell : Nat) : State := s.setCell cell { s.cell cell with icache := [], emptied := s.past.length }

/-- Puts back the cell image that was saved with a context, before the first context of that save resumes (R342, R343): the others are
then pinned. -/
def restoreImage (s : State) (cell batch : Nat) : State :=
  let mine (v : CtxId × Saved) : Bool := v.1.cell == cell && !v.2.pinned && v.2.batch == batch
  let s := match s.saved.find? fun v => mine v && v.2.image with
    | some (_, v) => putImage s cell v.img v.imgBad
    | none => s
  { s with saved := s.saved.map fun v =>
      if mine v then (v.1, { v.2 with pinned := true, image := false, img := [], imgBad := [] }) else v }

/-- A saved context can resume (R343): its slot is free, and both slots of its cell where the cell image has to come back. -/
def canResume (s : State) (c : CtxId) (v : Saved) : Bool :=
  !s.resident c && (v.pinned ||
    (!s.resident ⟨c.cell, 1 - c.slot⟩ && (pinnedAt s c.cell).isNone))

/-- The saved context of a slot that resumes next. -/
def resumable (s : State) (c : CtxId) : Option Saved :=
  (s.saved.find? fun v => v.1 == c && (v.2.resume || v.2.forWatchdog) && canResume s c v.2).map (·.2)

/-- Resumption of a saved context (R343): the cell image, then its own state; its copies are re-issued as their remainders; it is
a quiescent point and the cell's instruction cache is emptied (R398). -/
def resumeCtx (s : State) (c : CtxId) : State :=
  match resumable s c with
  | none => s
  | some sv =>
    let s := { s with saved := s.saved.erase (c, sv) }
    let s := if sv.pinned then s
      else if sv.image then restoreImage (putImage s c.cell sv.img sv.imgBad) c.cell sv.batch
      else restoreImage s c.cell sv.batch
    let s := { s with copies := s.copies ++ sv.copies.map fun (k : CopyOp) => { k with held := [] } }
    let again := match sv.nest, sv.nestCmd with
      | some r, some k => some (r, k)
      | _, _ => none
    let s := s.setCx c { sv.ctx with reissue := again }
    let s := quiesce (setResident (emptyIcache s c.cell) c true) c
    trace s c 5 (nextIteration s c) 2 sv.ctx.pc

/-- The destination that a configuration image declares for an extension opcode (R231) receives the word's clock. (DEDUCED: log entry 103.) -/
def emuTagsExt (l : List (BitVec 8 × ExtDest)) (x : Ctx) : Ctx :=
  let k : Tag := fld x.emuWord 53 7
  match find? l (fld x.emuWord 45 8) with
  | none => x
  | some .s =>
    let r : BitVec 6 := fld x.emuWord 39 6
    if r = 0 then x else { x with s := x.s.set r.toFin { x.s[r.toFin] with tag := k } r.toFin.isLt }
  | some .v =>
    let r : BitVec 5 := fld x.emuWord 39 5
    { x with v := x.v.set r.toFin { x.v[r.toFin] with tag := k } r.toFin.isLt }
  | some .t =>
    let r : BitVec 3 := fld x.emuWord 39 3
    { x with t := x.t.set r.toFin { x.t[r.toFin] with tag := k } r.toFin.isLt }

/-- The tags that a resident routine's return writes for the word it reproduced (R335): the vector of VRSUM, the group of VSCAN,
the tiles of MGO. -/
def emuTags (ext : List (BitVec 8 × ExtDest)) (x : Ctx) : Ctx :=
  let w := x.emuWord
  let k : Tag := fld w 53 7
  let op := (fld w 45 8 : BitVec 8).toNat
  let retagV (x : Ctx) (r : Nat) : Ctx :=
    if h : r < 32 then { x with v := x.v.set r { x.v[r] with tag := k } h } else x
  let retagT (x : Ctx) (r : BitVec 3) : Ctx :=
    { x with t := x.t.set r.toFin { x.t[r.toFin] with tag := k } r.toFin.isLt }
  let d := (fld w 39 5 : BitVec 5).toNat
  if !x.emuPresent || x.trap.act then x
  else if 0xE0 ≤ op then emuTagsExt ext x
  else if op = 0x86 then retagV x d
  else if op = 0x87 then
    let n := match ElemType.ofCode (fld w 20 4) with
      | some ty => 32 / ty.width
      | none => 1
    (List.range n).foldl (fun x i => retagV x (d + i)) x
  else if op = 0xA3 then
    let tile (x : Ctx) (o : BitVec 32) : Ctx := if o.getLsbD 3 then x else retagT x (fld o 0 3)
    tile (tile x x.nest.aoper) x.nest.boper
  else x

/-- RETURN FROM A HANDLER (R334, R335): from a resident routine first, which falls through to the word after the one that it reproduced; then from the PREEMPT hook into the save, then from a trap
handler. -/
def trapReturn (s : State) (c : CtxId) : State :=
  let x := s.cx c
  let t := x.trap
  let saved := x.emuLoops
  if t.emu then
    s.setCx c (emuTags s.dev.extDests { x with
      trap := { t with emu := false }, pc := t.epc, loops := [], emuLoops := [], react := x.emuReact, emuReact := {},
      afterTret := t.pend && !t.act } |> fun x => loopTest saved x)
  else if t.preh then
    s.setCx c { x with
      trap := { t with preh := false, act := false }, pc := t.epc, loops := x.suspended, suspended := [], react := x.suspReact, suspReact := {},
      saveNow := true }
  else
    s.setCx c { x with
      trap := { t with act := false }, pc := t.epc, loops := x.suspended, suspended := [], react := x.suspReact, suspReact := {}, afterTret := t.pend }

end Sys2Proof.Machine
end

