-- ==== Sys2Proof/Machine/Flags.lean ====
section
/-! DEFINITION. Presence of clocks (R176, R177, R180), the check of R181, and whether an instruction runs, is discarded or
performs its tokens alone (R64, R179). -/

namespace Sys2Proof.Machine

/-- A clock is lazy when it is an ON or ONNOT clock or depends on one (R177). -/
def isLazy (c : Ctx) : Nat → Tag → Bool
  | 0, _ => false
  | n + 1, k =>
    match c.clk[k.toFin].cur with
    | .undef => false
    | .on _ _ | .onnot _ _ => true
    | .every p _ _ => isLazy c n p
    | .union p q => isLazy c n p || isLazy c n q

/-- Presence of a stage clock k(111 + s) in iteration j: s ≤ S and 1 ≤ j − s + 1 ≤ N (R180). -/
def stagePresent (r : React) (k : Tag) : Bool :=
  let st := k.toNat - 111
  r.act && st ≤ r.stg + 1 && st ≤ r.iter && r.iter - st + 1 ≤ r.n

/-- Records the presence that is fixed for the instant (R177). -/
def fixClock (c : Ctx) (k : Tag) (b : Bool) : Ctx :=
  { c with clk := c.clk.set k.toFin { c.clk[k.toFin] with known := true, present := b } k.toFin.isLt }

/-- Bit 0 of a condition's scalar register; a dead one reads as a free value in normal mode (R215). (DESIGN CHOICE: log entry 7.) -/
def condBit (c : Ctx) (r : BitVec 6) : Bool :=
  let x := c.s[r.toFin]
  if r = 0 then false
  else if x.dead && !c.handler then
    (Config.freeDead (((((c.pid * 2 ^ 32 + c.seq) * 2 ^ 64 + c.pc.toNat) * 2 ^ 64 + c.basei.toNat) * 64 + r.toNat) * 2 ^ 64 + 2 ^ 63)).getLsbD 0
  else x.val.getLsbD 0

/-- Evaluates the presence of a clock on the current instant, with every clock that it depends on; each presence found is fixed
for the instant. A condition with another tag than the parent's raises CLOCK_MISMATCH, and a pending one waits (R177); a dead one raises DEAD_READ
in checked mode (R215). (DEDUCED: log entry 23.) -/
def evalClock : Nat → Ctx → Tag → Except Raise (Bool × Ctx)
  | 0, c, _ => .ok (false, c)
  | n + 1, c, k =>
    if k = 0 then .ok (true, c)
    else if !c.iopen then .ok (false, c)
    else if 112 ≤ k.toNat then .ok (stagePresent c.ireact k, c)
    else
      let q := c.clk[k.toFin]
      if q.known then .ok (q.present, c)
      else
        let cond (p : Tag) (r : BitVec 6) (want : Bool) : Except Raise (Bool × Ctx) :=
          match evalClock n c p with
          | .error e => .error e
          | .ok (false, c) => .ok (false, fixClock c k false)
          | .ok (true, c) =>
            if r != 0 && c.s[r.toFin].pend then .error (.wait (.operand 0))
            else if r != 0 && !c.handler && c.s[r.toFin].tag != p then .error (mismatch [c.s[r.toFin].tag])
            else if r != 0 && c.chk && !c.handler && c.s[r.toFin].dead then .error (.fatal .deadRead {})
            else if badS c [r] then .error regBad
            else
              let b := condBit c r == want
              .ok (b, fixClock c k b)
        match q.cur with
        | .undef => .ok (false, fixClock c k false)
        | .every p m ph =>
          match evalClock n c p with
          | .error e => .error e
          | .ok (pp, c) =>
            let i := (clockInstant c k).toNat
            let b := pp && decide (ph.toNat ≤ i) && (i - ph.toNat) % m.toNat == 0
            .ok (b, fixClock c k b)
        | .on p r => cond p r true
        | .onnot p r => cond p r false
        | .union p r =>
          match evalClock n c p with
          | .error e => .error e
          | .ok (a, c) => match evalClock n c r with
            | .error e => .error e
            | .ok (b, c) =>
              let v := (clockRoot c k).isSome && (a || b)
              .ok (v, fixClock c k v)

/-- Presence of a clock for an instruction being routed. -/
def presence (c : Ctx) (k : Tag) : Except Raise (Bool × Ctx) := evalClock 128 c k

/-- Brings the new definitions into effect and evaluates every clock that is not lazy, in ascending index (R173, R177). -/
def settleClocks (c : Ctx) : Ctx :=
  let fresh (q : Clock) : Clock :=
    { cur := q.new.getD q.cur, new := none, known := false, present := false }
  let c := { c with clk := c.clk.map fresh }
  (List.range 111).foldl (fun c i =>
    let k : Tag := BitVec.ofNat 7 (i + 1)
    if c.clk[k.toFin].cur == .undef || isLazy c 128 k then c
    else match evalClock 128 c k with
      | .ok (_, c) => c
      | .error _ => c) c

/-- In the body of a reaction with more than one stage an instruction whose clock has root k0 is not allowed (R181); handler mode
never raises CLOCK_MISMATCH (R333). -/
def rootForbidden (c : Ctx) (k : Tag) : Bool :=
  c.react.act && 0 < c.react.stg && !c.handler && clockRoot c k == some 0

/-- What the sequencer does with an instruction that is not a control instruction: `run` under a present clock, discard it under
an absent one (R179), fault under R181. -/
def onClock (s : State) (k : Tag) (run : State → Res) : Res :=
  if rootForbidden s.me k then .error (mismatch [k])
  else match presence s.me k with
    | .error e => .error e
    | .ok (true, c) => (run (s.setMe c)).map advance
    | .ok (false, c) => .ok (advance (s.setMe c))

/-- The outcome of a sequencer instruction that can raise a restartable trap: the presence of its clock, which it has consulted, stays fixed
for the instant while the handler runs (R177). (DEDUCED: log entry 24.) -/
def finishTrap (s : State) (i : Instr) (k : Tag) (r : Res) : Host.Outcome State Fault Refusal :=
  match r with
  | .error (.trap code info) => match presence s.me k with
    | .ok (_, c) => finish (s.setMe c) i (.error (.trap code info))
    | .error _ => finish s i r
  | _ => finish s i r

/-- A sequencer instruction with scalar sources `src` (register, last use) and one destination: the checks of R232, the result,
the dead marks, the write with the instruction's clock tag. -/
def scalarOp (s : State) (k : Tag) (d : BitVec 6) (src : List (BitVec 6 × Bool)) (f : List Word → Word) : Res :=
  onClock s k fun s =>
    let c := s.me
    match checkS c k (src.map (·.1)) with
    | .error e => .error e
    | .ok _ => match checkDest c d with
      | .error e => .error e
      | .ok _ =>
        let vals := src.map fun x => readS s c x.1
        .ok (setS (s.setMe (killS c src)) d (f vals) k)

end Sys2Proof.Machine
end

