-- ==== Sys2Proof/Machine/Scalar.lean ====
section
/-! DEFINITION. Scalar arithmetic of the sequencer (R252 to R256): each instruction runs on its clock, checks the tags and dead
marks of its sources, and writes its destination with its clock tag (R232). -/

namespace Sys2Proof.Machine

/-- A shift or rotate amount: bits 5:0 (R252). -/
def amount (b : Word) : Nat := (fld b 0 6 : BitVec 6).toNat
/-- 1 or 0. -/
def flag (b : Bool) : Word := if b then 1 else 0
/-- High 64 bits of the signed product (R252). -/
def mulHigh (a b : Word) : Word := fld (a.signExtend 128 * b.signExtend 128) 64 64
/-- High 64 bits of the unsigned product (R252). -/
def mulHighU (a b : Word) : Word := fld (a.setWidth 128 * b.setWidth 128) 64 64
/-- Signed quotient toward zero; all ones by zero; −2⁶³ ÷ −1 wraps to −2⁶³ (R252). -/
def divS (a b : Word) : Word := if b = 0 then -1 else a.sdiv b
/-- Unsigned quotient; all ones by zero (R252). -/
def divU (a b : Word) : Word := if b = 0 then -1 else a / b
/-- Signed remainder with the sign of A; A by zero (R252). -/
def remS (a b : Word) : Word := if b = 0 then a else a.srem b
/-- Unsigned remainder; A by zero (R252). -/
def remU (a b : Word) : Word := if b = 0 then a else a % b

/-- Leading zero bits, searched from bit `n - 1` down (R255). -/
def leadZeros (w : Word) : Nat → Nat
  | 0 => 0
  | n + 1 => if w.getLsbD n then 0 else leadZeros w n + 1
/-- Trailing zero bits among the top `n` bits (R255). -/
def trailZeros (w : Word) : Nat → Nat
  | 0 => 0
  | n + 1 => if w.getLsbD (63 - n) then 0 else trailZeros w n + 1
/-- One bits among the low `n` (R255). -/
def ones (w : Word) : Nat → Nat
  | 0 => 0
  | n + 1 => ones w n + (if w.getLsbD n then 1 else 0)

/-- `op sD, sA, sB` (R252). -/
def binOp (o : SRR) (f : Word → Word → Word) (s : State) : Res :=
  scalarOp s o.clk o.d [(o.a, o.ua), (o.b, o.ub)] fun l => f (l.getD 0 0) (l.getD 1 0)
/-- `op sD, sA, imm` (R253): the immediate is sign-extended. -/
def immOp (o : SRI) (f : Word → Word → Word) (s : State) : Res :=
  scalarOp s o.clk o.d [(o.a, o.ua)] fun l => f (l.getD 0 0) (sx o.imm)
/-- `op sD, sA, amount` (R254). -/
def shiftOp (o : SShift) (f : Word → Nat → Word) (s : State) : Res :=
  scalarOp s o.clk o.d [(o.a, o.ua)] fun l => f (l.getD 0 0) o.amt.toNat
/-- `op sD, sA` (R255). -/
def unOp (o : SUn) (f : Word → Word) (s : State) : Res :=
  scalarOp s o.clk o.d [(o.a, o.ua)] fun l => f (l.getD 0 0)

/-- ADD (R252). -/
def execAdd (o : SRR) (s : State) : Host.Outcome State Fault Refusal :=
  finish s (.add o) (binOp o (fun a b => a + b) s)
/-- SUB (R252). -/
def execSub (o : SRR) (s : State) : Host.Outcome State Fault Refusal :=
  finish s (.sub o) (binOp o (fun a b => a - b) s)
/-- AND (R252). -/
def execAnd (o : SRR) (s : State) : Host.Outcome State Fault Refusal :=
  finish s (.and o) (binOp o (fun a b => a &&& b) s)
/-- OR (R252). -/
def execOr (o : SRR) (s : State) : Host.Outcome State Fault Refusal :=
  finish s (.or o) (binOp o (fun a b => a ||| b) s)
/-- XOR (R252). -/
def execXor (o : SRR) (s : State) : Host.Outcome State Fault Refusal :=
  finish s (.xor o) (binOp o (fun a b => a ^^^ b) s)
/-- ANDN (R252). -/
def execAndn (o : SRR) (s : State) : Host.Outcome State Fault Refusal :=
  finish s (.andn o) (binOp o (fun a b => a &&& ~~~b) s)
/-- SLL (R252). -/
def execSll (o : SRR) (s : State) : Host.Outcome State Fault Refusal :=
  finish s (.sll o) (binOp o (fun a b => a <<< (amount b)) s)
/-- SRL (R252). -/
def execSrl (o : SRR) (s : State) : Host.Outcome State Fault Refusal :=
  finish s (.srl o) (binOp o (fun a b => a >>> (amount b)) s)
/-- SRA (R252). -/
def execSra (o : SRR) (s : State) : Host.Outcome State Fault Refusal :=
  finish s (.sra o) (binOp o (fun a b => a.sshiftRight (amount b)) s)
/-- ROTL (R252). -/
def execRotl (o : SRR) (s : State) : Host.Outcome State Fault Refusal :=
  finish s (.rotl o) (binOp o (fun a b => a.rotateLeft (amount b)) s)
/-- SLT (R252). -/
def execSlt (o : SRR) (s : State) : Host.Outcome State Fault Refusal :=
  finish s (.slt o) (binOp o (fun a b => flag (a.slt b)) s)
/-- SLTU (R252). -/
def execSltu (o : SRR) (s : State) : Host.Outcome State Fault Refusal :=
  finish s (.sltu o) (binOp o (fun a b => flag (a.ult b)) s)
/-- SEQ (R252). -/
def execSeq (o : SRR) (s : State) : Host.Outcome State Fault Refusal :=
  finish s (.seq o) (binOp o (fun a b => flag (a == b)) s)
/-- MIN (R252). -/
def execMin (o : SRR) (s : State) : Host.Outcome State Fault Refusal :=
  finish s (.min o) (binOp o (fun a b => if a.slt b then a else b) s)
/-- MAX (R252). -/
def execMax (o : SRR) (s : State) : Host.Outcome State Fault Refusal :=
  finish s (.max o) (binOp o (fun a b => if a.slt b then b else a) s)
/-- MINU (R252). -/
def execMinu (o : SRR) (s : State) : Host.Outcome State Fault Refusal :=
  finish s (.minu o) (binOp o (fun a b => if a.ult b then a else b) s)
/-- MAXU (R252). -/
def execMaxu (o : SRR) (s : State) : Host.Outcome State Fault Refusal :=
  finish s (.maxu o) (binOp o (fun a b => if a.ult b then b else a) s)
/-- MUL (R252). -/
def execMul (o : SRR) (s : State) : Host.Outcome State Fault Refusal :=
  finish s (.mul o) (binOp o (fun a b => a * b) s)
/-- MULH (R252). -/
def execMulh (o : SRR) (s : State) : Host.Outcome State Fault Refusal :=
  finish s (.mulh o) (binOp o (fun a b => mulHigh a b) s)
/-- MULHU (R252). -/
def execMulhu (o : SRR) (s : State) : Host.Outcome State Fault Refusal :=
  finish s (.mulhu o) (binOp o (fun a b => mulHighU a b) s)
/-- DIV (R252). -/
def execDiv (o : SRR) (s : State) : Host.Outcome State Fault Refusal :=
  finish s (.div o) (binOp o (fun a b => divS a b) s)
/-- DIVU (R252). -/
def execDivu (o : SRR) (s : State) : Host.Outcome State Fault Refusal :=
  finish s (.divu o) (binOp o (fun a b => divU a b) s)
/-- REM (R252). -/
def execRem (o : SRR) (s : State) : Host.Outcome State Fault Refusal :=
  finish s (.rem o) (binOp o (fun a b => remS a b) s)
/-- REMU (R252). -/
def execRemu (o : SRR) (s : State) : Host.Outcome State Fault Refusal :=
  finish s (.remu o) (binOp o (fun a b => remU a b) s)
/-- ADDI (R253). -/
def execAddi (o : SRI) (s : State) : Host.Outcome State Fault Refusal :=
  finish s (.addi o) (immOp o (fun a i => a + i) s)
/-- ANDI (R253). -/
def execAndi (o : SRI) (s : State) : Host.Outcome State Fault Refusal :=
  finish s (.andi o) (immOp o (fun a i => a &&& i) s)
/-- ORI (R253). -/
def execOri (o : SRI) (s : State) : Host.Outcome State Fault Refusal :=
  finish s (.ori o) (immOp o (fun a i => a ||| i) s)
/-- XORI (R253). -/
def execXori (o : SRI) (s : State) : Host.Outcome State Fault Refusal :=
  finish s (.xori o) (immOp o (fun a i => a ^^^ i) s)
/-- SLTI (R253). -/
def execSlti (o : SRI) (s : State) : Host.Outcome State Fault Refusal :=
  finish s (.slti o) (immOp o (fun a i => flag (a.slt i)) s)
/-- SLTIU (R253). -/
def execSltiu (o : SRI) (s : State) : Host.Outcome State Fault Refusal :=
  finish s (.sltiu o) (immOp o (fun a i => flag (a.ult i)) s)
/-- SLLI (R254). -/
def execSlli (o : SShift) (s : State) : Host.Outcome State Fault Refusal :=
  finish s (.slli o) (shiftOp o (fun a n => a <<< n) s)
/-- SRLI (R254). -/
def execSrli (o : SShift) (s : State) : Host.Outcome State Fault Refusal :=
  finish s (.srli o) (shiftOp o (fun a n => a >>> n) s)
/-- SRAI (R254). -/
def execSrai (o : SShift) (s : State) : Host.Outcome State Fault Refusal :=
  finish s (.srai o) (shiftOp o (fun a n => a.sshiftRight n) s)
/-- ROTLI (R254). -/
def execRotli (o : SShift) (s : State) : Host.Outcome State Fault Refusal :=
  finish s (.rotli o) (shiftOp o (fun a n => a.rotateLeft n) s)
/-- MOVHI (R254): the low half of sD stays, and its tag is checked. -/
def execMovhi (clk : Tag) (d : BitVec 6) (imm : BitVec 32) (s : State) : Host.Outcome State Fault Refusal :=
  finish s (.movhi clk d imm) (scalarOp s clk d [(d, false)] fun l => imm ++ (fld (l.getD 0 0) 0 32 : BitVec 32))
/-- CLZ (R255). -/
def execClz (o : SUn) (s : State) : Host.Outcome State Fault Refusal :=
  finish s (.clz o) (unOp o (fun a => BitVec.ofNat 64 (leadZeros a 64)) s)
/-- CTZ (R255). -/
def execCtz (o : SUn) (s : State) : Host.Outcome State Fault Refusal :=
  finish s (.ctz o) (unOp o (fun a => BitVec.ofNat 64 (trailZeros a 64)) s)
/-- POPC (R255). -/
def execPopc (o : SUn) (s : State) : Host.Outcome State Fault Refusal :=
  finish s (.popc o) (unOp o (fun a => BitVec.ofNat 64 (ones a 64)) s)
/-- SEXTB (R255). -/
def execSextb (o : SUn) (s : State) : Host.Outcome State Fault Refusal :=
  finish s (.sextb o) (unOp o (fun a => sx (fld a 0 8 : BitVec 8)) s)
/-- SEXTH (R255). -/
def execSexth (o : SUn) (s : State) : Host.Outcome State Fault Refusal :=
  finish s (.sexth o) (unOp o (fun a => sx (fld a 0 16 : BitVec 16)) s)
/-- SEXTW (R255). -/
def execSextw (o : SUn) (s : State) : Host.Outcome State Fault Refusal :=
  finish s (.sextw o) (unOp o (fun a => sx (fld a 0 32 : BitVec 32)) s)
/-- ZEXTB (R255). -/
def execZextb (o : SUn) (s : State) : Host.Outcome State Fault Refusal :=
  finish s (.zextb o) (unOp o (fun a => zx (fld a 0 8 : BitVec 8)) s)
/-- ZEXTH (R255). -/
def execZexth (o : SUn) (s : State) : Host.Outcome State Fault Refusal :=
  finish s (.zexth o) (unOp o (fun a => zx (fld a 0 16 : BitVec 16)) s)
/-- ZEXTW (R255). -/
def execZextw (o : SUn) (s : State) : Host.Outcome State Fault Refusal :=
  finish s (.zextw o) (unOp o (fun a => zx (fld a 0 32 : BitVec 32)) s)
/-- The value of a loop counter; fields 6 and 7 name none (R23). -/
def readLc (c : Ctx) (n : BitVec 3) : Word := c.lc.toList.getD n.toNat 0
/-- MOVLC (R255): the counter as it stands in routing order. -/
def execMovlc (clk : Tag) (d : BitVec 6) (lc : BitVec 3) (s : State) : Host.Outcome State Fault Refusal :=
  finish s (.movlc clk d lc) <| onClock s clk fun s =>
    match checkDest s.me d with
    | .error e => .error e
    | .ok _ => if s.me.badRegs.contains (.lc, lc.toNat) then .error regBad else .ok (setS s d (readLc s.me lc) clk)
/-- SHADD (R256). -/
def execShadd (n : BitVec 3) (o : SRR) (s : State) : Host.Outcome State Fault Refusal :=
  finish s (.shadd n o) (binOp o (fun a b => a + (b <<< n.toNat)) s)
/-- SEL (R256): the condition is bit 0 of sC, and its tag is checked. -/
def execSel (c : BitVec 6) (o : SRR) (s : State) : Host.Outcome State Fault Refusal :=
  finish s (.sel c o) (scalarOp s o.clk o.d [(o.a, o.ua), (o.b, o.ub), (c, false)] fun l =>
    if (l.getD 2 0).getLsbD 0 then l.getD 0 0 else l.getD 1 0)

end Sys2Proof.Machine
end

