-- ==== Sys2Proof/Machine/Control.lean ====
section
/-! DEFINITION. Control instructions: branches (R234, R235), hardware loops (R170, R171, R236), instants (R173, R180, R237),
SUCCGO, WAITPRED, RETIRE, QPOINT (R240 to R243) and clock definitions (R176, R244). They carry clock 0, compare no tags and
write none (R233). -/

namespace Sys2Proof.Machine

/-- The scalar operands of a control instruction (R233): their values, and the context with last uses marked. A pending one waits;
a dead one faults in checked mode (R215). -/
def ctlReads (s : State) (src : List (BitVec 6 × Bool)) : Except Raise (List Word × Ctx) :=
  let c := s.me
  let regs := src.map (·.1)
  if regs.any fun r => r != 0 && c.s[r.toFin].pend then .error (.wait (.operand 0))
  else if c.chk && !c.handler && regs.any fun r => r != 0 && c.s[r.toFin].dead then .error (.fatal .deadRead {})
  else if badS c regs then .error regBad
  else .ok (regs.map (readS s c), killS c src)

/-- Writes the link register with tag 0 (R234), which it keeps as it was in handler mode (R333). DEDUCED: R233 says of all control
instructions that they write no clock tag; R234 names the tag of this one write. (DEDUCED: log entry 19.) -/
def writeLink (c : Ctx) (r : BitVec 6) (w : Word) : Ctx := writeS c r w 0 c.handler

/-! ### Branches -/

/-- An address lies in a loop's body. -/
def inBody (f : LoopFrame) (a : Word) : Bool := f.body.toNat ≤ a.toNat && a.toNat < f.fin.toNat

/-- A taken branch ends every loop whose body does not hold the target, and every loop started after it (R171). -/
def branchTo (c : Ctx) (target : Word) (keepAll : Bool) : Ctx :=
  if keepAll then { c with pc := target }
  else
    let kept := (c.loops.reverse.takeWhile (inBody · target)).reverse
    { c with pc := target, loops := kept, react := if c.loops.any (·.react) && !kept.any (·.react) then {} else c.react }

/-- The target of an offset (R219). -/
def offTarget (c : Ctx) (off : BitVec 24) : Word := c.pc + 8 * sx off

/-- A branch to a register target: low bits set raise BOUNDS before the link is written (R235). -/
def jumpReg (s : State) (r : BitVec 6) (u : Bool) (link keepAll : Bool) : Res :=
  match ctlReads s [(r, u)] with
  | .error e => .error e
  | .ok (l, c) =>
    let t := l.getD 0 0
    if t &&& 7 != 0 then .error (boundsAt t)
    else if link && c.s[63].pend then .error (.wait (.operand 0))
    else
      let c := if link then writeLink c 63 (c.pc + 8) else c
      .ok (s.setMe (branchTo c t keepAll))

/-- B (R234). -/
def execB (off : BitVec 24) (s : State) : Host.Outcome State Fault Refusal :=
  finish s (.b off) (.ok (s.setMe (branchTo s.me (offTarget s.me off) false)))

/-- The conditions of BR (R234). -/
def Cond.holds (cc : Cond) (a b : Word) : Bool :=
  match cc with
  | .eq => a == b | .ne => a != b | .lt => a.slt b | .ge => !a.slt b | .ltu => a.ult b | .geu => !a.ult b

/-- BR (R234). -/
def execBr (cond : Cond) (a : BitVec 6) (ua : Bool) (rb : BitVec 6) (ub : Bool) (off : BitVec 24) (s : State) :
    Host.Outcome State Fault Refusal :=
  finish s (.br cond a ua rb ub off) <|
    match ctlReads s [(a, ua), (rb, ub)] with
    | .error e => .error e
    | .ok (l, c) =>
      if Cond.holds cond (l.getD 0 0) (l.getD 1 0) then .ok (s.setMe (branchTo c (offTarget c off) false))
      else .ok (advance (s.setMe c))

/-- CALL (R234): s63 receives the address after it. -/
def execCall (off : BitVec 24) (s : State) : Host.Outcome State Fault Refusal :=
  finish s (.call off) <|
    if s.me.s[63].pend then .error (.wait (.operand 0))
    else .ok (s.setMe (branchTo (writeLink s.me 63 (s.me.pc + 8)) (offTarget s.me off) true))

/-- RET (R234). -/
def execRet (s : State) : Host.Outcome State Fault Refusal := finish s .ret (jumpReg s 63 false false true)

/-- JMPR (R234). -/
def execJmpr (a : BitVec 6) (ua : Bool) (s : State) : Host.Outcome State Fault Refusal :=
  finish s (.jmpr a ua) (jumpReg s a ua false false)

/-- CALLR (R234). -/
def execCallr (a : BitVec 6) (ua : Bool) (s : State) : Host.Outcome State Fault Refusal :=
  finish s (.callr a ua) (jumpReg s a ua true true)

/-! ### Hardware loops -/

/-- ⌈a / b⌉ for a nonzero divisor. -/
def ceilDiv (a b : Int) : Int := -((-a).fdiv b)

/-- Index q and count P of a spatial level (R170), and KIND 0's (0, 1). -/
def spatial (c : Ctx) (kind : Nat) : Int × Int :=
  match kind with
  | 1 => (c.x, c.width)
  | 2 => (c.y, c.height)
  | 3 => (c.z, c.depth)
  | _ => (0, 1)

/-- Loop setup (R170, R180): `e` is the end address. A LOOP that names an active counter ends that loop and those started after it;
one that names a suspended counter is illegal in a handler (R333). -/
def loopSetup (s : State) (c : Ctx) (lc : Nat) (a b t : Word) (e : Word) : Res :=
  let info (sub : BitVec 8) : Raise := .trap .loopStep { sub := sub }
  if c.handler && (c.suspended ++ c.emuLoops).any (·.lc == lc) then .error (.fatal .illegalOpcode {})
  else if t = 0 then .error (info 0)
  else
    let cnt := max 0 (ceilDiv (b.toInt - a.toInt) t.toInt)
    if 2 ^ 32 - 1 < cnt then .error (info 1)
    else
      let tab := c.looptab.toList.getD lc 0
      let kind := (fld tab 0 3 : BitVec 3).toNat
      let rct := tab.getLsbD 3
      let stg := (fld tab 4 4 : BitVec 4).toNat
      let (q, p) := spatial c kind
      let loc := (max 0 (ceilDiv (cnt - q) p)).toNat
      let first := a + BitVec.ofInt 64 (q * t.toInt)
      let stride := t * BitVec.ofInt 64 p
      let kept := (c.loops.reverse.takeWhile (·.lc != lc)).reverse
      let c := { c with loops := kept, react := if c.loops.any (·.react) && !kept.any (·.react) then {} else c.react }
      let c := setLc (cleanRegs c [(.lc, lc)]) lc first
      let final := first + BitVec.ofNat 64 loc * stride
      let body := c.pc + 8
      if loc = 0 then .ok (s.setMe (fallThrough c e))
      else if body = e then .ok (s.setMe (fallThrough (setLc c lc final) e))
      else
        let total := if rct then loc + stg else loc
        let f : LoopFrame := { lc := lc, body := body, fin := e, left := total - 1, stride := stride, final := final, react := rct }
        let r : React := if rct then { act := true, stg := stg, iter := 1, b0 := c.basei, n := loc } else c.react
        .ok (s.setMe { c with loops := f :: c.loops, pc := body, react := r })

/-- LOOP, register form (R236). -/
def execLoopRegister (o : LoopReg) (s : State) : Host.Outcome State Fault Refusal :=
  finish s (.loopRegister o) <|
    match ctlReads s [(o.a, o.ua), (o.b, o.ub), (o.c, o.uc)] with
    | .error e => .error e
    | .ok (l, c) =>
      loopSetup s c o.lc.toNat (l.getD 0 0) (l.getD 1 0) (l.getD 2 0) (c.pc + 8 * zx o.fin)

/-- LOOP, immediate form (R236): sign-extended fields. -/
def execLoopImmediate (o : LoopImm) (s : State) : Host.Outcome State Fault Refusal :=
  finish s (.loopImmediate o)
    (loopSetup s s.me o.lc.toNat (sx o.start) (sx o.bound) (sx o.step) (s.me.pc + 8 * zx o.fin))

/-! ### Waits on earlier work -/

/-- Every earlier entry of the context's queues has issued. -/
def queuesEmpty (c : Ctx) : Bool := c.qL.isEmpty && c.qC.isEmpty && c.qS.isEmpty

/-- The context has no copy in flight. -/
def noCopies (s : State) (c : CtxId) : Bool := s.copies.all fun k => k.ctx != c || k.orphan

/-- Every earlier access of the sequencer and of the L and S queues has performed, with the completion marks of every earlier copy:
the release condition (R129, R149). A load has performed once its destination is written, and accesses of C commands do not count. (DEDUCED: log entry
128.) -/
def accessesDone (s : State) (c : CtxId) : Bool :=
  let x := s.cx c
  x.qL.isEmpty && x.qS.isEmpty && x.loads.isEmpty && x.stores.isEmpty && x.scalars.isEmpty && noCopies s c

/-- An acquire (R37, R74, R129): the cell's data cache and the context's fetched tag entries are dropped. -/
def acquire (s : State) (c : CtxId) : State :=
  let cell := s.cell c.cell
  let s := s.setCell c.cell { cell with dcache := [] }
  s.setCx c { s.cx c with tagCache := [] }

/-! ### Instants -/

/-- The instant that an IEND commits, if it commits one: its own, or B0 + j − S + 1 in a pipelined reaction (R175, R180). -/
def commitInstant (c : Ctx) : Option Word :=
  if c.ireact.act && 0 < c.ireact.stg then
    if c.ireact.stg < c.ireact.iter then some (c.ireact.b0 + BitVec.ofNat 64 (c.ireact.iter - c.ireact.stg)) else none
  else some c.basei

/-- The iteration that a COMMIT record names: the instant, at the last stage (R364). -/
def commitIteration (c : Ctx) (m : Word) : Iteration :=
  if c.react.act then ⟨BitVec.ofNat 3 (((c.loops.find? (·.react)).map (·.lc)).getD 7), true, BitVec.ofNat 4 c.react.stg, m⟩
  else ⟨7, false, 0, m⟩

/-- IEND (R173): clears IOPEN and places the C marker and the S marker. -/
def iend (s : State) : Res :=
  let c := s.me
  if !c.iopen || c.handler then .error (.fatal .illegalOpcode {})
  else if 32 ≤ c.qC.length then .error (.wait (.full 2))
  else if 32 ≤ c.qS.length then .error (.wait (.full 3))
  else
    let m := commitInstant c
    let e (k : EntryKind) : Entry :=
      { kind := k, i := .iend, pc := c.pc, id := c.nextId, inst := m.getD 0, opened := m.isSome, iter := commitIteration c (m.getD 0) }
    .ok (advance (s.setMe { c with
      iopen := false, qC := c.qC ++ [e .cMark], qS := c.qS ++ [e .sMark], nextId := c.nextId + 1 }))

/-- IEND (R237). -/
def execIend (s : State) : Host.Outcome State Fault Refusal := finish s .iend (iend s)

/-! ### Hand-over, retirement, quiescent points -/

/-- SUCCGO (R240). -/
def execSuccgo (s : State) : Host.Outcome State Fault Refusal :=
  finish s .succgo (.ok (advance (s.setMe { s.me with succgo := true })))

/-- A launch of a partition counts as retired (R318): it has retired or was refused. -/
def hasRetired (s : State) (pid seq : Nat) : Bool :=
  match s.launches.find? fun l => l.pid == pid && l.seq == seq with
  | some l => l.phase == .retired
  | none => true

/-- WAITPRED (R241): waits for every predecessor, then is an acquire at .SY. -/
def execWaitpred (s : State) : Host.Outcome State Fault Refusal :=
  finish s .waitpred <|
    if s.me.preds.all (hasRetired s s.me.pid) then .ok (advance (acquire s s.cur)) else .error (.wait (.sync 1))

/-- RETIRE's completion condition (R186): queues issued, engine commands complete, a nest still to be reissued among them, no register write pending. -/
def retireReady (s : State) (c : CtxId) : Bool :=
  let x := s.cx c
  queuesEmpty x && x.loads.isEmpty && x.scalars.all (·.dest.isNone) && x.s.all (!·.pend) && x.reissue.isNone &&
    (s.cell c.cell).engine.all fun e => e.slot != c.slot

/-- RETIRE (R186): ILLEGAL_OPCODE with an instant open or in a handler; it waits for its completion and for tracker entries, then
hands copies and stores to the tracker, unbinds the ports and frees the slot. -/
def execRetire (s : State) : Host.Outcome State Fault Refusal :=
  let c := s.me
  if c.iopen || c.handler then finish s .retire (.error (.fatal .illegalOpcode {}))
  else
    let need := (s.copies.filter fun k => k.ctx == s.cur && !k.orphan).length + (if c.stores.isEmpty && c.scalars.isEmpty then 0 else 1)
    if retireReady s s.cur && need + (s.cell s.cur.cell).tracker.length ≤ 8 then
      .next (retireLaunches (removeCtx (unbindAll (toTracker s s.cur) s.cur) s.cur))
    else .next (s.setMe { c with phase := .retiring, waiting := some (.sync 2) })

/-! ### Clock definitions -/

/-- A definition that takes effect at the next IBEGIN (R177, R244). -/
def kdef (s : State) (k : Tag) (d : ClockDef) : Res :=
  let c := s.me
  if c.handler then .error (.fatal .illegalOpcode {})
  else .ok (advance (s.setMe { c with clk := c.clk.set k.toFin { c.clk[k.toFin] with new := some d } k.toFin.isLt }))

/-- KDEF.EVERY (R244). -/
def execKdefEvery (k p : Tag) (n : BitVec 16) (phase : BitVec 13) (s : State) : Host.Outcome State Fault Refusal :=
  finish s (.kdefEvery k p n phase) (kdef s k (.every p n phase))
/-- KDEF.ON (R244). -/
def execKdefOn (k p : Tag) (c : BitVec 6) (s : State) : Host.Outcome State Fault Refusal :=
  finish s (.kdefOn k p c) (kdef s k (.on p c))
/-- KDEF.ONNOT (R244). -/
def execKdefOnnot (k p : Tag) (c : BitVec 6) (s : State) : Host.Outcome State Fault Refusal :=
  finish s (.kdefOnnot k p c) (kdef s k (.onnot p c))
/-- KDEF.UNION (R244): operands whose roots differ under the definitions in effect raise CLOCK_MISMATCH; an undefined one is not
compared (R176). -/
def execKdefUnion (k p q : Tag) (s : State) : Host.Outcome State Fault Refusal :=
  finish s (.kdefUnion k p q) <|
    let a := clockRoot s.me p
    let b := clockRoot s.me q
    if !s.me.handler && a.isSome && b.isSome && a != b then .error (mismatch [p, q]) else kdef s k (.union p q)

end Sys2Proof.Machine
end

