-- ==== Sys2Proof/Machine/System.lean ====
section
/-! DEFINITION. System instructions: control and status registers (R226, R257), TRAP, BKPT and TRET (R334), TRIG (R358, R359),
DUMP (R370) and PROBE (R89). -/

namespace Sys2Proof.Machine

/-! ### Reading registers -/

/-- ISL.Sn (R383). -/
def islWord (s : State) (n : Nat) : Word :=
  let i := s.island n
  0#16 ++ i.volt ++ 0#2 ++ bit1 i.clt ++ bit1 i.cli ++ (if n < 12 then i.group else 15#4) ++ 0#8 ++ i.freq

/-- A register that is not the context's own: partition, cell, die or device (R226, R352). -/
def outerCsr (s : State) (c : CtxId) (pid n : Nat) : Word :=
  let p := s.part pid
  let q := s.cell c.cell
  let d := s.die (dieOf c.cell)
  if n = 0x100 then p.root else if n = 0x101 then p.rdt else if n = 0x102 then zx p.serial
  else if n = 0x108 then p.chanBase else if n = 0x109 then p.chanLimit
  else if n = 0x110 then p.siltPool else if n = 0x111 then p.siltLim
  else if n < 0x208 then q.pmc.toList.getD (n - 0x200) 0
  else if n < 0x210 then q.pms.toList.getD (n - 0x208) 0
  else if n < 0x218 then q.pmh.toList.getD (n - 0x210) 0
  else if n = 0x218 then (if s.dev.trgClear then 0 else s.dev.trgLast) else if n = 0x219 then (if s.dev.trgClear then 0 else zx s.dev.trgNum)
  else if n = 0x21A then q.slipH[0] else if n = 0x21B then q.slipH[1]
  else if n = 0x21C then q.cyc
  else if n = 0x220 then q.trcCtl
  else if n = 0x228 then q.bp[0] else if n = 0x229 then q.bp[1]
  else if n = 0x22A then q.bpi[0] else if n = 0x22B then q.bpi[1]
  else if n < 0x310 then d.pmd.toList.getD (n - 0x300) 0
  else if n < 0x320 then d.pms.toList.getD (n - 0x310) 0
  else if n < 0x330 then d.pmh.toList.getD (n - 0x320) 0
  else if n = 0x330 then s.dev.time
  else if n = 0x338 then d.loess else if n = 0x339 then d.wptr else if n = 0x33A then d.lost
  else if n = 0x400 then s.dev.cmeta
  else if n = 0x410 then s.dev.np else if n = 0x411 then s.dev.extl else if n = 0x412 then s.dev.extp
  else islWord s (n - 0x480)

/-- A register's value in the routing cycle (R257). -/
def readCsr (s : State) (n : Nat) : Word :=
  match ctxCsr s.me s.cur n with
  | some w => w
  | none => outerCsr s s.cur s.me.pid n

/-- CSRR (R257). TRAP.SCR0 and SCR1 give the destination the recorded tag, in handler mode too (R330, R333). -/
def execCsrr (clk : Tag) (d : BitVec 6) (csr : BitVec 12) (s : State) : Host.Outcome State Fault Refusal :=
  finish s (.csrr clk d csr) <| onClock s clk fun s =>
    match checkDest s.me d with
    | .error e => .error e
    | .ok _ =>
      let w := readCsr s csr.toNat
      if csr = 0x036 then .ok (s.setMe (writeS s.me d w s.me.trap.scr0Tag false))
      else if csr = 0x037 then .ok (s.setMe (writeS s.me d w s.me.trap.scr1Tag false))
      else .ok (setS s d w clk)

/-! ### Writing registers -/

/-- The frame of every CSRW (R257): it waits for the queues, checks its source and then acts with the value. -/
def csrwOp (s : State) (clk : Tag) (a : BitVec 6) (ua : Bool) (act : State → Word → Res) : Res :=
  onClock s clk fun s =>
    if !queuesEmpty s.me then .error (.wait (.sync 2))
    else match checkS s.me clk [a] with
      | .error e => .error e
      | .ok _ =>
        let w := readS s s.me a
        (act s w).map fun s => s.setMe (killS s.me [(a, ua)])

/-- The new value of a register with `rw` writable bits: the others are read-only and a write to them is ignored (R5, R6). -/
def csrMerge (old new rw : Word) : Word := (old &&& ~~~rw) ||| (new &&& rw)

/-- A write to a cell register (R352, R354, R361, R366). -/
def writeCellCsr (q : Cell) (n : Nat) (w : Word) : Cell :=
  let sel : Word := rangesMask [(31, 21), (15, 8)]
  if h : 0x208 ≤ n ∧ n < 0x210 then { q with pms := q.pms.set (n - 0x208) (w &&& sel) (by omega) }
  else if n = 0x220 then { q with trcCtl := w &&& rangesMask [(31, 16), (11, 8), (1, 0)] }
  else if h : 0x228 ≤ n ∧ n < 0x22A then { q with bp := q.bp.set (n - 0x228) w (by omega) }
  else if h : 0x22A ≤ n ∧ n < 0x22C then { q with bpi := q.bpi.set (n - 0x22A) w (by omega) }
  else q

/-- A write to a register without behaviour of its own; registers that contexts cannot write ignore it (R5, R257, R352). -/
def writeCsr (s : State) (n : Nat) (w : Word) : State :=
  let c := s.me
  if n = 0x006 then s.setMe { c with fpchk := w.getLsbD 1 }
  else if n = 0x007 then s.setMe { c with layoutBase := w &&& bitMask 55 6 }
  else if n = 0x030 then s.setMe { c with trap := { c.trap with base := w &&& rangesMask [(55, 10), (0, 0)] } }
  else if n = 0x031 then s.setMe { c with trap := { c.trap with epc := w &&& ~~~7#64 } }
  else if n = 0x038 then s.setMe { c with trap := { c.trap with hook := w.getLsbD 0 } }
  else if 0x208 ≤ n ∧ n < 0x22C then s.setCell s.cur.cell (writeCellCsr (s.cell s.cur.cell) n w)
  else s

/-- CSRW (R257). -/
def execCsrw (clk : Tag) (a : BitVec 6) (ua : Bool) (csr : BitVec 12) (s : State) : Host.Outcome State Fault Refusal :=
  finish s (.csrw clk a ua csr) (csrwOp s clk a ua fun s w => .ok (writeCsr s csr.toNat w))

/-- Both ends of the instant window lie in one scratch window (R18, R174). -/
def windowOk (base limit : Nat) : Bool :=
  (base < 0x400000 && limit ≤ 0x400000) ||
    (0x80000000 ≤ base && base < 0x82000000 && 0x80000000 ≤ limit && limit ≤ 0x82000000)

/-- CSRW ISCOPE (R174). -/
def execCsrwIscope (clk : Tag) (a : BitVec 6) (ua : Bool) (s : State) : Host.Outcome State Fault Refusal :=
  finish s (.csrwIscope clk a ua) (csrwOp s clk a ua fun s w =>
    let base := (fld w 0 32 : BitVec 32)
    let limit := (fld w 32 32 : BitVec 32)
    if windowOk base.toNat limit.toNat then .ok (s.setMe { s.me with iscope := w }) else .error (boundsAt (zx base)))

/-- CSRW BND.TAGS (R74): the fetched entries are discarded. -/
def execCsrwBndTags (clk : Tag) (a : BitVec 6) (ua : Bool) (s : State) : Host.Outcome State Fault Refusal :=
  finish s (.csrwBndTags clk a ua) (csrwOp s clk a ua fun s w =>
    .ok (s.setMe { s.me with bndTags := w &&& rangesMask [(55, 4), (0, 0)], tagCache := [] }))

/-- A TCFG value is valid (R283). -/
def tcfgOk (w : Word) : Bool :=
  w == 0 || match ElemType.ofCode (fld w 16 4) with
    | some ty => tileType ty && tileShapeOk ty (fld w 9 7 : BitVec 7).toNat (fld w 0 9 : BitVec 9).toNat
    | none => false

/-- CSRW TCFG.Tn (R283). -/
def execCsrwTcfg (clk : Tag) (a : BitVec 6) (ua : Bool) (t : BitVec 3) (s : State) : Host.Outcome State Fault Refusal :=
  finish s (.csrwTcfg clk a ua t) (csrwOp s clk a ua fun s w =>
    let v := w &&& rangesMask [(26, 21), (19, 0)]
    if tcfgOk v then
      .ok (s.setMe { s.me with t := s.me.t.set t.toFin { s.me.t[t.toFin] with cfg := v } t.toFin.isLt })
    else .error (boundsAt 0))

/-- CSRW CTX.STATUS (R168): writing 1 clears COLL. -/
def execCsrwCtxStatus (clk : Tag) (a : BitVec 6) (ua : Bool) (s : State) : Host.Outcome State Fault Refusal :=
  finish s (.csrwCtxStatus clk a ua) (csrwOp s clk a ua fun s w =>
    .ok (s.setMe { s.me with coll := s.me.coll && !w.getLsbD 0 }))

/-- CSRW PMC.Cn (R354). -/
def execCsrwPmc (clk : Tag) (a : BitVec 6) (ua : Bool) (n : BitVec 3) (s : State) : Host.Outcome State Fault Refusal :=
  finish s (.csrwPmc clk a ua n) (csrwOp s clk a ua fun s w =>
    let q := s.cell s.cur.cell
    .ok (s.setCell s.cur.cell { q with pmc := q.pmc.set n.toFin w n.toFin.isLt, wrote := n.toNat :: q.wrote }))

/-- CSRW TRAP.SCRn (R330): it records the tag of its source. -/
def execCsrwTrapScr (clk : Tag) (a : BitVec 6) (ua : Bool) (n : BitVec 1) (s : State) : Host.Outcome State Fault Refusal :=
  finish s (.csrwTrapScr clk a ua n) (csrwOp s clk a ua fun s w =>
    let c := s.me
    let k : Tag := if a = 0 then 0 else c.s[a.toFin].tag
    .ok (s.setMe { c with trap := if n = 0 then { c.trap with scr0 := w, scr0Tag := k }
                                  else { c.trap with scr1 := w, scr1Tag := k } }))

/-! ### Traps -/

/-- TRAP (R334). -/
def execTrap (clk : Tag) (code : BitVec 8) (s : State) : Host.Outcome State Fault Refusal :=
  finishTrap s (.trap clk code) clk (onClock s clk fun _ => .error (.trap .trap { sub := code }))

/-- BKPT (R334). -/
def execBkpt (clk : Tag) (code : BitVec 8) (s : State) : Host.Outcome State Fault Refusal :=
  finishTrap s (.bkpt clk code) clk (onClock s clk fun _ => .error (.trap .bkpt { sub := code }))

/-- TRET (R334). -/
def execTret (s : State) : Host.Outcome State Fault Refusal :=
  finish s .tret (if s.me.handler then .ok (trapReturn s s.cur) else .error (.fatal .illegalOpcode {}))

/-! ### The trigger -/

/-- An assertion of the trigger at time `t` (R358): it joins the latch in progress, or opens one at `at'`. -/
def assertTrigger (s : State) (t at' : Word) : State :=
  if s.dev.trgT.toNat < t.toNat then { s with dev := { s.dev with trgT := at', latchDue := true } } else s

/-- TRIG (R359): asserts the trigger at its routing time. -/
def execTrig (clk : Tag) (s : State) : Host.Outcome State Fault Refusal :=
  finish s (.trig clk) (onClock s clk fun s => .ok (assertTrigger s s.dev.time (s.dev.time + 1000)))

/-! ### Dumps (R368 to R370) -/

/-- The data of a kind (R369), each byte with its poison. -/
def dumpData (s : State) (c : CtxId) (x : Ctx) (kind : Nat) : List (Byte × Bool) :=
  let ok (l : List Byte) : List (Byte × Bool) := l.map (·, false)
  match kind with
  | 1 => imgSBad x | 2 => withBad x .m 128 (imgM x) | 3 => withBad x .a 128 (imgA x) | 4 => withBad x .g 128 (imgG x) | 5 => withBad x .cb 32 (imgCb x)
  | 6 => imgV x | 7 => withBad x .d 1024 (imgD x)
  | 8 => regionBytes s (tileKey c.cell 0, Config.tileBytes)
  | 9 => regionBytes s (accKey c.cell 0, Config.accBytes)
  | 10 => regionBytes s (scratchKey c.cell 0, Config.localBytes)
  | 11 => regionBytes s (scratchKey c.cell Config.localBytes, Config.shareBytes)
  | 12 => ok (imgCsr x c)
  | _ => []

/-- Bytes of a kind's data (R369). -/
def dumpLen (kind : Nat) : Nat :=
  [0, 1024, 1024, 2048, 2048, 256, 16384, 16384, 131072, 262144, 0x400000, 0x200000, 544].getD kind 0

/-- The records of a dump: kind, offset and length, in order (R369). -/
def dumpRecords (sel : Nat) : List (Nat × Nat × Nat) :=
  ((List.range 13).filter fun k => sel.testBit k).flatMap fun k =>
    (List.range ((dumpLen k + 4095) / 4096)).map fun i => (k, 4096 * i, min 4096 (dumpLen k - 4096 * i))

/-- The records that fit in a capacity, and where the last of them ends (R370). -/
def dumpFit (cap : Nat) : List (Nat × Nat × Nat) → Nat → List (Nat × Nat × Nat) × Nat
  | [], e => ([], e)
  | r :: l, e =>
    let e' := e + 16 + r.2.2
    if e' ≤ cap then let (rs, z) := dumpFit cap l e'; (r :: rs, z) else ([], e)

/-- The bytes of a record (R369). -/
def dumpRecord (s : State) (c : CtxId) (x : Ctx) (r : Nat × Nat × Nat) : List (Byte × Bool) :=
  let h : List Byte := leBytes 4 r.1 ++ leBytes 4 r.2.1 ++ leBytes 4 r.2.2 ++ leBytes 4 0
  h.map (·, false) ++ ((dumpData s c x r.1).drop r.2.1).take r.2.2

/-- The part of the header that the device writes: bytes 16 to 63 (R368). -/
def dumpHeader (req len : Nat) (trunc faulted : Bool) (pc : Word) (it : Iteration) : List Byte :=
  leBytes 8 req ++ leBytes 8 len ++ leBytes 8 ((if trunc then 1 else 0) + (if faulted then 2 else 0) + 4) ++
    leBytes 8 pc.toNat ++ leBytes 8 it.iter.toNat ++
    [(it.stg ++ bit1 it.pipe ++ it.loop : BitVec 8)] ++ List.replicate 7 0

/-- Writes the records of a dump in order through `put`; a record whose write reports an error stops the dump, and the end of the
last good record is known (R370). -/
def dumpRun (c : CtxId) (x : Ctx) (put : State → Nat → List (Byte × Bool) → State × Bool) :
    List (Nat × Nat × Nat) → Nat → State → State × Nat × Bool
  | [], e, s => (s, e, false)
  | r :: l, e, s =>
    let b := dumpRecord s c x r
    let (s', ok) := put s e b
    if ok then dumpRun c x put l (e + b.length) s' else (s', e, true)

/-- A write of a context's dump through its translation; false where a remote page answers with an error status (R30). -/
def dumpPut (c : CtxId) (base : Word) (s : State) (off : Nat) (b : List (Byte × Bool)) : State × Bool :=
  match translateRange s c .write (base + BitVec.ofNat 64 off) b.length with
  | .error _ => (s, false)
  | .ok l =>
    if (farError s l (base + BitVec.ofNat 64 off)).isSome then (s, false)
    else (useRange (writeLeaves s l b) c .write (base + BitVec.ofNat 64 off) b.length, true)

/-- The virtual address of a pointer is checked against the tag table (R74). -/
def tagEntry (s : State) (c : CtxId) (va : Word) : Except Raise (Option (Word × Word) × State) :=
  let x := s.cx c
  let t : BitVec 8 := fld va 56 8
  if t = 0 ∨ !x.bndTags.getLsbD 0 then .ok (none, s)
  else match x.tagCache.find? (·.1 == t) with
    | some e => .ok (some e.2, s)
    | none =>
      let base : Word := x.bndTags &&& bitMask 55 4
      let a := base + 16 * zx t
      if pastTop base (16 * t.toNat) 16 then .error (rangeFault a)
      else match readVirt s c .read a 16 with
      | .error e => .error e
      | .ok b =>
        match hbmBad a b with
        | some r => .error r
        | none =>
          let n := leNat (b.map (·.1))
          let lo := BitVec.ofNat 64 n
          let hi := BitVec.ofNat 64 (n / 2 ^ 64)
          let cache := ((t, lo, hi) :: x.tagCache).take 16
          let s := useRange s c .read a 16
          .ok (some (lo, hi), s.setCx c { s.cx c with tagCache := cache })

/-- The first byte of [va, va + n) outside [LO, HI) on bits 55:0. -/
def firstOutside (va : Word) (n : Nat) (lo hi : Word) : Option Word :=
  let v := (fld va 0 56 : BitVec 56).toNat
  let l := (fld lo 0 56 : BitVec 56).toNat
  let h := (fld hi 0 56 : BitVec 56).toNat
  if n = 0 then none
  else if v < l ∨ h ≤ v then some va
  else if h < v + n then some (va + BitVec.ofNat 64 (h - v))
  else none

/-- The tag check of R74 for `n` bytes at a pointer. (DEDUCED: log entry 44.) -/
def checkTag (s : State) (c : CtxId) (va : Word) (n : Nat) : Except Raise State :=
  match tagEntry s c va with
  | .error e => .error e
  | .ok (none, s) => .ok s
  | .ok (some (lo, hi), s) => match firstOutside va n lo hi with
    | some a => .error (boundsAt (va56 a))
    | none => .ok s

/-- Register writes and engine commands that DUMP waits for beside FENCE's wait (R370). -/
def dumpReady (s : State) (c : CtxId) : Bool :=
  accessesDone s c && (s.cx c).s.all (!·.pend) && (s.cx c).qC.all (·.kind == .cMark) &&
    (s.cell c.cell).engine.all fun e => e.slot != c.slot

/-- The dump of a context into a buffer (R370). -/
def dumpInto (s : State) (c : CtxId) (base pc : Word) (k : Tag) : Res :=
  let x := s.cx c
  match checkTag s c base 16 with
  | .error e => .error e
  | .ok s => match readVirt s c .read base 16 with
    | .error e => .error e
    | .ok h =>
      match hbmBad base h with
      | some r => .error r
      | none =>
        let n := leNat (h.map (·.1))
        let cap := max 64 (n % 2 ^ 64)
        let sel := n / 2 ^ 64
        let all := dumpRecords sel
        let req := 64 + (all.map fun r => 16 + r.2.2).sum
        let (rs, fin) := dumpFit cap all 64
        match checkTag s c base fin with
        | .error e => .error e
        | .ok s => match translateRange (useRange s c .read base 16) c .write base fin with
          | .error e => .error e
          | .ok _ =>
            let (s, len, faulted) := dumpRun c x (dumpPut c base) rs 64 (useRange s c .read base 16)
            let it := iterationOf x k
            let hb := dumpHeader req len (cap < req) faulted pc it
            let (s, ok) := dumpPut c base s 16 (hb.map (·, false))
            .ok (if ok then s else annot s c 4 pc 0 it)

/-- DUMP (R370). -/
def execDump (clk : Tag) (a : BitVec 6) (ua : Bool) (s : State) : Host.Outcome State Fault Refusal :=
  finish s (.dump clk a ua) <| onClock s clk fun s =>
    lateBad s.me [a] <| match checkTagsS s.me clk [a] with
    | .error (.wait _) => .error (.wait (.sync 2))
    | .error e => .error e
    | .ok _ =>
      let base := readS s s.me a
      if base &&& 63 != 0 then .error (boundsAt (va56 base))
      else if !dumpReady s s.cur then .error (.wait (.sync 2))
      else dumpInto (s.setMe (killS s.me [(a, ua)])) s.cur base s.me.pc clk

/-! ### PROBE -/

/-- Walks the pages of a range in ascending order, jumping by page size: an address on each (R89). -/
def probeWalk (s : State) (c : CtxId) (k : Access) : Nat → Nat → Nat → Except (Word × WalkFail) (List Word)
  | 0, _, _ => .ok []
  | f + 1, v, fin =>
    if fin ≤ v then .ok []
    else match translate s c (BitVec.ofNat 64 v) k with
      | .error e => .error (BitVec.ofNat 64 v, e)
      | .ok leaf => match probeWalk s c k f ((v / leaf.size + 1) * leaf.size) fin with
        | .error e => .error e
        | .ok l => .ok (BitVec.ofNat 64 v :: l)

/-- The translation of each page that PROBE has walked is in the cell TLB, and in the structures that the lookup missed (R89, R344): what a context still
holds of a table that an invalidation has replaced goes into none that other contexts share (R346). -/
def probeFill (s : State) (c : CtxId) (k : Access) (l : List Word) : State :=
  l.foldl (fun s va =>
    let s := useOne s c (s.cx c).pid .seq k va
    match lookup s [] c.cell (s.cx c).pid va k with
    | .ok leaf => fillShared s c (s.cx c).pid leaf.entry
    | .error _ => s) s

/-- PROBE (R89): the trap PROBE_FAULT reports the cause and the lowest address on the failing page. -/
def execProbe (clk : Tag) (kind : ProbeKind) (rb : BitVec 6) (ub : Bool) (x : BitVec 6) (ux : Bool) (imm : BitVec 16)
    (s : State) : Host.Outcome State Fault Refusal :=
  finishTrap s (.probe clk kind rb ub x ux imm) clk <| onClock s clk fun s =>
    lateBad s.me [rb, x] <| match checkTagsS s.me clk [rb, x] with
    | .error (.wait w) => .error (.wait (if queuesEmpty s.me then w else .sync 2))
    | .error e => .error e
    | .ok _ =>
      let va := readS s s.me rb
      let len := (readS s s.me x + zx imm).toNat
      let v := (fld va 0 56 : BitVec 56).toNat
      let k : Access := match kind with
        | .read => .read
        | .write => .write
        | .fetch => .fetch
      let fail (a : Word) (f : WalkFail) : Raise :=
        if f.cause = 255 then walkFault a f
        else .trap .probeFault { addr := va56 a, sub := f.cause, level := f.level, serial := f.serial }
      if !queuesEmpty s.me then .error (.wait (.sync 2))
      else if 2 ^ 56 < v + len then .error (.trap .probeFault { addr := va, sub := 5 })
      else match probeWalk s s.cur k (len / 4096 + 2) v (v + len) with
        | .error (a, f) => .error (fail a f)
        | .ok l =>
          let s := probeFill s s.cur k l
          .ok (s.setMe (killS s.me [(rb, ub), (x, ux)]))

end Sys2Proof.Machine
end

