-- ==== Sys2Proof/Machine/Cache.lean ====
section
/-! DEFINITION. The sequencer's data cache (R37) and the scalar loads that go through it (R80, R130): LDH, and the step table words of a
generator (R306). -/

namespace Sys2Proof.Machine

/-- Line and offset of a physical address. -/
def lineOf (pa : Nat) : Nat := pa / 64 * 64

/-- Bytes `off` to `off + n - 1` of a line. -/
def lineNat (w : BitVec 512) (off n : Nat) : Nat := w.toNat / 256 ^ off % 256 ^ n

/-- Adds a line, none for a poisoned one (R350): of the four lines of a full set one, which is a free value, leaves. The set of a line is given by bits 11:6
of its physical address. (DESIGN CHOICE: log entry 107.) -/
def fillLine (s : State) (cell pa : Nat) (w : Option (BitVec 512)) : State :=
  let q := s.cell cell
  let set (x : Nat) : Nat := x / 64 % 64
  let mates := (q.dcache.map (·.1)).filter fun x => set x == set pa
  let kept := if mates.length < 4 then q.dcache
    else match mates[(Config.freeVictim (s.free pa)).toNat]? with
      | some v => drop q.dcache v
      | none => q.dcache
  s.setCell cell { q with dcache := (pa, w) :: kept }

/-- Drops the line that holds an address (R36). -/
def dropLine (s : State) (cell pa : Nat) : State :=
  let q := s.cell cell
  s.setCell cell { q with dcache := drop q.dcache (lineOf pa) }

/-- Writes bytes into the line that holds them, if it is present; a poisoned line stays poisoned. -/
def updateLine (s : State) (cell pa : Nat) (bs : List Byte) : State :=
  let q := s.cell cell
  match find? q.dcache (lineOf pa) with
  | some (some w) =>
    let l := leBytes 64 w.toNat
    let off := pa % 64
    let new := l.take off ++ bs ++ l.drop (off + bs.length)
    s.setCell cell { q with dcache := put q.dcache (lineOf pa) (some (BitVec.ofNat 512 (leNat new))) }
  | _ => s

/-- The line as memory holds it now: none where it is poisoned (R350). -/
def readLine (s : State) (cmp : BitVec 2) (line : Nat) : Option (BitVec 512) :=
  let bs := s.hbmRead cmp line 64
  if bs.any (·.2) then none else some (BitVec.ofNat 512 (leNat (bs.map (·.1))))

/-- The UNCORRECTED fault of a scalar load that reads a poisoned line (R350). -/
def lineBad (va : Word) : Raise := .fatal .uncorrected { addr := va56 va &&& ~~~7#64 }

/-- A scalar load of `n` bytes from a local, cacheable page: a hit returns the line's bytes, a miss fills it (R37, R130, R350). -/
def cachedLoad (s : State) (cell : Nat) (va : Word) (leaf : Leaf) (n : Nat) : Except Raise (Nat × State) :=
  let line := lineOf leaf.pa
  match find? (s.cell cell).dcache line with
  | some none => .error (lineBad va)
  | some (some w) => .ok (lineNat w (leaf.pa % 64) n, s)
  | none => match readLine s leaf.entry.cmp line with
    | none => .error (lineBad va)
    | some w => .ok (lineNat w (leaf.pa % 64) n, fillLine s cell line (some w))

/-- Pointer tag, then translation of an aligned scalar access (R65, R74), which the sequencer TLB then holds (R344). (DEDUCED: log entry 28.) -/
def scalarLeaf (s : State) (va : Word) (n : Nat) (k : Access) : Except Raise (Leaf × State) :=
  match checkTag s s.cur va n with
  | .error e => .error e
  | .ok s => match translate s s.cur va k with
    | .error f => .error (walkFault va f)
    | .ok l => .ok (l, useOne s s.cur s.me.pid .seq k va)

/-- A scalar load (R80): a remote page of another device answers with a free value, one of this device is not cached (R37). -/
def scalarLoad (s : State) (va : Word) (n : Nat) : Except Raise (Nat × Leaf × State) :=
  match scalarLeaf s va n .read with
  | .error e => .error e
  | .ok (l, s) =>
    if l.far s then .ok ((Config.freeRemote (s.free l.pa)).toNat % 256 ^ n, l, s)
    else if l.entry.rem then
      let bs := s.hbmRead 0 l.pa n
      match hbmBad va bs with
      | some r => .error r
      | none => .ok (leNat (bs.map (·.1)), l, s)
    else match cachedLoad s s.cur.cell va l n with
      | .error e => .error e
      | .ok (x, s) => .ok (x, l, s)

/-- What a scalar load that faults on poison leaves: the line that it missed is filled, poisoned (R37, R350). -/
def poisonFill (s : State) (va : Word) : State :=
  match translate s s.cur va .read with
  | .error _ => s
  | .ok l =>
    if !l.entry.rem && (find? (s.cell s.cur.cell).dcache (lineOf l.pa)).isNone && (readLine s l.entry.cmp (lineOf l.pa)).isNone then
      fillLine s s.cur.cell (lineOf l.pa) none
    else s

end Sys2Proof.Machine
end

