-- ==== Sys2Proof/Machine/Operands.lean ====
section
/-! DEFINITION. The queues: routing an instruction into its queue with its companion entries (R158 to R162), dependence tokens
(R163), and the operands of the C queue: vectors, neighbour queues and lane masks (R164, R178, R215, R258 to R262). -/

namespace Sys2Proof.Machine

/-- The three queues. -/
inductive Queue where
  | l | c | s
  deriving DecidableEq, Repr

/-- The entries of a queue. -/
def Ctx.queue (x : Ctx) : Queue → List Entry
  | .l => x.qL
  | .c => x.qC
  | .s => x.qS

/-- Replaces the entries of a queue. -/
def Ctx.setQueue (x : Ctx) (q : Queue) (l : List Entry) : Ctx :=
  match q with
  | .l => { x with qL := l }
  | .c => { x with qC := l }
  | .s => { x with qS := l }

/-- Index of a queue in the FULL class and in PMC selects (R354, R356). -/
def Queue.num : Queue → Nat
  | .l => 1 | .c => 2 | .s => 3

/-! ### Tokens (R9, R163) -/

/-- FIFOs that an instruction's token bits pop from, and push to. -/
def popsOf (q : Queue) (t : BitVec 4) : List (Fin 4) :=
  match q with
  | .l => if t.getLsbD 2 then [1] else []
  | .c => (if t.getLsbD 3 then [0] else []) ++ (if t.getLsbD 2 then [3] else [])
  | .s => if t.getLsbD 3 then [2] else []
def pushesOf (q : Queue) (t : BitVec 4) : List (Fin 4) :=
  match q with
  | .l => if t.getLsbD 0 then [0] else []
  | .c => (if t.getLsbD 1 then [1] else []) ++ (if t.getLsbD 0 then [2] else [])
  | .s => if t.getLsbD 1 then [3] else []

/-- Takes the tokens that an instruction pops and reserves the slots that it pushes to, or waits (R163). -/
def takeTokens (c : Ctx) (pops pushes : List (Fin 4)) : Except Raise Ctx :=
  match pops.find? fun i => c.tok[i].avail ≤ c.tok[i].fresh with
  | some i => .error (.wait (.token i))
  | none =>
    match pushes.find? fun i => 8 ≤ c.tok[i].avail + c.tok[i].held with
    | some i => .error (.wait (.token i))
    | none =>
      let c := pops.foldl (fun c i => tokAdd c i (-1) 0) c
      .ok (pushes.foldl (fun c i => tokAdd c i 0 1) c)

/-- The token bits of an instruction's word. -/
def tokOf (i : Instr) : BitVec 4 := fld (wordOf i) 60 4
/-- The clock index of an instruction's word. -/
def clkOf (i : Instr) : Tag := fld (wordOf i) 53 7

/-- Instructions whose pushes wait for a completion after their issue (R163). -/
def defers : Instr → Bool
  | .lds _ | .ldv _ | .ldvx _ | .ldt _ _ _ _ | .vperm _ _ _ _ _ _ _ | .chrd _ | .chtry _ | .chtag _ | .chstat _ _ _ _
  | .sts _ | .stv _ | .stvx _ | .xcopyIn _ | .xcopyInStrided _ | .xcopyd _ | .xaddw _ | .xaddwStrided _ | .xbcast _
  | .xbcastStrided _ | .xcopyOut _ | .xcopyOutStrided _ | .mma _ | .mgo _ _ _ | .accz _ | .accwr _ | .accrd _ => true
  | _ => false

/-! ### Poisoned registers of the mask, stream, delay, generator and codebook files (R350, R351) -/

/-- The registers of those files that a C-queue word reads at issue. -/
def fileUses (w : Word) : List (RegFile × Nat) :=
  let op := (fld w 45 8 : BitVec 8).toNat
  let fn := (fld w 12 8 : BitVec 8).toNat
  let a := (fld w 32 6 : BitVec 6).toNat
  let b := (fld w 25 6 : BitVec 6).toNat
  let d := (fld w 39 6 : BitVec 6).toNat
  let imm := 0x90 ≤ op && op < 0x94
  let mask := if 0x80 ≤ op && op < 0x98 && w.getLsbD (if imm then 21 else 11) then
    [(RegFile.m, (fld w (if imm then 18 else 8) 3 : BitVec 3).toNat)] else []
  mask ++
    (if op = 0x8D then (if fn < 4 then [(.m, a), (.m, b)] else if fn = 4 || (7 ≤ fn && fn ≤ 9) then [(.m, a)] else [])
     else if op = 0x8C then (if fn < 16 then [(.cb, fn % 8)] else [])
     else if op = 0x9B ∨ op = 0x9C then [(.d, b % 16)]
     else if op = 0xA1 then
       (if w.getLsbD 15 then [(.g, a)] else []) ++ (if w.getLsbD 14 then [(.g, b)] else [])
     else if op = 0xB3 then [(.g, d)] else if op = 0xB4 ∨ op = 0xB6 then [(.g, a)] else [])

/-- The registers of those files that a word writes whole. -/
def fileDefs (w : Word) : List (RegFile × Nat) :=
  let op := (fld w 45 8 : BitVec 8).toNat
  let fn := (fld w 12 8 : BitVec 8).toNat
  let d := (fld w 39 6 : BitVec 6).toNat
  if op = 0x83 ∨ op = 0x92 ∨ (op = 0x8D ∧ (fn < 7 ∨ fn = 10)) then [(.m, d)]
  else if op = 0x8C ∧ 16 ≤ fn then [(.cb, fn % 8)]
  else if op = 0xB7 then [(.g, d)] else []

/-- The stream registers that an instruction's address stage reads, and whether it writes one whole. -/
def streamUses : Instr → List Nat
  | .ldv o | .stv o => [o.b.toNat]
  | .ldvx o | .stvx o => [o.b.toNat]
  | .ldt _ _ rb _ => [rb.toNat]
  | .asetx o _ | .aadv o => [o.d.toNat]
  | .xcopyInStrided o | .xaddwStrided o | .xbcastStrided o => [(fld o.s 0 4 : BitVec 4).toNat]
  | .xcopyOutStrided o => [(fld o.d 0 4 : BitVec 4).toNat]
  | _ => []
def streamDefs : Instr → List Nat
  | .aset o _ | .asetV o _ => [o.d.toNat]
  | _ => []

/-! ### Issue of an entry -/

/-- Entries that touch scratch as stores. -/
def isStore (i : Instr) : Bool := match i with
  | .sts _ | .stv _ | .stvx _ => true
  | _ => false

/-- The address stage has not come to an L entry: more than 16 older stores have not performed, and one of them finds the forwarding table
full (R58). The stages of the model run at routing; what the stall holds back is the issue. (DEDUCED: log entry 114.) -/
def tableStalls (c : Ctx) (q : Queue) (e : Entry) : Bool :=
  q = .l && decide (16 < (c.stores.filter (·.id < e.id)).length +
    (c.qS.filter fun x => x.kind == .instr && isStore x.i && x.present && x.err.isNone && decide (x.id < e.id)).length)

/-- What holds an entry back before its own conditions: a full forwarding table, or, in the C queue, a nest that a resumption has still to reissue (R298). -/
def heldBack (c : Ctx) (q : Queue) (e : Entry) : Option WaitClass :=
  if tableStalls c q e then some .score else if q = .c ∧ c.reissue.isSome then some (.engine 1) else none

/-- A poisoned entry of a queue, or of the store data queue, is read (R350, R351). -/
def entryBad : Raise := .fatal .uncorrected { sub := 5 }

/-- A source or store-data entry of an instruction still stands in the C queue. -/
def awaitsData (c : Ctx) (e : Entry) : Bool :=
  c.qC.any fun x => x.id == e.id && (x.kind == .source || x.kind == .storeData)

/-- Issues an entry of the executing context's queue `q`: its captured fault, once the clock tags of its vectors have been found right
(R65); its tokens, and, under a present clock, its action; an absent clock performs the tokens alone (R64, R163). Poison is found after
every other check (R65). -/
def issueOpen (q : Queue) (act : Entry → State → Res) (e : Entry) (s : State) : Res :=
  match e.err with
  | some r => .error (if awaitsData s.me e then .wait (.operand 1) else r)
  | none =>
    if e.bare then act e s else
    let pushes := pushesOf q (tokOf e.i)
    match takeTokens s.me (popsOf q (tokOf e.i)) pushes with
    | .error r => .error r
    | .ok c =>
      let s := s.setMe c
      if !e.present then if e.dataBad then .error entryBad else .ok (s.setMe (pushTokens s.me pushes))
      else match act e s with
        | .error r => .error r
        | .ok s =>
          if e.sbad || (fileUses (wordOf e.i)).any c.badRegs.contains then .error regBad
          else if e.dataBad then .error entryBad
          else
            let s := s.setMe (cleanRegs s.me (fileDefs (wordOf e.i)))
            .ok (if defers e.i then s else s.setMe (pushTokens s.me pushes))

/-- Issues an entry that nothing holds back. -/
def issueWith (q : Queue) (act : Entry → State → Res) (e : Entry) (s : State) : Res :=
  match heldBack s.me q e with
  | some w => behind w (issueOpen q act e s)
  | none => issueOpen q act e s

/-! ### Checks at issue -/

/-- The vector sources of these instructions stand before their scalar source. -/
def vectorFirst : Instr → Bool
  | .vextr _ | .vtopk _ _ | .vcompress _ => true
  | _ => false

/-- CLOCK_MISMATCH over the tags of every tagged source, then DEAD_READ in checked mode (R65, R178, R215); handler mode checks
neither (R333). `dead` says that a vector or tile source is dead. -/
def checkTags (s : State) (e : Entry) (tags : List (Option Tag)) (dead : Bool) : Except Raise Unit :=
  if !e.hand && (e.scal.any (·.2 != clkOf e.i) || tags.any fun t => t.getD (clkOf e.i) != clkOf e.i) then
    let ts := tags.map (·.getD 0)
    .error (mismatch (if vectorFirst e.i then ts ++ e.stags else e.stags ++ ts))
  else if !e.hand && (e.sdead || (s.me.chk && dead)) then .error (.fatal .deadRead {})
  else .ok ()

/-- A captured scalar. -/
def Entry.sc (e : Entry) (n : Nat) : Word := (e.scal.getD n (0, 0)).1

/-! ### Vector registers -/

/-- A receive entry for vector register `r` stands in the C queue: its write is pending (R160, R161). -/
def isVecReceive (r : BitVec 5) (e : Entry) : Bool :=
  e.kind == .receive && match e.i with
    | .ldv o => o.d == r
    | .ldvx o => o.d == r
    | .vperm _ _ d _ _ _ _ => d == r
    | .chrd o | .chtry o => o.v && fld o.d 0 5 == r
    | _ => false

/-- The value of a vector register: a dead one reads as a free value in normal mode (R215). -/
def readV (s : State) (c : Ctx) (r : BitVec 5) (hand : Bool) : Vec :=
  let x := c.v[r.toFin]
  if x.dead && !hand then Config.freeDead (s.free (64 + r.toNat)) else x.val

/-- Marks a vector register dead (R215). -/
def killV (c : Ctx) (r : BitVec 5) (u hand : Bool) : Ctx :=
  if u && !hand then { c with v := c.v.set r.toFin { c.v[r.toFin] with dead := true } r.toFin.isLt } else c

/-! ### Companion entries (R161) -/

/-- The vector registers that a source or store-data entry reads, with their last-use bits. -/
def companionRegs : Instr → List (BitVec 5 × Bool)
  | .stv o => [(o.d, o.ud)]
  | .stvx o => [(o.d, o.ud), (o.x, o.ux)]
  | .chwr o | .chwrI o => [(fld o.d 0 5, o.ud)]
  | .ldvx o => [(o.x, o.ux)]
  | .vperm _ ty _ a ua x ux => if ty.width = 8 then [(a, ua), (x, ux), (x + 1, ux)] else [(a, ua), (x, ux)]
  | _ => []

/-- The lane mask that a gather or scatter reads; its companion entry reads it in C order (R161, R280). (DEDUCED: log entry 34.) -/
def companionMask (c : Ctx) : Instr → List Vec
  | .ldvx o | .stvx o => if o.me then [(c.m[o.msk.toFin]).setWidth 4096] else []
  | _ => []

/-- The stream register that an instruction's address stage advances. -/
def advances : Instr → Option (BitVec 4)
  | .ldv o | .stv o => if o.adv then some o.b else none
  | _ => none

/-- The entry of an instruction that `e` is, or that the companion entry `e` belongs to. -/
def Ctx.owner (c : Ctx) (e : Entry) : Option Entry :=
  if e.kind == .instr then some e else (c.qL ++ c.qS).find? fun x => x.kind == .instr && x.id == e.id

/-- A fault found when an entry issues, or by a companion entry: the instruction performs nothing, so its stream register is as its address stage found
it (R65, R161). -/
def unAdvance (s : State) (e : Entry) : State :=
  match advances e.i, s.me.owner e with
  | some b, some x => if x.present && x.err.isNone then s.setMe { s.me with a := s.me.a.set b.toFin x.strm b.toFin.isLt } else s
  | _, _ => s

/-- Hands the data of a companion entry to the entry of its instruction, which finds poison in it after its other checks (R65, R350). -/
def handOver (l : List Entry) (id : Nat) (data : List Vec) (bad : Bool) : List Entry :=
  l.map fun e => if e.kind == .instr && e.id == id then { e with data := data, passed := true, sbad := e.sbad || bad } else e

/-- The lane mask of a gather or scatter, as a register that can be poisoned. -/
def companionFiles : Instr → List (RegFile × Nat)
  | .ldvx o | .stvx o => if o.me then [(.m, o.msk.toNat)] else []
  | _ => []

/-- A register that a companion entry reads is poisoned. -/
def companionBad (c : Ctx) (i : Instr) : Bool :=
  ((companionRegs i).any fun r => c.v[r.1.toFin].bad != 0) || (companionFiles i).any c.badRegs.contains

/-- Passes the registers of a source or store-data entry, once no ACCRD has still to write one and the store data queue of 16 has room (R162), with
the clock check of R161 and DEAD_READ (R215). -/
def passData (s : State) (e : Entry) : Res :=
  let c := s.me
  let regs := companionRegs e.i
  if regs.any fun r => c.v[r.1.toFin].pend then .error (.wait (.operand 1))
  else if e.kind == .storeData && 16 ≤ (c.qS.filter (·.passed)).length then .error (.wait (.engine 6))
  else match checkTags s { e with scal := [], stags := [], sdead := false } (regs.map fun r => some c.v[r.1.toFin].tag) (regs.any fun r => c.v[r.1.toFin].dead) with
  | .error r => .error r
  | .ok _ =>
    let data := (regs.map fun r => readV s c r.1 e.hand) ++ companionMask c e.i
    let bad := companionBad c e.i
    let c := regs.foldl (fun c r => killV c r.1 r.2 e.hand) c
    if e.dataBad then .error entryBad
    else .ok (s.setMe { c with qL := handOver c.qL e.id data bad, qS := handOver c.qS e.id data bad })

/-- An entry of a queue has issued: it is counted (R355), and the head acted in this cycle (R356). -/
def countIssue (s : State) (q : Queue) : State :=
  let s := countCell s s.cur.cell s.cur.slot 2 q.num
  s.setMe { s.me with acted := s.me.acted ||| 1 <<< q.num }

/-- Issues the source or store-data entry at the head of the C queue, if one stands there. -/
def passHead (s : State) : Res :=
  match s.me.qC with
  | e :: rest =>
    if e.kind == .source || e.kind == .storeData then
      match passData (s.setMe { s.me with qC := rest }) e with
      | .error (.wait _) => .ok s
      | .error r => .error r
      | .ok s => .ok (countIssue s .c)
    else .ok s
  | [] => .ok s

/-! ### Routing -/

/-- Tries to issue the head of a queue: it leaves the queue when it issues, and stays while it waits. -/
def tryHead (q : Queue) (act : Entry → State → Res) (s : State) : Res :=
  match s.me.queue q with
  | [] => .ok s
  | e :: rest =>
    match issueWith q act e (s.setMe (s.me.setQueue q rest)) with
    | .ok s => .ok s
    | .error (.wait _) => .ok s
    | .error r => .error r

/-- The loop counters that are poisoned. -/
def badLc (c : Ctx) : BitVec 6 :=
  if c.badRegs.isEmpty then 0 else (List.range 6).foldl (fun m n => if c.badRegs.contains (.lc, n) then m ||| 1 <<< n else m) 0

/-- What routing an instruction captures and checks: scalar sources, scalar destinations written from outside the sequencer (R160),
companion entries (R161), and the work of its address stage (R79). -/
structure Routing where
  src : List (BitVec 6 × Bool) := []
  dest : List (BitVec 6) := []
  comps : List EntryKind := []
  stage : Entry → State → Except Raise (Entry × State) := fun e s => .ok (e, s)

/-- The captured scalar sources: s0 adopts the instruction's clock (R178, R261). -/
def capture (s : State) (c : Ctx) (k : Tag) (src : List (BitVec 6 × Bool)) : List (Word × Tag) :=
  src.map fun x => (readS s c x.1, if x.1 = 0 then k else c.s[x.1.toFin].tag)

/-- Companion entries of an instruction (R161). -/
def companions (e : Entry) (ks : List EntryKind) : List Entry := ks.map fun k => { e with kind := k, err := none }

/-- Puts an entry at the tail of its queue and routes on. -/
def enqueue (s : State) (q : Queue) (e : Entry) : State :=
  s.setMe (s.me.setQueue q (s.me.queue q ++ [e]))

/-- Routes an instruction to a queue (R158 to R161, R179, R181). With its queue empty and nothing to wait for it issues in the same
step; otherwise it stands at the queue's tail. `bad` is a fault found before presence is decided; `pres` is the presence of the
clock it runs on. (DEDUCED: log entry 21.) -/
def routeWith (s : State) (i : Instr) (q : Queue) (r : Routing) (act : Entry → State → Res) (bad : Option Raise)
    (pres : Except Raise (Bool × Ctx)) : Res :=
  let k := clkOf i
  let c := s.me
  /- a fault is raised when the entry issues: at once in an empty queue; `ks` are the companion entries that still pass data -/
  let faulty (s : State) (ent : Entry) (ks : List EntryKind) (e : Raise) : Res :=
    let data := companions ent ks
    if 32 ≤ (c.queue q).length then .error (.wait (.full q.num))
    else if c.queue q = [] && data.isEmpty then .error e
    else
      let s := enqueue s q { ent with err := some e, stop := true }
      let s := s.setMe { s.me with nextId := s.me.nextId + 1, qC := s.me.qC ++ data }
      match if c.qC = [] then passHead s else .ok s with
      | .error e => .error e
      | .ok s => if c.queue q = [] then (tryHead q act s).map advance else .ok (advance s)
  match bad with
  | some e => faulty s { i := i, pc := c.pc, id := c.nextId, iter := iterationOf c k } [] e
  | none =>
    match pres with
    | .error (.wait w) => .error (.wait w)
    | .error e => faulty s { i := i, pc := c.pc, id := c.nextId, iter := iterationOf c k } [] e
    | .ok (present, c) =>
      let s := s.setMe c
      if !present && tokOf i = 0 then .ok (advance s)
      else if present && (r.src.map (·.1) ++ r.dest).any fun x => x != 0 && c.s[x.toFin].pend then .error (.wait (.operand 0))
      else if 32 ≤ (c.queue q).length then .error (.wait (.full q.num))
      else
        let base : Entry := { i := i, pc := c.pc, id := c.nextId, inst := clockInstant c k, opened := c.iopen,
                              present := present, hand := c.handler, lc := c.lc, lcBad := badLc c, iter := iterationOf c k }
        if !present then
          let s := enqueue (s.setMe { c with nextId := c.nextId + 1 }) q base
          if c.queue q = [] then (tryHead q act s).map advance else .ok (advance s)
        else if 32 < c.qC.length + r.comps.length + (if q = .c then 1 else 0) then .error (.wait (.full 2))
        else
          let sdead := c.chk && !c.handler && r.src.any fun x => x.1 != 0 && c.s[x.1.toFin].dead
          let ent := { base with scal := capture s c k r.src, stags := reportTags c (r.src.map (·.1)), sdead := sdead }
          let poisoned := badS c (r.src.map (·.1)) || (streamUses i).any fun n => c.badRegs.contains (.a, n)
          match r.stage ent s with
          | .error (.wait w) => .error (.wait w)
          | .error e => faulty s ent (r.comps.filter (· != .receive)) e
          | .ok (ent, s) =>
            let ent := if poisoned then { ent with sbad := true } else ent
            let c := r.dest.foldl (fun c d => pendS c d true) (killS s.me r.src)
            let c := cleanRegs c ((streamDefs i).map fun n => (.a, n))
            let alone := c.queue q = []
            let s := enqueue (s.setMe { c with nextId := c.nextId + 1, qC := c.qC ++ companions ent r.comps }) q ent
            match if c.qC = [] then passHead s else .ok s with
            | .error e => .error e
            | .ok s => if alone then (tryHead q act s).map advance else .ok (advance s)

/-- Routes an instruction that runs on its own clock, which R181 may forbid. -/
def routeTo (s : State) (i : Instr) (q : Queue) (r : Routing) (act : Entry → State → Res) : Res :=
  routeWith s i q r act (if rootForbidden s.me (clkOf i) then some (mismatch [clkOf i]) else none) (presence s.me (clkOf i))

/-! ### Neighbour queues (R164, R165) -/

/-- The neighbour of a cell in direction 0 north, 1 east, 2 south, 3 west, within its die's grid (R164). -/
def neighbour (cell d : Nat) : Option Nat :=
  let r := rowOf cell
  let c := colOf cell
  match d with
  | 0 => if 0 < r then some (cell - 12) else none
  | 1 => if c + 1 < 12 then some (cell + 1) else none
  | 2 => if r + 1 < 12 then some (cell + 12) else none
  | _ => if 0 < c then some (cell - 1) else none

/-- The direction from the neighbour back. -/
def opposite (d : Nat) : Nat := (d + 2) % 4

/-- The island of a cell, and whether a hop is elastic: the two cells lie in different lock groups (R165, R383). -/
def islandOf (cell : Nat) : Nat := clusterOf cell / 3
def elastic (s : State) (a b : Nat) : Bool := (s.island (islandOf a)).group != (s.island (islandOf b)).group

/-- The neighbour's slot holds a context of the same partition (R164). (DEDUCED: log entry 67.) -/
def samePart (s : State) (cell : Nat) : Bool :=
  let n : CtxId := ⟨cell, s.cur.slot⟩
  s.resident n && (s.cx n).pid == s.me.pid

/-- A saved context of the same partition left the neighbour's slot: it is still the slot's context (R343). -/
def awayPart (s : State) (cell : Nat) : Bool :=
  s.saved.any fun v => v.1 == ⟨cell, s.cur.slot⟩ && v.2.ctx.pid == s.me.pid

/-- The head of an input queue, or the fault or wait of R164 and R165. -/
def nqHead (s : State) (d : Fin 4) : Except Raise NqEntry :=
  match s.me.nq[d] with
  | x :: _ => .ok x
  | [] =>
    match neighbour s.cur.cell d with
    | none => .error (boundsAt 0)
    | some n =>
      if samePart s n || awayPart s n then .error (.wait (.neighbour (d.val + if elastic s s.cur.cell n then 4 else 0)))
      else .error (boundsAt 0)

/-- Pops the head of an input queue. -/
def nqPop (c : Ctx) (d : Fin 4) : Ctx := { c with nq := c.nq.set d ((c.nq[d]).drop 1) }

/-- Pushes a result to the neighbour's input queue from this cell (R164), or waits for a slot (R165). -/
def nqPush (s : State) (d : Fin 4) (x : NqEntry) : Res :=
  match neighbour s.cur.cell d with
  | none => .error (boundsAt 0)
  | some n =>
    if !samePart s n then .error (if awayPart s n then .wait (.neighbour (d.val + if elastic s s.cur.cell n then 4 else 0)) else boundsAt 0)
    else
      let i : CtxId := ⟨n, s.cur.slot⟩
      let c := s.cx i
      let b : Fin 4 := ⟨opposite d, by unfold opposite; omega⟩
      if 4 ≤ (c.nq[b]).length then .error (.wait (.neighbour (d.val + if elastic s s.cur.cell n then 4 else 0)))
      else .ok (s.setCx i { c with nq := c.nq.set b (c.nq[b] ++ [x]) })

/-! ### Vector operands -/

/-- A vector operand field (R262): a register, a neighbour queue, or the zero vector 0x30. -/
inductive VSrc where
  | reg (r : BitVec 5) | nq (d : Fin 4) | zero
  deriving DecidableEq, Repr

/-- Reads the field. -/
def vsrc (f : BitVec 6) : VSrc :=
  if f.toNat < 32 then .reg (fld f 0 5) else if f.toNat < 0x24 then .nq ⟨f.toNat % 4, by omega⟩ else .zero

/-- A source that has been read: value, tag if it carries one, dead, poisoned. -/
structure VVal where
  val : Vec := 0
  tag : Option Tag := none
  dead : Bool := false
  bad : Bool := false
  queued : Bool := false
  deriving DecidableEq, Repr

/-- Reads a vector operand (R178, R215, R262). -/
def readSrc (s : State) (hand : Bool) (f : BitVec 6) : Except Raise VVal :=
  match vsrc f with
  | .reg r =>
    let x := s.me.v[r.toFin]
    if x.pend then .error (.wait (.operand 1)) else .ok ⟨readV s s.me r hand, some x.tag, x.dead, x.bad != 0, false⟩
  | .nq d => (nqHead s d).map fun x => ⟨x.val, some x.tag, false, x.bad != 0, true⟩
  | .zero => .ok {}

/-- Takes the last-use bit of a source field into effect: a register dies, a queue pops (R215). -/
def useSrc (c : Ctx) (f : BitVec 6) (u hand : Bool) : Ctx :=
  match vsrc f with
  | .reg r => killV c r u hand
  | .nq d => if u then nqPop c d else c
  | .zero => c

/-- Writes a vector result to a destination field: a register, a neighbour queue, or nowhere (R164, R262). -/
def writeDst (s : State) (f : BitVec 6) (w : Vec) (k : Tag) (hand : Bool) : Res :=
  match vsrc f with
  | .reg r => if s.me.v[r.toFin].pend then .error (.wait (.operand 1)) else .ok (s.setMe (writeV s.me r w k hand))
  | .nq d => nqPush s d { val := w, tag := k }
  | .zero => .ok s

/-- UNCORRECTED where a source holds poison (R350, R351): kind 4 a register, 5 a queue. -/
def checkBad (l : List VVal) : Except Raise Unit :=
  match l.find? (·.bad) with
  | some v => .error (.fatal .uncorrected { sub := if v.queued then 5 else 4 })
  | none => .ok ()

/-- Reads several vector operands; of several that wait, the wait whose class stands first (R356). -/
def readAll (s : State) (hand : Bool) : List (BitVec 6) → Except Raise (List VVal)
  | [] => .ok []
  | f :: fs => match readSrc s hand f with
    | .error (.wait w) => match readAll s hand fs with
      | .error (.wait v) => .error (.wait (w.first v))
      | _ => .error (.wait w)
    | .error r => .error r
    | .ok v => (readAll s hand fs).map (v :: ·)

/-- The fault or the wait of the neighbour queues among some destination fields (R164, R165). -/
def outErr (s : State) (ds : List (BitVec 6)) : Option Raise :=
  ds.findSome? fun f => match vsrc f with
    | .nq d => match nqPush s d {} with
      | .error r => some r
      | .ok _ => none
    | _ => none

/-- The sources among some operand fields that carry a tag and can be read now: tag and dead mark of the registers, the tags of the heads of input
queues that hold one. -/
def tagged (s : State) (fs : List (BitVec 6)) : List (Tag × Bool) :=
  fs.filterMap fun f => match vsrc f with
    | .reg r => some (s.me.v[r.toFin].tag, s.me.v[r.toFin].dead)
    | .nq d => (s.me.nq[d]).head?.map fun x => (x.tag, false)
    | .zero => none

/-- Reads the vector sources of a C-queue instruction whose destinations are the fields `ds`: CLOCK_MISMATCH and DEAD_READ, then BOUNDS of a queue
operand, source or destination (R65, R164, R261), then UNCORRECTED. (DEDUCED: log entry 66.) -/
def readSrcs (s : State) (e : Entry) (fs : List (BitVec 6)) (ds : List (BitVec 6) := []) : Except Raise (List VVal) :=
  match readAll s e.hand fs with
  | .error (.wait w) => .error (.wait (match outErr s ds with
    | some (.wait v) => w.first v
    | _ => w))
  | .error (.fatal c i) =>
    match checkTags s e ((tagged s fs).map (some ·.1)) ((tagged s fs).any (·.2)) with
    | .error r => .error r
    | .ok _ => .error (.fatal c i)
  | .error r => .error r
  | .ok vs => match checkTags s e (vs.map (·.tag)) (vs.any (·.dead)) with
    | .error r => .error r
    | .ok _ => match outErr s ds with
      | some r => .error r
      | none => match checkBad vs with
        | .error r => .error r
        | .ok _ => .ok vs

end Sys2Proof.Machine
end

