-- ==== Sys2Proof/Machine/Special.lean ====
section
/-! DEFINITION. The special-function unit (R273): each result is the exact real value rounded once. Square roots and reciprocals
are exact by integers; the transcendental functions are enclosed in an interval of integers that is refined until both of its
ends round to the same pattern. -/

namespace Sys2Proof.Machine

namespace Sfu

/-- Integer square root by bits, from bit `k - 1` down. -/
def isqrtFrom (n : Nat) : Nat → Nat → Nat
  | 0, r => r
  | k + 1, r =>
    let t := r + 2 ^ k
    if t * t ≤ n then isqrtFrom n k t else isqrtFrom n k r
/-- ⌊√n⌋. -/
def isqrt (n : Nat) : Nat := isqrtFrom n (n.log2 / 2 + 1) 0

/-- ⌈a / b⌉. -/
def cdiv (a b : Nat) : Nat := (a + b - 1) / b

/-- An interval of integers in units of 2^-p. -/
structure Iv where
  lo : Nat
  hi : Nat
  deriving DecidableEq, Repr

/-- m × 2^e in units of 2^-p. -/
def ofScaled (p : Nat) (m : Nat) (e : Int) : Iv :=
  let s := e + p
  if 0 ≤ s then ⟨m * 2 ^ s.toNat, m * 2 ^ s.toNat⟩
  else ⟨m / 2 ^ (-s).toNat, cdiv m (2 ^ (-s).toNat)⟩

/-- Product. -/
def mul (p : Nat) (a b : Iv) : Iv := ⟨a.lo * b.lo / 2 ^ p, cdiv (a.hi * b.hi) (2 ^ p)⟩

/-- Σ tⁱ / i! from the term after `k` on, `n` more terms: `a` is the last term, and the last term bounds the rest. -/
def expTerms (p : Nat) (t : Iv) : Nat → Nat → Iv → Iv
  | 0, _, a => ⟨0, 2 * a.hi⟩
  | n + 1, k, a =>
    let m := mul p a t
    let b : Iv := ⟨m.lo / (k + 1), cdiv m.hi (k + 1)⟩
    let r := expTerms p t n (k + 1) b
    ⟨b.lo + r.lo, b.hi + r.hi⟩

/-- Repeated squaring. -/
def squares (p : Nat) : Nat → Iv → Iv
  | 0, a => a
  | n + 1, a => squares p n (mul p a a)

/-- e^t for an interval below 2^-8. -/
def expSmall (p : Nat) (t : Iv) : Iv :=
  let one := 2 ^ p
  let r := expTerms p t (p / 8 + 4) 0 ⟨one, one⟩
  ⟨one + r.lo, one + r.hi⟩

/-- e^x for x = m × 2^e ≥ 0. -/
def exp (p : Nat) (m : Nat) (e : Int) : Iv :=
  let s := (e + m.log2 + 9).toNat
  squares p s (expSmall p (ofScaled p m (e - s)))

/-- Reciprocal in units of 2^-q of an interval in units of 2^-p. -/
def recip (p q : Nat) (a : Iv) : Iv := ⟨2 ^ (p + q) / a.hi, cdiv (2 ^ (p + q)) (max a.lo 1)⟩

/-- Σ z^(2i+1) / (2i+1): the inverse hyperbolic tangent of z ≤ 1/3, `a` the current odd power. -/
def atanhTerms (p : Nat) (z2 : Iv) : Nat → Nat → Iv → Iv
  | 0, _, a => ⟨0, 2 * a.hi⟩
  | n + 1, k, a =>
    let r := atanhTerms p z2 n (k + 2) (mul p a z2)
    ⟨a.lo / k + r.lo, cdiv a.hi k + r.hi⟩

/-- ln of the rational a / b in [1, 2]. -/
def lnRatio (p a b : Nat) : Iv :=
  let z : Iv := ⟨(a - b) * 2 ^ p / (a + b), cdiv ((a - b) * 2 ^ p) (a + b)⟩
  let r := atanhTerms p (mul p z z) (p / 3 + 4) 1 z
  ⟨2 * r.lo, 2 * r.hi⟩

/-- ln 2. -/
def ln2 (p : Nat) : Iv := lnRatio p 2 1

/-- Rounds both ends of a positive interval; none while they differ. -/
def settle (f : FFmt) (neg : Bool) (q : Nat) (v : Iv) : Option Nat :=
  let a := Fl.roundMag f neg v.lo (-q)
  if a = Fl.roundMag f neg v.hi (-q) && v.lo ≤ v.hi then some a else none

/-- The first precision at which the interval decides, the last one's lower end otherwise. -/
def search (f : FFmt) (neg : Bool) (iv : Nat → Nat × Iv) : List Nat → Nat
  | [] => f.nan
  | [p] => let (q, v) := iv p; Fl.roundMag f neg v.lo (-q)
  | p :: ps => let (q, v) := iv p; (settle f neg q v).getD (search f neg iv ps)

/-- The precisions tried. -/
def precisions : List Nat := [128, 256, 640, 1600]

/-- The positive function of an enclosure. -/
def enclosed (f : FFmt) (neg : Bool) (iv : Nat → Nat × Iv) : Nat := search f neg iv precisions

/-- 1.0. -/
def one (f : FFmt) : Nat := f.bias.toNat * 2 ^ f.fb

/-- e^x. -/
def expBits (f : FFmt) : Fl → Nat
  | .nan => f.nan
  | .inf neg => if neg then 0 else f.infBits
  | .fin neg m e =>
    if m = 0 then one f
    else if 10 < e + m.log2 then (if neg then 0 else f.infBits)
    else if neg then enclosed f false fun p => let q := p + 3000; (q, recip p q (exp p m e))
    else enclosed f false fun p => (p, exp p m e)

/-- 2^x: the integer part is exact, the fraction r / 2^k goes through e^(r ln 2). -/
def exp2Bits (f : FFmt) : Fl → Nat
  | .nan => f.nan
  | .inf neg => if neg then 0 else f.infBits
  | .fin neg m e =>
    if 11 < e + m.log2 ∧ m ≠ 0 then (if neg then 0 else f.infBits)
    else if 0 ≤ e then
      let n : Int := (m * 2 ^ e.toNat : Nat)
      Fl.roundMag f false 1 (if neg then -n else n)
    else
      let k := (-e).toNat
      let n : Int := if neg then -(m : Int) else m
      let whole := n.fdiv (2 ^ k)
      let r := (n - whole * 2 ^ k).toNat
      if r = 0 then Fl.roundMag f false 1 whole
      else search f false (fun p =>
        let t := mul p (ofScaled p r (-(k : Int) - 9)) (ln2 p)
        let v := squares p 9 (expSmall p t)
        let s := 2000 + whole
        (p + 2000, ⟨v.lo * 2 ^ s.toNat, v.hi * 2 ^ s.toNat⟩)) precisions

/-- log₂ x. -/
def log2Bits (f : FFmt) : Fl → Nat
  | .nan => f.nan
  | .inf neg => if neg then f.nan else f.infBits
  | .fin neg m e =>
    if m = 0 then f.sign true + f.infBits
    else if neg then f.nan
    else
      let k := m.log2
      let n : Int := e + k
      if m = 2 ^ k then (Fl.ofInt n).encode f
      else
        let frac (p : Nat) : Iv :=
          let a := lnRatio p m (2 ^ k)
          let b := ln2 p
          ⟨a.lo * 2 ^ p / b.hi, cdiv (a.hi * 2 ^ p) (max b.lo 1)⟩
        if 0 ≤ n then
          enclosed f false fun p => let v := frac p; (p, ⟨v.lo + n.toNat * 2 ^ p, v.hi + n.toNat * 2 ^ p⟩)
        else
          enclosed f true fun p => let v := frac p; (p, ⟨(-n).toNat * 2 ^ p - v.hi, (-n).toNat * 2 ^ p - v.lo⟩)

/-- tanh x = (e^2x − 1) / (e^2x + 1). -/
def tanhBits (f : FFmt) : Fl → Nat
  | .nan => f.nan
  | .inf neg => f.sign neg + one f
  | .fin neg m e =>
    if m = 0 then f.sign neg
    else if 5 ≤ e + m.log2 then f.sign neg + one f
    else enclosed f neg fun p =>
      let v := exp p m (e + 1)
      let u := 2 ^ p
      (p, ⟨(v.lo - u) * u / (v.lo + u), cdiv ((v.hi - u) * u) (v.hi + u)⟩)

/-- 1 / (1 + e^−x). -/
def sigmBits (f : FFmt) : Fl → Nat
  | .nan => f.nan
  | .inf neg => if neg then 0 else one f
  | .fin neg m e =>
    if m = 0 then one f - 2 ^ f.fb
    else if 10 < e + m.log2 then (if neg then 0 else one f)
    else enclosed f false fun p =>
      let v := exp p m e
      let u := 2 ^ p
      if neg then
        let q := p + 3000
        (q, recip p q ⟨v.lo + u, v.hi + u⟩)
      else (p, ⟨v.lo * u / (v.lo + u), cdiv (v.hi * u) (v.hi + u)⟩)

/-- √x. -/
def sqrtBits (f : FFmt) : Fl → Nat
  | .nan => f.nan
  | .inf neg => if neg then f.nan else f.infBits
  | .fin neg m e =>
    if m = 0 then f.sign neg
    else if neg then f.nan
    else
      let k := f.fb + 4
      let (m, e) := if e % 2 = 0 then (m * 2 ^ (2 * k), e - 2 * k) else (m * 2 ^ (2 * k + 1), e - 2 * k - 1)
      let r := isqrt m
      Fl.roundMag f false r (e / 2) (r * r != m)

/-- 1 / √x. -/
def rsqrtBits (f : FFmt) : Fl → Nat
  | .nan => f.nan
  | .inf neg => if neg then f.nan else 0
  | .fin neg m e =>
    if m = 0 then f.sign neg + f.infBits
    else if neg then f.nan
    else
      let (m, e) := if e % 2 = 0 then (m, e) else (2 * m, e - 1)
      let k := f.fb + 6 + m.log2
      let y := 2 ^ (2 * k)
      let r := isqrt (y / m)
      Fl.roundMag f false r (-(e / 2) - k) (r * r * m != y)

end Sfu

/-- 1 / x (R273). -/
def rcpBits (f : FFmt) (x : Fl) : Nat := Fl.div f (.fin false 1 0) x

end Sys2Proof.Machine
end

