-- ==== Sys2Proof/Machine/Vector.lean ====
section
/-! DEFINITION. Vector instructions of the execute core (R258 to R282). Every instruction has its action at issue (`act…`) and its
routing (`exec…`); R261 orders their faults, and a masked destination register is a source too (R260). -/

namespace Sys2Proof.Machine

/-! ### Lanes -/

/-- Element `i` of width `w` (R190). -/
def lane (v : Vec) (w i : Nat) : Nat := v.toNat / 2 ^ (w * i) % 2 ^ w

/-- A register from its elements, element 0 first. -/
def packNat (w : Nat) : List Nat → Nat
  | [] => 0
  | x :: l => x % 2 ^ w + 2 ^ w * packNat w l
def ofLanes (w : Nat) (l : List Nat) : Vec := BitVec.ofNat 4096 (packNat w l)

/-- A lane is active (R260). -/
def active (c : Ctx) (me : Bool) (msk : BitVec 3) (i : Nat) : Bool := !me || (c.m[msk.toFin]).getLsbD i

/-- Writes a mask register. -/
def setMask (c : Ctx) (k : BitVec 3) (w : BitVec 1024) : Ctx := { c with m := c.m.set k.toFin w k.toFin.isLt }

/-- The mask field of a D, A or B field (R214). -/
def mfield (f : BitVec 6) : BitVec 3 := fld f 0 3

/-- A mask from the bits of `n` lanes. -/
def maskOfLanes (n : Nat) (f : Nat → Bool) : BitVec 1024 :=
  BitVec.ofNat 1024 (packNat 1 ((List.range n).map fun i => if f i then 1 else 0))

/-! ### The frame of a vector instruction -/

/-- Takes the last-use bits of the sources into effect; two fields that name one input queue pop it once (R262). -/
def useSrcs (c : Ctx) (srcs : List (BitVec 6 × Bool)) (hand : Bool) : Ctx :=
  let c := srcs.foldl (fun c x => match vsrc x.1 with
    | .reg r => killV c r x.2 hand
    | _ => c) c
  let popped (d : Fin 4) : Bool := srcs.any fun x => vsrc x.1 == .nq d && x.2
  (List.finRange 4).foldl (fun c d => if popped d then nqPop c d else c) c

/-- A destination field names a register. -/
def isReg (f : BitVec 6) : Bool := match vsrc f with
  | .reg _ => true
  | _ => false

/-- One vector result of elements of width `w`: reads the sources, and the destination when it is a masked register, computes each
active lane with `f`, and writes the destination under the instruction's clock (R260 to R262). -/
def runLanes (s : State) (e : Entry) (srcs : List (BitVec 6 × Bool)) (d : BitVec 6) (me : Bool) (msk : BitVec 3) (w : Nat)
    (f : List Vec → Nat → Nat) : Res :=
  let keep := me && isReg d
  match readSrcs s e (srcs.map (·.1) ++ (if keep then [d] else [])) [d] with
  | .error r => .error r
  | .ok vs =>
    let vals := vs.map (·.val)
    let old : Vec := if keep then (vals.getLast?).getD 0 else 0
    let c := s.me
    let g (i : Nat) : Nat := if active c me msk i then f vals i else lane old w i
    writeDst (s.setMe (useSrcs c srcs e.hand)) d (ofLanes w ((List.range (4096 / w)).map g)) (clkOf e.i) e.hand

/-- Reads the sources of an instruction with the destination fields `ds` and gives their values and the context with last uses taken. -/
def takeSrcs (s : State) (e : Entry) (srcs : List (BitVec 6 × Bool)) (ds : List (BitVec 6) := []) : Except Raise (List Vec × State) :=
  match readSrcs s e (srcs.map (·.1)) ds with
  | .error r => .error r
  | .ok vs => .ok (vs.map (·.val), s.setMe (useSrcs s.me srcs e.hand))

/-- Writes the registers of a group from the lane values of each. -/
def writeGroup (s : State) (e : Entry) (d : BitVec 6) : List Vec → Nat → State
  | [], _ => s
  | v :: l, i => writeGroup (s.setMe (writeV s.me (fld (d + BitVec.ofNat 6 i) 0 5) v (clkOf e.i) e.hand)) e d l (i + 1)

/-- Delivers the registers of a group, once no ACCRD has still to write one of them (R160, R292). -/
def groupOut (s : State) (e : Entry) (d : BitVec 6) (l : List Vec) : Res :=
  if (List.range l.length).any fun i => s.me.v[(fld (d + BitVec.ofNat 6 i) 0 5 : BitVec 5).toFin].pend then .error (.wait (.operand 1))
  else .ok (writeGroup s e d l 0)

/-- A gather or scatter routed before, and not yet issued, reads mask `k` (R280). -/
def maskRead (c : Ctx) (id : Nat) (k : BitVec 3) : Bool :=
  (c.qL ++ c.qS).any fun x => x.kind == .instr && x.id < id && match x.i with
    | .ldvx o | .stvx o => o.me && o.msk == k
    | _ => false

/-- Writes a mask, which carries no tag (R178), once no earlier gather or scatter has still to read it (R280). -/
def writeMask (s : State) (e : Entry) (k : BitVec 3) (w : BitVec 1024) : Res :=
  if maskRead s.me e.id k then .error (.wait (.operand 1)) else .ok (s.setMe (setMask s.me k w))

/-- Writes the scalar result of a C-queue instruction (R160). -/
def scalarResult (s : State) (e : Entry) (r : BitVec 6) (w : Word) : State := s.setMe (writeS s.me r w (clkOf e.i) e.hand)

/-- `op.type vD, vA, vB`. -/
def lanes2 (o : VOp) (f : Nat → Nat → Nat) (e : Entry) (s : State) : Res :=
  let w := o.ty.width
  runLanes s e [(o.a, o.ua), (o.b, o.ub)] o.d o.me o.msk w fun v i =>
    f (lane (v.getD 0 0) w i) (lane (v.getD 1 0) w i)

/-- `op.type vD, vA`. -/
def lanes1 (o : VOp) (f : Nat → Nat) (e : Entry) (s : State) : Res :=
  let w := o.ty.width
  runLanes s e [(o.a, o.ua)] o.d o.me o.msk w fun v i => f (lane (v.getD 0 0) w i)

/-- The FMA group: D is the third operand (R265). -/
def lanes3 (o : VOp) (f : Nat → Nat → Nat → Nat) (e : Entry) (s : State) : Res :=
  let w := o.ty.width
  runLanes s e [(o.a, o.ua), (o.b, o.ub), (o.d, o.ud)] o.d o.me o.msk w fun v i =>
    f (lane (v.getD 0 0) w i) (lane (v.getD 1 0) w i) (lane (v.getD 2 0) w i)

/-- The element value of an immediate (R222). -/
def immOf (t : ElemType) (imm : BitVec 16) : Nat :=
  match t with
  | .fp32 => imm.toNat * 65536
  | .bf16 | .fp16 => imm.toNat
  | _ => if t.signed then (imm.signExtend 32).toNat % 2 ^ t.width else imm.toNat % 2 ^ t.width

/-- `op.type vD, vA, imm` (R269). -/
def lanesImm (o : VImm) (f : Nat → Nat → Nat) (e : Entry) (s : State) : Res :=
  let w := o.ty.width
  let b := immOf o.ty o.imm
  runLanes s e [(o.a, o.ua)] o.d o.me o.msk w fun v i => f (lane (v.getD 0 0) w i) b

/-! ### Arithmetic (R264, R265) -/

def addE (t : ElemType) (sat : Bool) (a b : Nat) : Nat :=
  if t.isF then addBits (fmtOf t) a b else (if sat then satInt else wrapInt) t (intOf t a + intOf t b)
def subE (t : ElemType) (sat : Bool) (a b : Nat) : Nat :=
  if t.isF then subBits (fmtOf t) a b else (if sat then satInt else wrapInt) t (intOf t a - intOf t b)
def mulE (t : ElemType) (a b : Nat) : Nat :=
  if t.isF then mulBits (fmtOf t) a b else wrapInt t (intOf t a * intOf t b)
def isNan (t : ElemType) (a : Nat) : Bool := t.isF && flOf t a == .nan
/-- The smaller; a NaN gives the canonical NaN and −0 is below +0. -/
def minE (t : ElemType) (a b : Nat) : Nat :=
  if isNan t a || isNan t b then (fmtOf t).nan else if orderKey t b < orderKey t a then b else a
def maxE (t : ElemType) (a b : Nat) : Nat :=
  if isNan t a || isNan t b then (fmtOf t).nan else if orderKey t a < orderKey t b then b else a
def absE (t : ElemType) (sat : Bool) (a : Nat) : Nat :=
  if t.isF then (flOf t a).abs.encode (fmtOf t) else (if sat then satInt else wrapInt) t (intOf t a).natAbs
def negE (t : ElemType) (sat : Bool) (a : Nat) : Nat :=
  if t.isF then (flOf t a).neg.encode (fmtOf t) else (if sat then satInt else wrapInt) t (-(intOf t a))
def divE (t : ElemType) (a b : Nat) : Nat := Fl.div (fmtOf t) (flOf t a) (flOf t b)
/-- The high w bits of the exact 2w-bit product. -/
def mulhE (t : ElemType) (a b : Nat) : Nat := wrapInt t ((intOf t a * intOf t b).fdiv (2 ^ t.width))
/-- ± a × b ± d, rounded once. -/
def fmaE (t : ElemType) (negP negD : Bool) (a b d : Nat) : Nat :=
  if t.isF then
    let x := flOf t a
    let z := flOf t d
    fmaBits (fmtOf t) (if negP then x.neg else x) (flOf t b) (if negD then z.neg else z)
  else
    let p := intOf t a * intOf t b
    wrapInt t ((if negP then -p else p) + (if negD then -(intOf t d) else intOf t d))

/-! ### Logic, shifts, comparison (R266, R267) -/

def notE (t : ElemType) (a : Nat) : Nat := 2 ^ t.width - 1 - a
def andnE (t : ElemType) (a b : Nat) : Nat := a &&& notE t b
def sllE (t : ElemType) (a b : Nat) : Nat := a * 2 ^ (b % t.width) % 2 ^ t.width
def srlE (t : ElemType) (a b : Nat) : Nat := a / 2 ^ (b % t.width)
/-- Right shift with copies of bit w − 1. -/
def sraE (t : ElemType) (a b : Nat) : Nat :=
  let x : Int := if 2 ^ (t.width - 1) ≤ a then (a : Int) - 2 ^ t.width else a
  (x.fdiv (2 ^ (b % t.width)) % 2 ^ t.width).toNat
def rotlE (t : ElemType) (a b : Nat) : Nat :=
  let k := b % t.width
  a * 2 ^ k % 2 ^ t.width + a / 2 ^ (t.width - k)

/-- A condition of VCMP: a NaN makes NE alone true. -/
def cmpE (t : ElemType) (cc : VCond) (a b : Nat) : Bool :=
  let o : Option Ordering :=
    if isNan t a || isNan t b then none
    else if t.isF then some ((flOf t a).cmp (flOf t b)) else some (compare (intOf t a) (intOf t b))
  match cc with
  | .eq => o == some .eq
  | .ne => o != some .eq
  | .lt => o == some .lt
  | .le => o == some .lt || o == some .eq
  | .gt => o == some .gt
  | .ge => o == some .gt || o == some .eq

/-- VCMP: bits of inactive lanes and from n on are clear (R267). -/
def compareTo (srcs : List (BitVec 6 × Bool)) (d : BitVec 6) (t : ElemType) (me : Bool) (msk : BitVec 3)
    (f : List Vec → Nat → Bool) (e : Entry) (s : State) : Res :=
  match takeSrcs s e srcs with
  | .error r => .error r
  | .ok (v, s) =>
    writeMask s e (mfield d) (maskOfLanes t.lanes fun i => active s.me me msk i && f v i)

/-! ### Conversions (R270) -/

/-- The fields of a register group of `f`, first at `d`. -/
def groupFields (d : BitVec 6) (f : Nat) : List (BitVec 6) := (List.range f).map fun i => d + BitVec.ofNat 6 i

/-- VCVT. -/
def actVcvt (dst : ElemType) (o : VOp) (e : Entry) (s : State) : Res :=
  let ws := o.ty.width
  let wd := dst.width
  let cv (x : Nat) : Nat := convert o.ty dst (o.mod.getLsbD 0) (o.mod.getLsbD 1) x
  if ws < wd then
    let f := wd / ws
    let dd := groupFields o.d f
    match readSrcs s e (o.a :: (if o.me then dd else [])) with
    | .error r => .error r
    | .ok vs =>
      let a := (vs.getD 0 {}).val
      let c := s.me
      let one (k : Nat) : Vec :=
        let old : Vec := (vs.getD (k + 1) {}).val
        ofLanes wd ((List.range (4096 / wd)).map fun i =>
          let p := f * i + k
          if active c o.me o.msk p then cv (lane a ws p) else lane old wd i)
      groupOut (s.setMe (useSrcs c [(o.a, o.ua)] e.hand)) e o.d ((List.range f).map one)
  else
    let f := ws / wd
    runLanes s e ((groupFields o.a f).map (·, o.ua)) o.d o.me o.msk wd fun v i =>
      cv (lane (v.getD (i % f) 0) ws (i / f))

/-! ### Reductions and scans (R271, R272) -/

/-- The running sum of VRSUM and VSCAN over the terms of lanes: all prefixes are wanted by VSCAN. With an empty mask a NaN initial value becomes the
canonical NaN, as every sum does; VRMAX and VRMIN then return the pattern that they were given (R201, R271). (DESIGN CHOICE: log entry 106.) -/
def reduceSum (t : ElemType) (init : Nat) (xs : List Nat) : Nat :=
  if t.isF then chunked init (xs.map (flOf t)) else satSum init (xs.map (intOf t))

/-- The active lanes of a source, an inactive one as zero. -/
def termLanes (c : Ctx) (o : VOp) (v : Vec) (n : Nat) : List Nat :=
  (List.range n).map fun i => if active c o.me o.msk i then lane v o.ty.width i else 0

/-- VRSUM: lane 0 receives the 32-bit result, every other byte zero. -/
def actVrsum (_np : BitVec 4) (o : VOp) (e : Entry) (s : State) : Res :=
  match takeSrcs s e [(o.a, o.ua), (o.b, o.ub)] [o.d] with
  | .error r => .error r
  | .ok (v, t) =>
    let r := reduceSum o.ty (lane (v.getD 1 0) 32 0) (termLanes s.me o (v.getD 0 0) o.ty.lanes)
    writeDst t o.d (ofLanes 32 [r]) (clkOf e.i) e.hand

/-- VRMAX and VRMIN. -/
def reduceCmp (f : Nat → Nat → Nat) (o : VOp) (e : Entry) (s : State) : Res :=
  match takeSrcs s e [(o.a, o.ua), (o.b, o.ub)] [o.d] with
  | .error r => .error r
  | .ok (v, t) =>
    let w := o.ty.width
    let xs := ((List.range o.ty.lanes).filter (active s.me o.me o.msk)).map (lane (v.getD 0 0) w)
    writeDst t o.d (ofLanes w [xs.foldl f (lane (v.getD 1 0) w 0)]) (clkOf e.i) e.hand

/-- The prefix sums of a chunk: from the accumulator before the chunk, each prefix is one chunk of its own (R200, R208). -/
def scanChunk (c : Nat) (xs : List Fl) : List Nat := (List.range xs.length).map fun i => sumChunk c (xs.take (i + 1))

/-- Prefix sums of floating-point terms, chunk by chunk. -/
def scanChunks : List (List Fl) → Nat → List Nat
  | [], _ => []
  | xs :: l, c => scanChunk c xs ++ scanChunks l (sumChunk c xs)

/-- Prefix sums of integer terms (R204). -/
def scanInts : List Int → Nat → List Nat
  | [], _ => []
  | x :: l, c => let r := satSum c [x]; r :: scanInts l r

/-- VSCAN: every result lane is written, whatever the mask (R272). -/
def actVscan (_np : BitVec 4) (o : VOp) (e : Entry) (s : State) : Res :=
  match takeSrcs s e [(o.a, o.ua), (o.b, o.ub)] with
  | .error r => .error r
  | .ok (v, t) =>
    let xs := termLanes s.me o (v.getD 0 0) o.ty.lanes
    let init := lane (v.getD 1 0) 32 0
    let rs := if o.ty.isF then scanChunks (chunksOf (xs.map (flOf o.ty))) init else scanInts (xs.map (intOf o.ty)) init
    let f := 32 / o.ty.width
    let one (k : Nat) : Vec := ofLanes 32 ((List.range 128).map fun i => rs.getD (f * i + k) 0)
    groupOut t e o.d ((List.range f).map one)

/-! ### Compress, expand, histograms, selection (R274 to R276) -/

/-- VCOMPRESS: every lane of vD is written, and the count goes to s[B]. -/
def actVcompress (o : VOp) (e : Entry) (s : State) : Res :=
  match takeSrcs s e [(o.a, o.ua)] [o.d] with
  | .error r => .error r
  | .ok (v, t) =>
    let w := o.ty.width
    let xs := ((List.range o.ty.lanes).filter (active s.me true o.msk)).map (lane (v.getD 0 0) w)
    match writeDst t o.d (ofLanes w xs) (clkOf e.i) e.hand with
    | .error r => .error r
    | .ok t => .ok (scalarResult t e o.b (BitVec.ofNat 64 xs.length))

/-- The lanes of VEXPAND: the next source lane for each set mask bit. -/
def expand (c : Ctx) (msk : BitVec 3) (v : Vec) (w : Nat) : Nat → Nat → Nat → List Nat
  | 0, _, _ => []
  | n + 1, i, j =>
    if active c true msk i then lane v w j :: expand c msk v w n (i + 1) (j + 1) else 0 :: expand c msk v w n (i + 1) j

/-- VEXPAND. -/
def actVexpand (o : VOp) (e : Entry) (s : State) : Res :=
  match takeSrcs s e [(o.a, o.ua)] [o.d] with
  | .error r => .error r
  | .ok (v, t) =>
    writeDst t o.d (ofLanes o.ty.width (expand s.me o.msk (v.getD 0 0) o.ty.width o.ty.lanes 0 0)) (clkOf e.i) e.hand

/-- VHIST: adds the active lanes' low bytes to the 256 bins of vD and vD+1 (R275). -/
def actVhist (o : VOp) (e : Entry) (s : State) : Res :=
  match readSrcs s e [o.a, o.d, o.d + 1] with
  | .error r => .error r
  | .ok vs =>
    let val (i : Nat) : Vec := (vs.getD i {}).val
    let xs := ((List.range o.ty.lanes).filter (active s.me o.me o.msk)).map fun i => lane (val 0) o.ty.width i % 256
    let bin (k i : Nat) : Nat := (lane (val (k + 1)) 32 i + xs.count (128 * k + i)) % 2 ^ 32
    let one (k : Nat) : Vec := ofLanes 32 ((List.range 128).map (bin k))
    groupOut (s.setMe (useSrcs s.me [(o.a, o.ua)] e.hand)) e o.d [one 0, one 1]

/-- VDIGIT: digit k of b bits (R275). -/
def digitE (md : BitVec 4) (a : Nat) : Nat :=
  let b := if md.getLsbD 3 then 4 else 8
  a / 2 ^ (b * (fld md 0 3 : BitVec 3).toNat) % 2 ^ b

/-- A candidate of VTOPK: key, index, pattern. -/
structure Cand where
  key : Nat
  idx : Nat
  val : Nat
  deriving DecidableEq, Repr

/-- Ranks before: by key, then by lower index (R212, R276). -/
def Cand.before (asc : Bool) (x y : Cand) : Bool :=
  if x.key = y.key then decide (x.idx < y.idx) else if asc then decide (x.key < y.key) else decide (y.key < x.key)

/-- Inserts a candidate in rank order. -/
def insertCand (asc : Bool) (x : Cand) : List Cand → List Cand
  | [] => [x]
  | y :: l => if x.before asc y then x :: y :: l else y :: insertCand asc x l

/-- VTOPK (R276). UA of VTOPK.PAIR marks both registers of the pair. (DEDUCED: log entry 129.) -/
def actVtopk (k : BitVec 8) (o : VOp) (e : Entry) (s : State) : Res :=
  let pair := o.mod.getLsbD 1
  let asc := o.mod.getLsbD 0
  match takeSrcs s e ((o.a, o.ua) :: (if pair then [(o.a + 1, o.ua)] else [])) with
  | .error r => .error r
  | .ok (v, t) =>
    let w := o.ty.width
    let n := if pair then min o.ty.lanes 128 else o.ty.lanes
    let idx (i : Nat) : Nat := if pair then lane (v.getD 1 0) 32 i else ((e.sc 0).toNat + i) % 2 ^ 32
    let cs := ((List.range n).filter (active s.me o.me o.msk)).map fun i =>
      let x := lane (v.getD 0 0) w i
      (⟨orderKey o.ty x, idx i, x⟩ : Cand)
    let sel := (cs.foldl (fun l x => insertCand asc x l) []).take k.toNat
    let ids := sel.map (·.idx) ++ List.replicate (128 - sel.length) 0xFFFFFFFF
    groupOut t e o.d [ofLanes w (sel.map (·.val)), ofLanes 32 ids]

/-! ### Codebooks (R277 to R280) -/

/-- The entry decodes through a CB4 stream (R280). -/
def cbLoad (e : Entry) : Bool :=
  e.kind == .instr && (match e.i with
    | .ldv _ | .ldvx _ | .ldt _ _ _ _ => (fld e.strm.record 0 4 : BitVec 4) == 11
    | _ => false)

/-- VCBDEC (R278). -/
def actVcbdec (cb : BitVec 3) (o : VOp) (e : Entry) (s : State) : Res :=
  let q := o.mod.toNat
  runLanes s e [(o.a, o.ua), (o.b, o.ub)] o.d o.me o.msk 16 fun v i =>
    cbValue s.me.cb[cb.toFin] (lane (v.getD 0 0) 4 (256 * q + i)) (lane (v.getD 1 0) 16 i)

/-- |x − y| of two finite values as an exact fraction, for comparison at a common exponent `lo`. -/
def dist (lo : Int) : Fl → Fl → Nat
  | .fin a m e, .fin b n g => (Fl.scaled a m e lo - Fl.scaled b n g lo).natAbs
  | _, _ => 0

/-- Of codes 0 to 15 the lowest for which `better` never prefers a later one; `ok` filters the candidates. -/
def bestCode (ok : Nat → Bool) (better : Nat → Nat → Bool) : Nat :=
  ((List.range 16).foldl (fun b c => if !ok c then b else match b with
    | none => some c
    | some k => if better c k then some c else b) (none : Option Nat)).getD 0

/-- The code of VCBENC for value `x` under scale `sc` (R279). The exact products cb[c] × s are compared. -/
def encodeCode (cb : BitVec 256) (x sc : Nat) : Nat :=
  let p (c : Nat) : Fl := (Fl.decode bf16 (cb.toNat / 2 ^ (16 * c) % 65536)).mul (Fl.decode bf16 sc)
  let lo : Int := -400
  let num (c : Nat) : Bool := p c != .nan
  match Fl.decode bf16 x with
  | .nan => bestCode (fun c => p c == .nan) (fun _ _ => false)
  | .inf neg =>
    if (List.range 16).any (fun c => p c == .inf neg) then bestCode (fun c => p c == .inf neg) (fun _ _ => false)
    else bestCode num fun a b => (p a).cmp (p b) == (if neg then .lt else .gt)
  | xv =>
    let fin (c : Nat) : Bool := match p c with
      | .fin _ _ _ => true
      | _ => false
    bestCode num fun a b =>
      if fin a && fin b then decide (dist lo xv (p a) < dist lo xv (p b)) else fin a && !fin b

/-- VCBENC (R279): the other quarters and inactive codes keep their values. -/
def actVcbenc (cb : BitVec 3) (o : VOp) (e : Entry) (s : State) : Res :=
  match readSrcs s e [o.a, o.b, o.d] [o.d] with
  | .error r => .error r
  | .ok vs =>
    let val (i : Nat) : Vec := (vs.getD i {}).val
    let c := s.me
    let q := o.mod.toNat
    let code (j : Nat) : Nat :=
      let i := j - 256 * q
      if 256 * q ≤ j && j < 256 * q + 256 && active c o.me o.msk i then
        encodeCode c.cb[cb.toFin] (lane (val 0) 16 i) (lane (val 1) 16 i)
      else lane (val 2) 4 j
    writeDst (s.setMe (useSrcs c [(o.a, o.ua), (o.b, o.ub)] e.hand)) o.d (ofLanes 4 ((List.range 1024).map code))
      (clkOf e.i) e.hand

/-- CBLD (R277): it waits for earlier loads that decode through a codebook (R280). (DEDUCED: log entry 37.) -/
def actCbld (cb : BitVec 3) (o : VOp) (e : Entry) (s : State) : Res :=
  let r : Res := match takeSrcs s e [(o.a, o.ua)] with
    | .error r => .error r
    | .ok (v, t) => .ok (t.setMe { t.me with cb := t.me.cb.set cb.toFin (fld (v.getD 0 0) 0 256) cb.toFin.isLt })
  if s.me.qL.any fun x => cbLoad x && x.id < e.id then behind (.operand 1) r else r

/-! ### Masks (R281) -/

/-- A mask operation on two masks. -/
def mask2 (o : VOp) (f : BitVec 1024 → BitVec 1024 → BitVec 1024) (e : Entry) (s : State) : Res :=
  writeMask s e (mfield o.d) (f s.me.m[(mfield o.a).toFin] s.me.m[(mfield o.b).toFin])

/-- Set bits below `n`. -/
def countBits (m : BitVec 1024) (n : Nat) : Nat := ((List.range n).filter m.getLsbD).length
/-- Lowest set bit below `n`, or n. -/
def firstBit (m : BitVec 1024) (n : Nat) : Nat := ((List.range n).find? m.getLsbD).getD n

/-- VTOM. -/
def actVtom (o : VOp) (e : Entry) (s : State) : Res :=
  match takeSrcs s e [(o.a, o.ua)] with
  | .error r => .error r
  | .ok (v, t) => writeMask t e (mfield o.d) (fld (v.getD 0 0) 0 1024)

/-- MTOV. -/
def actMtov (o : VOp) (e : Entry) (s : State) : Res :=
  writeDst s o.d (s.me.m[(mfield o.a).toFin].setWidth 4096) (clkOf e.i) e.hand

/-! ### Extract, insert, splat (R282) -/

/-- VEXTR. -/
def actVextr (o : VOp) (e : Entry) (s : State) : Res :=
  match takeSrcs s e [(o.a, o.ua)] with
  | .error r => .error r
  | .ok (v, t) =>
    let j := (e.sc 0).toNat
    let x := if j < o.ty.lanes then lane (v.getD 0 0) o.ty.width j else 0
    .ok (scalarResult t e o.d (if o.ty.signed then BitVec.ofInt 64 (intOf o.ty x) else BitVec.ofNat 64 x))

/-- VINS: it reads vD. -/
def actVins (o : VOp) (e : Entry) (s : State) : Res :=
  let w := o.ty.width
  runLanes s e [(o.d, o.ud)] o.d false 0 w fun v i =>
    if i = (e.sc 1).toNat then (e.sc 0).toNat % 2 ^ w else lane (v.getD 0 0) w i

/-- VSPLAT. -/
def actVsplat (o : VOp) (e : Entry) (s : State) : Res :=
  runLanes s e [] o.d o.me o.msk o.ty.width fun _ _ => (e.sc 0).toNat % 2 ^ o.ty.width

/-! ### The instructions -/

/-- VADD (R264). -/
def actVadd (o : VOp) (e : Entry) (s : State) : Res := lanes2 o (addE o.ty (o.mod.getLsbD 0)) e s

/-- VADD (R264). -/
def execVadd (o : VOp) (s : State) : Host.Outcome State Fault Refusal :=
  finish s (.vadd o) (routeTo s (.vadd o) .c {} (actVadd o))

/-- VSUB (R264). -/
def actVsub (o : VOp) (e : Entry) (s : State) : Res := lanes2 o (subE o.ty (o.mod.getLsbD 0)) e s

/-- VSUB (R264). -/
def execVsub (o : VOp) (s : State) : Host.Outcome State Fault Refusal :=
  finish s (.vsub o) (routeTo s (.vsub o) .c {} (actVsub o))

/-- VMUL (R264). -/
def actVmul (o : VOp) (e : Entry) (s : State) : Res := lanes2 o (mulE o.ty) e s

/-- VMUL (R264). -/
def execVmul (o : VOp) (s : State) : Host.Outcome State Fault Refusal :=
  finish s (.vmul o) (routeTo s (.vmul o) .c {} (actVmul o))

/-- VMIN (R264). -/
def actVmin (o : VOp) (e : Entry) (s : State) : Res := lanes2 o (minE o.ty) e s

/-- VMIN (R264). -/
def execVmin (o : VOp) (s : State) : Host.Outcome State Fault Refusal :=
  finish s (.vmin o) (routeTo s (.vmin o) .c {} (actVmin o))

/-- VMAX (R264). -/
def actVmax (o : VOp) (e : Entry) (s : State) : Res := lanes2 o (maxE o.ty) e s

/-- VMAX (R264). -/
def execVmax (o : VOp) (s : State) : Host.Outcome State Fault Refusal :=
  finish s (.vmax o) (routeTo s (.vmax o) .c {} (actVmax o))

/-- VABS (R264). -/
def actVabs (o : VOp) (e : Entry) (s : State) : Res := lanes1 o (absE o.ty (o.mod.getLsbD 0)) e s

/-- VABS (R264). -/
def execVabs (o : VOp) (s : State) : Host.Outcome State Fault Refusal :=
  finish s (.vabs o) (routeTo s (.vabs o) .c {} (actVabs o))

/-- VNEG (R264). -/
def actVneg (o : VOp) (e : Entry) (s : State) : Res := lanes1 o (negE o.ty (o.mod.getLsbD 0)) e s

/-- VNEG (R264). -/
def execVneg (o : VOp) (s : State) : Host.Outcome State Fault Refusal :=
  finish s (.vneg o) (routeTo s (.vneg o) .c {} (actVneg o))

/-- VDIV (R264). -/
def actVdiv (o : VOp) (e : Entry) (s : State) : Res := lanes2 o (divE o.ty) e s

/-- VDIV (R264). -/
def execVdiv (o : VOp) (s : State) : Host.Outcome State Fault Refusal :=
  finish s (.vdiv o) (routeTo s (.vdiv o) .c {} (actVdiv o))

/-- VMULH (R264). -/
def actVmulh (o : VOp) (e : Entry) (s : State) : Res := lanes2 o (mulhE o.ty) e s

/-- VMULH (R264). -/
def execVmulh (o : VOp) (s : State) : Host.Outcome State Fault Refusal :=
  finish s (.vmulh o) (routeTo s (.vmulh o) .c {} (actVmulh o))

/-- VFMA (R265): a × b + d. -/
def actVfma (o : VOp) (e : Entry) (s : State) : Res := lanes3 o (fmaE o.ty false false) e s

/-- VFMA (R265): a × b + d. -/
def execVfma (o : VOp) (s : State) : Host.Outcome State Fault Refusal :=
  finish s (.vfma o) (routeTo s (.vfma o) .c {} (actVfma o))

/-- VFMS (R265): a × b − d. -/
def actVfms (o : VOp) (e : Entry) (s : State) : Res := lanes3 o (fmaE o.ty false true) e s

/-- VFMS (R265): a × b − d. -/
def execVfms (o : VOp) (s : State) : Host.Outcome State Fault Refusal :=
  finish s (.vfms o) (routeTo s (.vfms o) .c {} (actVfms o))

/-- VFNMA (R265): d − a × b. -/
def actVfnma (o : VOp) (e : Entry) (s : State) : Res := lanes3 o (fmaE o.ty true false) e s

/-- VFNMA (R265): d − a × b. -/
def execVfnma (o : VOp) (s : State) : Host.Outcome State Fault Refusal :=
  finish s (.vfnma o) (routeTo s (.vfnma o) .c {} (actVfnma o))

/-- VAND (R266). -/
def actVand (o : VOp) (e : Entry) (s : State) : Res := lanes2 o (fun a b => a &&& b) e s

/-- VAND (R266). -/
def execVand (o : VOp) (s : State) : Host.Outcome State Fault Refusal :=
  finish s (.vand o) (routeTo s (.vand o) .c {} (actVand o))

/-- VOR (R266). -/
def actVor (o : VOp) (e : Entry) (s : State) : Res := lanes2 o (fun a b => a ||| b) e s

/-- VOR (R266). -/
def execVor (o : VOp) (s : State) : Host.Outcome State Fault Refusal :=
  finish s (.vor o) (routeTo s (.vor o) .c {} (actVor o))

/-- VXOR (R266). -/
def actVxor (o : VOp) (e : Entry) (s : State) : Res := lanes2 o (fun a b => a ^^^ b) e s

/-- VXOR (R266). -/
def execVxor (o : VOp) (s : State) : Host.Outcome State Fault Refusal :=
  finish s (.vxor o) (routeTo s (.vxor o) .c {} (actVxor o))

/-- VANDN (R266). -/
def actVandn (o : VOp) (e : Entry) (s : State) : Res := lanes2 o (andnE o.ty) e s

/-- VANDN (R266). -/
def execVandn (o : VOp) (s : State) : Host.Outcome State Fault Refusal :=
  finish s (.vandn o) (routeTo s (.vandn o) .c {} (actVandn o))

/-- VNOT (R266). -/
def actVnot (o : VOp) (e : Entry) (s : State) : Res := lanes1 o (notE o.ty) e s

/-- VNOT (R266). -/
def execVnot (o : VOp) (s : State) : Host.Outcome State Fault Refusal :=
  finish s (.vnot o) (routeTo s (.vnot o) .c {} (actVnot o))

/-- VSLL (R266). -/
def actVsll (o : VOp) (e : Entry) (s : State) : Res := lanes2 o (sllE o.ty) e s

/-- VSLL (R266). -/
def execVsll (o : VOp) (s : State) : Host.Outcome State Fault Refusal :=
  finish s (.vsll o) (routeTo s (.vsll o) .c {} (actVsll o))

/-- VSRL (R266). -/
def actVsrl (o : VOp) (e : Entry) (s : State) : Res := lanes2 o (srlE o.ty) e s

/-- VSRL (R266). -/
def execVsrl (o : VOp) (s : State) : Host.Outcome State Fault Refusal :=
  finish s (.vsrl o) (routeTo s (.vsrl o) .c {} (actVsrl o))

/-- VSRA (R266). -/
def actVsra (o : VOp) (e : Entry) (s : State) : Res := lanes2 o (sraE o.ty) e s

/-- VSRA (R266). -/
def execVsra (o : VOp) (s : State) : Host.Outcome State Fault Refusal :=
  finish s (.vsra o) (routeTo s (.vsra o) .c {} (actVsra o))

/-- VROTL (R266). -/
def actVrotl (o : VOp) (e : Entry) (s : State) : Res := lanes2 o (rotlE o.ty) e s

/-- VROTL (R266). -/
def execVrotl (o : VOp) (s : State) : Host.Outcome State Fault Refusal :=
  finish s (.vrotl o) (routeTo s (.vrotl o) .c {} (actVrotl o))

/-- VCMP (R267). -/
def actVcmp (cc : VCond) (o : VOp) (e : Entry) (s : State) : Res := compareTo [(o.a, o.ua), (o.b, o.ub)] o.d o.ty o.me o.msk (fun v i =>
    cmpE o.ty cc (lane (v.getD 0 0) o.ty.width i) (lane (v.getD 1 0) o.ty.width i)) e s

/-- VCMP (R267). -/
def execVcmp (cc : VCond) (o : VOp) (s : State) : Host.Outcome State Fault Refusal :=
  finish s (.vcmp cc o) (routeTo s (.vcmp cc o) .c {} (actVcmp cc o))

/-- VSEL (R268): every lane is written. -/
def actVsel (o : VOp) (e : Entry) (s : State) : Res := (fun e s => runLanes s e [(o.a, o.ua), (o.b, o.ub)] o.d false 0 o.ty.width fun v i =>
    lane (v.getD (if active s.me true o.msk i then 0 else 1) 0) o.ty.width i) e s

/-- VSEL (R268): every lane is written. -/
def execVsel (o : VOp) (s : State) : Host.Outcome State Fault Refusal :=
  finish s (.vsel o) (routeTo s (.vsel o) .c {} (actVsel o))

/-- VMOV (R268). -/
def actVmov (o : VOp) (e : Entry) (s : State) : Res := lanes1 o (fun a => a) e s

/-- VMOV (R268). -/
def execVmov (o : VOp) (s : State) : Host.Outcome State Fault Refusal :=
  finish s (.vmov o) (routeTo s (.vmov o) .c {} (actVmov o))

/-- VADD with an immediate (R269). -/
def actVaddImm (o : VImm) (e : Entry) (s : State) : Res := lanesImm o (addE o.ty false) e s

/-- VADD with an immediate (R269). -/
def execVaddImm (o : VImm) (s : State) : Host.Outcome State Fault Refusal :=
  finish s (.vaddImm o) (routeTo s (.vaddImm o) .c {} (actVaddImm o))

/-- VSUB with an immediate (R269). -/
def actVsubImm (o : VImm) (e : Entry) (s : State) : Res := lanesImm o (subE o.ty false) e s

/-- VSUB with an immediate (R269). -/
def execVsubImm (o : VImm) (s : State) : Host.Outcome State Fault Refusal :=
  finish s (.vsubImm o) (routeTo s (.vsubImm o) .c {} (actVsubImm o))

/-- VMUL with an immediate (R269). -/
def actVmulImm (o : VImm) (e : Entry) (s : State) : Res := lanesImm o (mulE o.ty) e s

/-- VMUL with an immediate (R269). -/
def execVmulImm (o : VImm) (s : State) : Host.Outcome State Fault Refusal :=
  finish s (.vmulImm o) (routeTo s (.vmulImm o) .c {} (actVmulImm o))

/-- VMIN with an immediate (R269). -/
def actVminImm (o : VImm) (e : Entry) (s : State) : Res := lanesImm o (minE o.ty) e s

/-- VMIN with an immediate (R269). -/
def execVminImm (o : VImm) (s : State) : Host.Outcome State Fault Refusal :=
  finish s (.vminImm o) (routeTo s (.vminImm o) .c {} (actVminImm o))

/-- VMAX with an immediate (R269). -/
def actVmaxImm (o : VImm) (e : Entry) (s : State) : Res := lanesImm o (maxE o.ty) e s

/-- VMAX with an immediate (R269). -/
def execVmaxImm (o : VImm) (s : State) : Host.Outcome State Fault Refusal :=
  finish s (.vmaxImm o) (routeTo s (.vmaxImm o) .c {} (actVmaxImm o))

/-- VAND with an immediate (R269). -/
def actVandImm (o : VImm) (e : Entry) (s : State) : Res := lanesImm o (fun a b => a &&& b) e s

/-- VAND with an immediate (R269). -/
def execVandImm (o : VImm) (s : State) : Host.Outcome State Fault Refusal :=
  finish s (.vandImm o) (routeTo s (.vandImm o) .c {} (actVandImm o))

/-- VOR with an immediate (R269). -/
def actVorImm (o : VImm) (e : Entry) (s : State) : Res := lanesImm o (fun a b => a ||| b) e s

/-- VOR with an immediate (R269). -/
def execVorImm (o : VImm) (s : State) : Host.Outcome State Fault Refusal :=
  finish s (.vorImm o) (routeTo s (.vorImm o) .c {} (actVorImm o))

/-- VXOR with an immediate (R269). -/
def actVxorImm (o : VImm) (e : Entry) (s : State) : Res := lanesImm o (fun a b => a ^^^ b) e s

/-- VXOR with an immediate (R269). -/
def execVxorImm (o : VImm) (s : State) : Host.Outcome State Fault Refusal :=
  finish s (.vxorImm o) (routeTo s (.vxorImm o) .c {} (actVxorImm o))

/-- VANDN with an immediate (R269). -/
def actVandnImm (o : VImm) (e : Entry) (s : State) : Res := lanesImm o (andnE o.ty) e s

/-- VANDN with an immediate (R269). -/
def execVandnImm (o : VImm) (s : State) : Host.Outcome State Fault Refusal :=
  finish s (.vandnImm o) (routeTo s (.vandnImm o) .c {} (actVandnImm o))

/-- VSLL with an immediate (R269). -/
def actVsllImm (o : VImm) (e : Entry) (s : State) : Res := lanesImm o (sllE o.ty) e s

/-- VSLL with an immediate (R269). -/
def execVsllImm (o : VImm) (s : State) : Host.Outcome State Fault Refusal :=
  finish s (.vsllImm o) (routeTo s (.vsllImm o) .c {} (actVsllImm o))

/-- VSRL with an immediate (R269). -/
def actVsrlImm (o : VImm) (e : Entry) (s : State) : Res := lanesImm o (srlE o.ty) e s

/-- VSRL with an immediate (R269). -/
def execVsrlImm (o : VImm) (s : State) : Host.Outcome State Fault Refusal :=
  finish s (.vsrlImm o) (routeTo s (.vsrlImm o) .c {} (actVsrlImm o))

/-- VSRA with an immediate (R269). -/
def actVsraImm (o : VImm) (e : Entry) (s : State) : Res := lanesImm o (sraE o.ty) e s

/-- VSRA with an immediate (R269). -/
def execVsraImm (o : VImm) (s : State) : Host.Outcome State Fault Refusal :=
  finish s (.vsraImm o) (routeTo s (.vsraImm o) .c {} (actVsraImm o))

/-- VROTL with an immediate (R269). -/
def actVrotlImm (o : VImm) (e : Entry) (s : State) : Res := lanesImm o (rotlE o.ty) e s

/-- VROTL with an immediate (R269). -/
def execVrotlImm (o : VImm) (s : State) : Host.Outcome State Fault Refusal :=
  finish s (.vrotlImm o) (routeTo s (.vrotlImm o) .c {} (actVrotlImm o))

/-- VCMP with an immediate (R269). -/
def actVcmpImm (cc : VCond) (o : VImm) (e : Entry) (s : State) : Res := compareTo [(o.a, o.ua)] o.d o.ty o.me o.msk (fun v i =>
    cmpE o.ty cc (lane (v.getD 0 0) o.ty.width i) (immOf o.ty o.imm)) e s

/-- VCMP with an immediate (R269). -/
def execVcmpImm (cc : VCond) (o : VImm) (s : State) : Host.Outcome State Fault Refusal :=
  finish s (.vcmpImm cc o) (routeTo s (.vcmpImm cc o) .c {} (actVcmpImm cc o))

/-- VMOVI (R269). -/
def actVmovi (o : VImm) (e : Entry) (s : State) : Res := (fun e s => runLanes s e [] o.d o.me o.msk o.ty.width fun _ _ => immOf o.ty o.imm) e s

/-- VMOVI (R269). -/
def execVmovi (o : VImm) (s : State) : Host.Outcome State Fault Refusal :=
  finish s (.vmovi o) (routeTo s (.vmovi o) .c {} (actVmovi o))

/-- VCVT (R270). -/
def execVcvt (dst : ElemType) (o : VOp) (s : State) : Host.Outcome State Fault Refusal :=
  finish s (.vcvt dst o) (routeTo s (.vcvt dst o) .c {} (actVcvt dst o))

/-- VRSUM (R271). -/
def execVrsum (np : BitVec 4) (o : VOp) (s : State) : Host.Outcome State Fault Refusal :=
  finish s (.vrsum np o) (routeTo s (.vrsum np o) .c {} (actVrsum np o))

/-- VRMAX (R271). -/
def actVrmax (o : VOp) (e : Entry) (s : State) : Res := reduceCmp (maxE o.ty) o e s

/-- VRMAX (R271). -/
def execVrmax (o : VOp) (s : State) : Host.Outcome State Fault Refusal :=
  finish s (.vrmax o) (routeTo s (.vrmax o) .c {} (actVrmax o))

/-- VRMIN (R271). -/
def actVrmin (o : VOp) (e : Entry) (s : State) : Res := reduceCmp (minE o.ty) o e s

/-- VRMIN (R271). -/
def execVrmin (o : VOp) (s : State) : Host.Outcome State Fault Refusal :=
  finish s (.vrmin o) (routeTo s (.vrmin o) .c {} (actVrmin o))

/-- VSCAN (R272). -/
def execVscan (np : BitVec 4) (o : VOp) (s : State) : Host.Outcome State Fault Refusal :=
  finish s (.vscan np o) (routeTo s (.vscan np o) .c {} (actVscan np o))

/-- VRCP (R273). -/
def actVrcp (o : VOp) (e : Entry) (s : State) : Res := lanes1 o (fun a => rcpBits (fmtOf o.ty) (flOf o.ty a)) e s

/-- VRCP (R273). -/
def execVrcp (o : VOp) (s : State) : Host.Outcome State Fault Refusal :=
  finish s (.vrcp o) (routeTo s (.vrcp o) .c {} (actVrcp o))

/-- VSQRT (R273). -/
def actVsqrt (o : VOp) (e : Entry) (s : State) : Res := lanes1 o (fun a => Sfu.sqrtBits (fmtOf o.ty) (flOf o.ty a)) e s

/-- VSQRT (R273). -/
def execVsqrt (o : VOp) (s : State) : Host.Outcome State Fault Refusal :=
  finish s (.vsqrt o) (routeTo s (.vsqrt o) .c {} (actVsqrt o))

/-- VRSQRT (R273). -/
def actVrsqrt (o : VOp) (e : Entry) (s : State) : Res := lanes1 o (fun a => Sfu.rsqrtBits (fmtOf o.ty) (flOf o.ty a)) e s

/-- VRSQRT (R273). -/
def execVrsqrt (o : VOp) (s : State) : Host.Outcome State Fault Refusal :=
  finish s (.vrsqrt o) (routeTo s (.vrsqrt o) .c {} (actVrsqrt o))

/-- VEXP (R273). -/
def actVexp (o : VOp) (e : Entry) (s : State) : Res := lanes1 o (fun a => Sfu.expBits (fmtOf o.ty) (flOf o.ty a)) e s

/-- VEXP (R273). -/
def execVexp (o : VOp) (s : State) : Host.Outcome State Fault Refusal :=
  finish s (.vexp o) (routeTo s (.vexp o) .c {} (actVexp o))

/-- VEXP2 (R273). -/
def actVexp2 (o : VOp) (e : Entry) (s : State) : Res := lanes1 o (fun a => Sfu.exp2Bits (fmtOf o.ty) (flOf o.ty a)) e s

/-- VEXP2 (R273). -/
def execVexp2 (o : VOp) (s : State) : Host.Outcome State Fault Refusal :=
  finish s (.vexp2 o) (routeTo s (.vexp2 o) .c {} (actVexp2 o))

/-- VLOG2 (R273). -/
def actVlog2 (o : VOp) (e : Entry) (s : State) : Res := lanes1 o (fun a => Sfu.log2Bits (fmtOf o.ty) (flOf o.ty a)) e s

/-- VLOG2 (R273). -/
def execVlog2 (o : VOp) (s : State) : Host.Outcome State Fault Refusal :=
  finish s (.vlog2 o) (routeTo s (.vlog2 o) .c {} (actVlog2 o))

/-- VTANH (R273). -/
def actVtanh (o : VOp) (e : Entry) (s : State) : Res := lanes1 o (fun a => Sfu.tanhBits (fmtOf o.ty) (flOf o.ty a)) e s

/-- VTANH (R273). -/
def execVtanh (o : VOp) (s : State) : Host.Outcome State Fault Refusal :=
  finish s (.vtanh o) (routeTo s (.vtanh o) .c {} (actVtanh o))

/-- VSIGM (R273). -/
def actVsigm (o : VOp) (e : Entry) (s : State) : Res := lanes1 o (fun a => Sfu.sigmBits (fmtOf o.ty) (flOf o.ty a)) e s

/-- VSIGM (R273). -/
def execVsigm (o : VOp) (s : State) : Host.Outcome State Fault Refusal :=
  finish s (.vsigm o) (routeTo s (.vsigm o) .c {} (actVsigm o))

/-- VCOMPRESS (R274). -/
def execVcompress (o : VOp) (s : State) : Host.Outcome State Fault Refusal :=
  finish s (.vcompress o) (routeTo s (.vcompress o) .c { dest := [o.b] } (actVcompress o))

/-- VEXPAND (R274). -/
def execVexpand (o : VOp) (s : State) : Host.Outcome State Fault Refusal :=
  finish s (.vexpand o) (routeTo s (.vexpand o) .c {} (actVexpand o))

/-- VHIST (R275). -/
def execVhist (o : VOp) (s : State) : Host.Outcome State Fault Refusal :=
  finish s (.vhist o) (routeTo s (.vhist o) .c {} (actVhist o))

/-- VDIGIT (R275). -/
def actVdigit (o : VOp) (e : Entry) (s : State) : Res := lanes1 o (digitE o.mod) e s

/-- VDIGIT (R275). -/
def execVdigit (o : VOp) (s : State) : Host.Outcome State Fault Refusal :=
  finish s (.vdigit o) (routeTo s (.vdigit o) .c {} (actVdigit o))

/-- VORDKEY (R275). -/
def actVordkey (o : VOp) (e : Entry) (s : State) : Res := lanes1 o (orderKey o.ty) e s

/-- VORDKEY (R275). -/
def execVordkey (o : VOp) (s : State) : Host.Outcome State Fault Refusal :=
  finish s (.vordkey o) (routeTo s (.vordkey o) .c {} (actVordkey o))

/-- VTOPK (R276). -/
def execVtopk (k : BitVec 8) (o : VOp) (s : State) : Host.Outcome State Fault Refusal :=
  finish s (.vtopk k o) (routeTo s (.vtopk k o) .c { src := if o.mod.getLsbD 1 then [] else [(o.b, o.ub)] } (actVtopk k o))

/-- VCBDEC (R278). -/
def execVcbdec (cb : BitVec 3) (o : VOp) (s : State) : Host.Outcome State Fault Refusal :=
  finish s (.vcbdec cb o) (routeTo s (.vcbdec cb o) .c {} (actVcbdec cb o))

/-- VCBENC (R279). -/
def execVcbenc (cb : BitVec 3) (o : VOp) (s : State) : Host.Outcome State Fault Refusal :=
  finish s (.vcbenc cb o) (routeTo s (.vcbenc cb o) .c {} (actVcbenc cb o))

/-- CBLD (R277). -/
def execCbld (cb : BitVec 3) (o : VOp) (s : State) : Host.Outcome State Fault Refusal :=
  finish s (.cbld cb o) (routeTo s (.cbld cb o) .c {} (actCbld cb o))

/-- MAND (R281). -/
def actMand (o : VOp) (e : Entry) (s : State) : Res := mask2 o (fun a b => a &&& b) e s

/-- MAND (R281). -/
def execMand (o : VOp) (s : State) : Host.Outcome State Fault Refusal :=
  finish s (.mand o) (routeTo s (.mand o) .c {} (actMand o))

/-- MOR (R281). -/
def actMor (o : VOp) (e : Entry) (s : State) : Res := mask2 o (fun a b => a ||| b) e s

/-- MOR (R281). -/
def execMor (o : VOp) (s : State) : Host.Outcome State Fault Refusal :=
  finish s (.mor o) (routeTo s (.mor o) .c {} (actMor o))

/-- MXOR (R281). -/
def actMxor (o : VOp) (e : Entry) (s : State) : Res := mask2 o (fun a b => a ^^^ b) e s

/-- MXOR (R281). -/
def execMxor (o : VOp) (s : State) : Host.Outcome State Fault Refusal :=
  finish s (.mxor o) (routeTo s (.mxor o) .c {} (actMxor o))

/-- MANDN (R281). -/
def actMandn (o : VOp) (e : Entry) (s : State) : Res := mask2 o (fun a b => a &&& ~~~b) e s

/-- MANDN (R281). -/
def execMandn (o : VOp) (s : State) : Host.Outcome State Fault Refusal :=
  finish s (.mandn o) (routeTo s (.mandn o) .c {} (actMandn o))

/-- MNOT (R281). -/
def actMnot (o : VOp) (e : Entry) (s : State) : Res := mask2 o (fun a _ => ~~~a) e s

/-- MNOT (R281). -/
def execMnot (o : VOp) (s : State) : Host.Outcome State Fault Refusal :=
  finish s (.mnot o) (routeTo s (.mnot o) .c {} (actMnot o))

/-- MSET (R281). -/
def actMset (o : VOp) (e : Entry) (s : State) : Res := mask2 o (fun _ _ => -1) e s

/-- MSET (R281). -/
def execMset (o : VOp) (s : State) : Host.Outcome State Fault Refusal :=
  finish s (.mset o) (routeTo s (.mset o) .c {} (actMset o))

/-- MCLR (R281). -/
def actMclr (o : VOp) (e : Entry) (s : State) : Res := mask2 o (fun _ _ => 0) e s

/-- MCLR (R281). -/
def execMclr (o : VOp) (s : State) : Host.Outcome State Fault Refusal :=
  finish s (.mclr o) (routeTo s (.mclr o) .c {} (actMclr o))

/-- MCNT (R281). -/
def actMcnt (o : VOp) (e : Entry) (s : State) : Res := (fun e s => .ok (scalarResult s e o.d (BitVec.ofNat 64 (countBits s.me.m[(mfield o.a).toFin] o.ty.lanes)))) e s

/-- MCNT (R281). -/
def execMcnt (o : VOp) (s : State) : Host.Outcome State Fault Refusal :=
  finish s (.mcnt o) (routeTo s (.mcnt o) .c { dest := [o.d] } (actMcnt o))

/-- MFIRST (R281). -/
def actMfirst (o : VOp) (e : Entry) (s : State) : Res := (fun e s => .ok (scalarResult s e o.d (BitVec.ofNat 64 (firstBit s.me.m[(mfield o.a).toFin] o.ty.lanes)))) e s

/-- MFIRST (R281). -/
def execMfirst (o : VOp) (s : State) : Host.Outcome State Fault Refusal :=
  finish s (.mfirst o) (routeTo s (.mfirst o) .c { dest := [o.d] } (actMfirst o))

/-- MTOV (R281). -/
def execMtov (o : VOp) (s : State) : Host.Outcome State Fault Refusal :=
  finish s (.mtov o) (routeTo s (.mtov o) .c {} (actMtov o))

/-- VTOM (R281). -/
def execVtom (o : VOp) (s : State) : Host.Outcome State Fault Refusal :=
  finish s (.vtom o) (routeTo s (.vtom o) .c {} (actVtom o))

/-- VEXTR (R282). -/
def execVextr (o : VOp) (s : State) : Host.Outcome State Fault Refusal :=
  finish s (.vextr o) (routeTo s (.vextr o) .c { src := [(o.b, o.ub)], dest := [o.d] } (actVextr o))

/-- VINS (R282). -/
def execVins (o : VOp) (s : State) : Host.Outcome State Fault Refusal :=
  finish s (.vins o) (routeTo s (.vins o) .c { src := [(o.a, o.ua), (o.b, o.ub)] } (actVins o))

/-- VSPLAT (R282). -/
def execVsplat (o : VOp) (s : State) : Host.Outcome State Fault Refusal :=
  finish s (.vsplat o) (routeTo s (.vsplat o) .c { src := [(o.a, o.ua)] } (actVsplat o))

end Sys2Proof.Machine
end

