-- ==== Sys2Proof/Machine/Score.lean ====
section
/-! DEFINITION. Order among the accesses of a cell: the range scoreboard of copies (R55 to R57), the forwarding table (R58 to R60),
declared footprints (R133 to R137) and the instant window (R174). Ranges are [low, high) of scratch addresses, or of accumulator
words. -/

namespace Sys2Proof.Machine

/-- Two half-open ranges meet. -/
def meets (a b : Nat × Nat) : Bool := decide (a.1 < b.2) && decide (b.1 < a.2)

/-- A copy's scoreboard entry is in accumulator memory. -/
def CopyOp.inAcc (k : CopyOp) : Bool := k.kind == .xaddw
/-- The range that a copy's scoreboard entry records (R55): bytes, or words for XADDW. -/
def CopyOp.range (k : CopyOp) : Nat × Nat := (k.near, k.near + (if k.inAcc then k.len / 4 else k.len))

/-- The copies that hold a scoreboard entry of a cell: those in flight, one of a retired context among them (R187), and those that a save has
interrupted, which stay pending (R340), while their context is pinned to the cell. (DEDUCED: log entry 120.) -/
def scoreCopies (s : State) (cell : Nat) : List CopyOp :=
  (s.copies ++ (s.saved.filter (·.2.pinned)).flatMap (·.2.copies)).filter fun k => k.ctx.cell == cell && k.len != 0

/-- A copy of the cell holds an overlapping scoreboard entry (R56). -/
def scored (s : State) (cell : Nat) (acc : Bool) (r : Nat × Nat) : Bool :=
  (scoreCopies s cell).any fun k => k.inAcc == acc && meets k.range r

/-- Valid scoreboard entries of a cell. -/
def scoreCount (s : State) (cell : Nat) : Nat := (scoreCopies s cell).length

/-- Entries that touch scratch as loads. -/
def isLoad (i : Instr) : Bool := match i with
  | .lds _ | .ldv _ | .ldvx _ | .ldt _ _ _ _ => true
  | _ => false

/-- An unissued entry may touch a range: a range not yet known may be any. -/
def Entry.mayTouch (e : Entry) (r : Nat × Nat) : Bool :=
  e.present && e.err.isNone && (match e.rng with
    | some x => meets x r
    | none => true)

/-- An older store of the context, unissued or in flight, touches a range. -/
def olderStore (c : Ctx) (id : Nat) (r : Nat × Nat) : Bool :=
  c.qS.any (fun e => e.kind == .instr && isStore e.i && e.id < id && e.mayTouch r) ||
    c.stores.any fun st => st.id < id && meets st.rng r

/-- An older load of the context has not read its bytes (R59). -/
def olderLoad (c : Ctx) (id : Nat) (r : Nat × Nat) : Bool :=
  c.qL.any fun e => e.kind == .instr && isLoad e.i && e.id < id && e.mayTouch r

/-- The footprint checker is on for a context (R136). -/
def fpOn (c : Ctx) : Bool := c.det || c.fpchk

/-- A declared footprint (R133): scratch ranges and an accumulator range, and whether they are written. -/
structure Foot where
  scr : List (Nat × Nat) := []
  scrW : Bool := false
  acc : Option (Nat × Nat) := none
  accW : Bool := false
  deriving DecidableEq, Repr

/-- Footprint of a copy (R133). -/
def CopyOp.foot (k : CopyOp) : Foot :=
  if k.len = 0 then {}
  else if k.inAcc then { acc := some k.range, accW := true } else { scr := [k.range], scrW := k.kind != .xout }

/-- Footprint of an MMA, MGO, ACCZ, ACCWR or ACCRD (R133). -/
def EngCmd.foot (k : EngCmd) : Foot := { scr := k.scr, scrW := false, acc := some (k.accLo, k.accHi), accW := k.writes }

/-- A pair in which one side writes a range that the other reads or writes. -/
def Foot.clash (a b : Foot) : Bool :=
  ((a.scrW || b.scrW) && a.scr.any fun x => b.scr.any (meets x)) ||
    ((a.accW || b.accW) && (match a.acc, b.acc with
      | some x, some y => meets x y
      | _, _ => false))

/-- A new engine command's footprint meets a command in flight that nothing orders before it (R135). `cQueue` says that the new
command is one of the C queue's, which R134 orders against its context's own. ORD.MODE of the context that issues decides. (DESIGN CHOICE: log entry 127.) -/
def footprintClash (s : State) (f : Foot) (cQueue : Bool) : Bool :=
  fpOn s.me &&
    (s.copies.any (fun k => k.ctx.cell == s.cur.cell && !k.orphan && f.clash k.foot) ||
      (s.cell s.cur.cell).engine.any fun k => (k.slot != s.cur.slot || !cQueue) && f.clash k.foot)

/-- The FOOTPRINT_OVERLAP fault. -/
def overlapFault : Raise := .fatal .footprintOverlap {}

/-- An L or S access to scratch meets an MGO in flight (R135). -/
def nestClash (s : State) (r : Nat × Nat) (writes : Bool) : Bool :=
  fpOn s.me && (s.cell s.cur.cell).engine.any fun k => k.isNest && ({ scr := [r], scrW := writes } : Foot).clash k.foot

/-- An own earlier command of the C queue overlaps in accumulator memory (R134). -/
def ownOverlap (s : State) (r : Nat × Nat) : Bool :=
  (s.cell s.cur.cell).engine.any fun k => k.slot == s.cur.slot && meets (k.accLo, k.accHi) r

/-- The instant window (R174): none when it is empty. -/
def instantWindow (c : Ctx) : Option (Nat × Nat) :=
  let lo := (fld c.iscope 0 32 : BitVec 32).toNat
  let hi := (fld c.iscope 32 32 : BitVec 32).toNat
  if lo < hi then some (lo, hi) else none

end Sys2Proof.Machine
end

