-- ==== Sys2Proof/Machine/Generator.lean ====
section
/-! DEFINITION. Generators: scope and effective key (R303), the mixer (R304), element values (R305 to R307), and the generator
instructions (R308 to R310). -/

namespace Sys2Proof.Machine

/-! ### The mixer -/

/-- Word `i` of four (word 0 least significant). -/
def word4 (k : BitVec 128) (i : Nat) : BitVec 32 := fld k (32 * i) 32

/-- Rounds `r` to `r + n - 1` of the mixer. -/
def mixRounds (k : BitVec 128) : Nat → Nat → BitVec 32 × BitVec 32 × BitVec 32 × BitVec 32 →
    BitVec 32 × BitVec 32 × BitVec 32 × BitVec 32
  | 0, _, x => x
  | n + 1, r, (x0, x1, x2, x3) =>
    let x0 := x0 + word4 k (r % 4) + BitVec.ofNat 32 r
    let x1 := (x1 ^^^ x0).rotateLeft 9
    let x2 := x2 + x1
    let x3 := (x3 ^^^ x2).rotateLeft 16
    let x0 := x0 + x3
    let x1 := (x1 ^^^ x0).rotateLeft 5
    mixRounds k n (r + 1) (x1, x2, x3, x0)

/-- mix (R304). -/
def mix (k x : BitVec 128) : BitVec 128 :=
  let (a, b, c, d) := mixRounds k 6 0 (word4 x 0, word4 x 1, word4 x 2, word4 x 3)
  ((d ^^^ word4 k 3) ++ (c ^^^ word4 k 2)) ++ ((b ^^^ word4 k 1) ++ (a ^^^ word4 k 0))

/-- The scope value of an instruction (R303). -/
def scopeValue (c : Ctx) (e : Entry) (code : Nat) : Word :=
  match code with
  | 1 => BitVec.ofNat 64 (c.seq % 2 ^ 48)
  | 2 => c.entry &&& bitMask 55 0
  | 3 => e.inst
  | _ => e.lc.toList.getD (code - 4) 0

/-- The scope value comes from a poisoned loop counter (R351). -/
def scopeBad (e : Entry) (g : Gen) : Bool := decide (4 ≤ g.scope.toNat) && e.lcBad.getLsbD (g.scope.toNat - 4)

/-- The effective key K′ (R303). -/
def effKey (c : Ctx) (e : Entry) (g : Gen) : BitVec 128 :=
  if g.scope = 0 then g.key
  else mix g.key ((0#56 ++ g.scope : BitVec 64) ++ scopeValue c e g.scope.toNat)

/-! ### The sine table (R306) -/

/-- atan(1/k) in units of 2^-p, truncated: `t` is the current power. -/
def atanTerms (k : Nat) : Nat → Nat → Int → Int
  | 0, _, _ => 0
  | n + 1, i, t => t / (2 * i + 1) * (if i % 2 = 0 then 1 else -1) + atanTerms k n (i + 1) (t / (k * k))

/-- π in units of 2^-p. -/
def piBits (p : Nat) : Int :=
  16 * atanTerms 5 (p / 4) 0 (2 ^ p / 5) - 4 * atanTerms 239 (p / 15 + 1) 0 (2 ^ p / 239)

/-- sin of x in units of 2^-p by its series; `t` is the current term. -/
def sinTerms (p : Nat) (x2 : Int) : Nat → Nat → Int → Int
  | 0, _, _ => 0
  | n + 1, i, t => t + sinTerms p x2 n (i + 2) (-(t * x2 / 2 ^ p) / ((i + 1) * (i + 2)))

/-- S[n]: the FP32 value nearest sin(nπ/2048). -/
def sinTable (n : Nat) : Nat :=
  if n = 0 then 0
  else if 1024 ≤ n then 0x3F800000
  else
    let p := 160
    let x := piBits p * n / 2048
    let v := (sinTerms p (x * x / 2 ^ p) 32 1 x).toNat
    (Sfu.settle fp32 false p ⟨v - 65536, v + 65536⟩).getD 0

/-- rho (R306). -/
def rho (t : BitVec 32) : Nat :=
  let q := (fld t 30 2 : BitVec 2).toNat
  let n := (fld t 20 10 : BitVec 10).toNat
  let f := (fld t 0 20 : BitVec 20).toNat
  let (a, b) := if q % 2 = 0 then (sinTable n, sinTable (n + 1)) else (sinTable (1024 - n), sinTable (1023 - n))
  let x := Fl.decode fp32 a
  let d := (Fl.decode fp32 b).add x.neg
  let y := (x.add (d.mul (.fin false f (-20)))).encode fp32
  if q < 2 then y else if y < 2 ^ 31 then y + 2 ^ 31 else y - 2 ^ 31

/-! ### Elements -/

/-- A pattern times SCALE, rounded to a format. -/
def scaleTo (f : FFmt) (g : Gen) (x : Fl) : Nat := (x.mul (Fl.decode bf16 g.scale.toNat)).encode f

/-- The constant √1.5 of GAUSS (R305). -/
def gaussScale : Nat := 0x3F9CC471

/-- The value of logical element (i, j) in a format (R305). `steps` holds the step table words read for it (R306). -/
def genElem (g : Gen) (k : BitVec 128) (steps : List (Nat × Word)) (f : FFmt) (i j : Nat) : Nat :=
  let row := (i + g.roff.toNat) % 2 ^ 32
  let col := (j + g.coff.toNat) % 2 ^ 32
  let w := mix k (BitVec.ofNat 128 (g.ctr.toNat + row * g.stride.toNat + col))
  let w0 := (word4 w 0).toNat
  let ang : BitVec 32 := BitVec.ofNat 32 (row * ((find? steps col).getD 0).toNat)
  let ninf := Fl.encode f (.inf true)
  match g.kind.toNat with
  | 0 => scaleTo f g (.fin (w0 % 2 == 1) 1 0)
  | 1 => scaleTo f g (.fin false (w0 / 256) (-24))
  | 2 =>
    let h := ((List.range 8).map fun n => (fld w (16 * n) 16 : BitVec 16).toNat).sum
    let d : Int := (h : Int) - 262140
    let z := ((Fl.fin (decide (d < 0)) d.natAbs (-16)).mul (Fl.decode fp32 gaussScale)).encode fp32
    scaleTo f g (Fl.decode fp32 z)
  | 3 => scaleTo f g (Fl.decode fp32 (rho (ang + 0x40000000)))
  | 4 => scaleTo f g (Fl.decode fp32 (rho ang))
  | 5 => if col ≤ row then 0 else ninf
  | 6 => if col ≤ row && row - col < (fld g.param 0 32 : BitVec 32).toNat then 0 else ninf
  | _ => if w0 < (fld g.param 0 32 : BitVec 32).toNat then scaleTo f g (.fin false 1 0) else 0

/-- The generator reads a step table. -/
def Gen.rope (g : Gen) : Bool := g.kind == 3 || g.kind == 4

/-- Reads the step table words of some columns as scalar loads, through the data cache (R37, R306). -/
def readSteps (g : Gen) : List Nat → State → Except Raise (List (Nat × Word) × State)
  | [], s => .ok ([], s)
  | j :: js, s =>
    let a := g.param + 4 * BitVec.ofNat 64 j
    if pastTop g.param (4 * j) 4 then .error (rangeFault a)
    else match scalarLoad s a 4 with
    | .error e => .error e
    | .ok (x, l, s) =>
      if l.far s && Config.freeRemoteFails (s.free a.toNat) then .error (remoteFault a l)
      else match readSteps g js s with
        | .error e => .error e
        | .ok (r, s) => .ok ((j, BitVec.ofNat 64 x) :: r, s)

/-- The step words that a generator needs for some columns: none unless it is a ROPE kind. (DEDUCED: log entry 70.) -/
def stepsFor (s : State) (g : Gen) (cols : List Nat) : Except Raise (List (Nat × Word) × State) :=
  if !g.rope then .ok ([], s)
  else if g.param &&& 3 != 0 then .error (boundsAt g.param)
  else readSteps g (cols.map fun j => (j + g.coff.toNat) % 2 ^ 32).eraseDups s

/-! ### The instructions -/

/-- Replaces a generator. -/
def setGen (c : Ctx) (d : BitVec 4) (g : Gen) : Ctx := { c with g := c.g.set d.toFin g d.toFin.isLt }

/-- A change of CTR: it reaches CCTR too while no instant is open (R310). -/
def setCtr (g : Gen) (e : Entry) (n : BitVec 128) : Gen :=
  { g with ctr := n, cctr := if e.opened then g.cctr else n }

/-- The frame of an instruction that changes a generator from captured scalars. -/
def genOp (d : BitVec 4) (f : Gen → Entry → Gen) (e : Entry) (s : State) : Res :=
  match checkTags s e [] false with
  | .error r => .error r
  | .ok _ => .ok (s.setMe (setGen s.me d (f s.me.g[d.toFin] e)))

/-- s[B] × 2⁶⁴ + s[A]. -/
def pair128 (e : Entry) : BitVec 128 := e.sc 1 ++ e.sc 0

/-- GSET (R308). -/
def actGset (_h : Hdr) (d : BitVec 4) (kind : GenKind) (rows cols : BitVec 10) (scale : BitVec 16) (e : Entry) (s : State) : Res :=
  genOp d (fun g _ => { g with
    kind := kind.code, rows := rows.setWidth 32 + 1, cols := cols.setWidth 32 + 1, scale := scale,
    stride := cols.setWidth 32 + 1, roff := 0, coff := 0 }) e s
def execGset (h : Hdr) (d : BitVec 4) (kind : GenKind) (rows cols : BitVec 10) (scale : BitVec 16) (s : State) :
    Host.Outcome State Fault Refusal :=
  finish s (.gset h d kind rows cols scale) (routeTo s (.gset h d kind rows cols scale) .c {} (actGset h d kind rows cols scale))

/-- The scalar sources of a GN instruction. -/
def genSrc (o : GenSS) : List (BitVec 6 × Bool) := [(o.a, o.ua), (o.b, o.ub)]

/-- GKEY (R308). -/
def actGkey (o : GenSS) (e : Entry) (s : State) : Res := genOp o.d (fun g e => { g with key := pair128 e }) e s
def execGkey (o : GenSS) (s : State) : Host.Outcome State Fault Refusal :=
  finish s (.gkey o) (routeTo s (.gkey o) .c { src := genSrc o } (actGkey o))

/-- GKEY.OFF (R308). -/
def actGkeyOff (o : GenSS) (e : Entry) (s : State) : Res :=
  genOp o.d (fun g e => { g with roff := fld (e.sc 0) 0 32, coff := fld (e.sc 1) 0 32 }) e s
def execGkeyOff (o : GenSS) (s : State) : Host.Outcome State Fault Refusal :=
  finish s (.gkeyOff o) (routeTo s (.gkeyOff o) .c { src := genSrc o } (actGkeyOff o))

/-- GKEY.PARAM (R308). -/
def actGkeyParam (o : GenSS) (e : Entry) (s : State) : Res :=
  genOp o.d (fun g e => { g with stride := fld (e.sc 0) 0 32, param := e.sc 1 }) e s
def execGkeyParam (o : GenSS) (s : State) : Host.Outcome State Fault Refusal :=
  finish s (.gkeyParam o) (routeTo s (.gkeyParam o) .c { src := genSrc o } (actGkeyParam o))

/-- GCTR (R308). -/
def actGctr (o : GenSS) (e : Entry) (s : State) : Res := genOp o.d (fun g e => setCtr g e (pair128 e)) e s
def execGctr (o : GenSS) (s : State) : Host.Outcome State Fault Refusal :=
  finish s (.gctr o) (routeTo s (.gctr o) .c { src := genSrc o } (actGctr o))

/-- GADV (R308). -/
def actGadv (o : GenSS) (e : Entry) (s : State) : Res := genOp o.d (fun g e => setCtr g e (g.ctr + pair128 e)) e s
def execGadv (o : GenSS) (s : State) : Host.Outcome State Fault Refusal :=
  finish s (.gadv o) (routeTo s (.gadv o) .c { src := genSrc o } (actGadv o))

/-- The generator unit feeds an MMA in its compute phase or a nest of the cell, or executes a GDRAW (R308, R309). (DEDUCED: log entry 72.) -/
def genFeeds (s : State) : Bool :=
  let q := s.cell s.cur.cell
  decide (q.cyc.toNat < q.genBusy) || q.engine.any (fun k => k.gen && decide (q.cyc.toNat < k.compute)) || (match q.nest with
    | some n => n.cfg.aoper.getLsbD 3 || n.cfg.boper.getLsbD 3
    | none => false)

/-- The raw words of GDRAW (R309). -/
def drawWords (k ctr : BitVec 128) (n : Nat) : Vec :=
  ofLanes 128 ((List.range n).map fun t => (mix k (ctr + BitVec.ofNat 128 t)).toNat)

/-- GDRAW, and with `adv` GDRAW.ADV (R309). -/
def draw (d : BitVec 5) (a : BitVec 4) (adv : Bool) (e : Entry) (s : State) : Res :=
  let pends := s.me.v[d.toFin].pend
  if genFeeds s then .error (.wait (if pends then .operand 1 else .engine 4))
  else match checkTags s e [] false with
    | .error r => .error r
    | .ok _ =>
      let n := (e.sc 0).toNat
      if 32 < n then .error (boundsAt 0)
      else if pends then .error (.wait (.operand 1))
      else if scopeBad e s.me.g[a.toFin] then .error regBad
      else
        let q := s.cell s.cur.cell
        let s := s.setCell s.cur.cell { q with genBusy := q.cyc.toNat + max 1 ((n + 7) / 8) }
        let g := s.me.g[a.toFin]
        let c := writeV s.me d (drawWords (effKey s.me e g) g.ctr n) (clkOf e.i) e.hand
        .ok (s.setMe (if adv then setGen c a (setCtr g e (g.ctr + BitVec.ofNat 128 n)) else c))

/-- GDRAW (R309). -/
def actGdraw (_h : Hdr) (d : BitVec 5) (a : BitVec 4) (_rb : BitVec 6) (_ub : Bool) (e : Entry) (s : State) : Res :=
  draw d a false e s
def execGdraw (h : Hdr) (d : BitVec 5) (a : BitVec 4) (rb : BitVec 6) (ub : Bool) (s : State) :
    Host.Outcome State Fault Refusal :=
  finish s (.gdraw h d a rb ub) (routeTo s (.gdraw h d a rb ub) .c { src := [(rb, ub)] } (actGdraw h d a rb ub))

/-- GDRAW.ADV (R309). -/
def actGdrawAdv (_h : Hdr) (d : BitVec 5) (a : BitVec 4) (_rb : BitVec 6) (_ub : Bool) (e : Entry) (s : State) : Res :=
  draw d a true e s
def execGdrawAdv (h : Hdr) (d : BitVec 5) (a : BitVec 4) (rb : BitVec 6) (ub : Bool) (s : State) :
    Host.Outcome State Fault Refusal :=
  finish s (.gdrawAdv h d a rb ub) (routeTo s (.gdrawAdv h d a rb ub) .c { src := [(rb, ub)] } (actGdrawAdv h d a rb ub))

/-- GSCOPE (R303, R308). -/
def actGscope (_h : Hdr) (d : BitVec 4) (scope : BitVec 8) (e : Entry) (s : State) : Res :=
  genOp d (fun g _ => { g with scope := scope }) e s
def execGscope (h : Hdr) (d : BitVec 4) (scope : BitVec 8) (s : State) : Host.Outcome State Fault Refusal :=
  finish s (.gscope h d scope) (routeTo s (.gscope h d scope) .c {} (actGscope h d scope))

/-- GSAVE (R302, R308). -/
def actGsave (_h : Hdr) (d : BitVec 5) (a : BitVec 4) (e : Entry) (s : State) : Res :=
  if s.me.v[d.toFin].pend then .error (.wait (.operand 1))
  else .ok (s.setMe (writeV s.me d ((s.me.g[a.toFin]).image.setWidth 4096) (clkOf e.i) e.hand))
def execGsave (h : Hdr) (d : BitVec 5) (a : BitVec 4) (s : State) : Host.Outcome State Fault Refusal :=
  finish s (.gsave h d a) (routeTo s (.gsave h d a) .c {} (actGsave h d a))

/-- An image that GLOAD accepts (R308). -/
def genImageOk (w : BitVec 1024) : Bool :=
  let g := Gen.ofImage w
  (fld w 563 13 : BitVec 13) == 0 && (fld w 584 56 : BitVec 56) == 0 && (fld w 704 320 : BitVec 320) == 0 &&
    decide (g.scope.toNat ≤ 9) && ((g.rows == 0) == (g.cols == 0))

/-- GLOAD (R308, R310): CCTR comes from the image only while no instant is open. -/
def actGload (_h : Hdr) (d : BitVec 4) (a : BitVec 5) (ua : Bool) (e : Entry) (s : State) : Res :=
  match takeSrcs s e [(0#1 ++ a, ua)] with
  | .error r => .error r
  | .ok (v, t) =>
    let w : BitVec 1024 := fld (v.getD 0 0) 0 1024
    if !genImageOk w then .error (boundsAt 0)
    else
      let g := Gen.ofImage w
      .ok (t.setMe (setGen t.me d { g with cctr := if e.opened then (t.me.g[d.toFin]).cctr else g.cctr }))
def execGload (h : Hdr) (d : BitVec 4) (a : BitVec 5) (ua : Bool) (s : State) : Host.Outcome State Fault Refusal :=
  finish s (.gload h d a ua) (routeTo s (.gload h d a ua) .c {} (actGload h d a ua))

end Sys2Proof.Machine
end

