-- ==== Sys2Proof/Machine/Matrix.lean ====
section
/-! DEFINITION. The matrix unit: tile configuration (R283 to R287), MMA (R288 to R291), the accumulator instructions (R292, R293) and
the matrix nest (R294 to R298), under the slot table (R299). An engine command stays in flight until the cycle in which its schedule
completes; it reads and writes accumulator memory row by row in the cycles of R291 to R293. -/

namespace Sys2Proof.Machine

/-! ### Tiles -/

/-- Fields of TCFG.Tn (R283). -/
def tcfgTy (w : Word) : Option ElemType := ElemType.ofCode (fld w 16 4)
def tcfgRows (w : Word) : Nat := (fld w 9 7 : BitVec 7).toNat
def tcfgLen (w : Word) : Nat := (fld w 0 9 : BitVec 9).toNat
def tcfgCb (w : Word) : BitVec 3 := fld w 24 3
def tcfgScale (w : Word) : BitVec 3 := fld w 21 3
/-- Elements of a row. -/
def tcfgE (w : Word) : Nat := match tcfgTy w with
  | some t => 8 * tcfgLen w / t.width
  | none => 0

/-- The configuration of a tile of a context. -/
def tileCfg (c : Ctx) (t : BitVec 3) : Word := (c.t[t.toFin]).cfg

/-- The first `n` bytes of a row of a tile as a number (R286); a dead tile reads as free values in normal mode (R215). -/
def rowNat (s : State) (cell : Nat) (dead : Bool) (t : BitVec 3) (r n : Nat) : Nat :=
  if dead then (Config.freeDead (s.free (2 ^ 20 + 64 * t.toNat + r))).toNat % 256 ^ n
  else s.rawNat (tileKey cell (16384 * t.toNat + 256 * r)) n

/-- The elements of one row of a tile (R286). -/
def tileRow (s : State) (cell : Nat) (dead : Bool) (t : BitVec 3) (w r n : Nat) : List Nat :=
  let x := rowNat s cell dead t r (n * w / 8)
  (List.range n).map fun i => x / 2 ^ (w * i) % 2 ^ w

/-- A tile reads dead: it carries the mark, and the instruction was not routed in handler mode (R215, R333). -/
def tileDead (c : Ctx) (hand : Bool) (t : BitVec 3) : Bool := c.t[t.toFin].dead && !hand

/-- A configured tile holds poison. -/
def tileBad (s : State) (cell : Nat) (c : Ctx) (t : BitVec 3) : Bool :=
  let w := tileCfg c t
  (List.range (tcfgRows w)).any fun r => s.anyBad (tileKey cell (16384 * t.toNat + 256 * r)) (tcfgLen w)

/-- The values of a configured tile, codes decoded through their codebook and scales (R286). -/
def tileVals (s : State) (cell : Nat) (c : Ctx) (hand : Bool) (t : BitVec 3) : List (List Nat) :=
  let w := tileCfg c t
  match tcfgTy w with
  | none => []
  | some ty =>
    (List.range (tcfgRows w)).map fun r =>
      let xs := tileRow s cell (tileDead c hand t) t ty.width r (tcfgE w)
      if ty = .cb4 then
        let scs := tileRow s cell (tileDead c hand (tcfgScale w)) (tcfgScale w) 16 r ((tcfgE w + 31) / 32)
        ((List.range xs.length).zip xs).map fun (i, q) => cbValue c.cb[(tcfgCb w).toFin] q (scs.getD (i / 32) 0)
      else xs

/-- A nest of the cell names a tile (R287, R298): one of its two descriptors does. (DEDUCED: log entry 131.) -/
def nestNames (s : State) (t : BitVec 3) : Bool := match (s.cell s.cur.cell).nest with
  | none => false
  | some n =>
    let has (d : BitVec 32) : Bool := !d.getLsbD 3 && (fld d 0 3 : BitVec 3) == t
    has n.cfg.aoper || has n.cfg.boper

/-- An MMA in its compute phase reads a tile (R287). -/
def tileInUse (s : State) (t : BitVec 3) : Bool :=
  let q := s.cell s.cur.cell
  nestNames s t || q.engine.any fun k => !k.isNest && k.slot == s.cur.slot && k.tiles.contains t.toNat && q.cyc.toNat < k.compute

/-- Writes a tile's tag: live, with the clock of the instruction outside handler mode (R178, R215, R333). -/
def tagTile (c : Ctx) (t : BitVec 3) (k : Tag) (hand : Bool) : Ctx :=
  let x := c.t[t.toFin]
  { c with t := c.t.set t.toFin { x with tag := if hand then x.tag else k, dead := false } t.toFin.isLt }

/-- Marks a tile dead (R215). -/
def killTile (c : Ctx) (t : BitVec 3) (u hand : Bool) : Ctx :=
  if u && !hand then { c with t := c.t.set t.toFin { c.t[t.toFin] with dead := true } t.toFin.isLt } else c

/-- TCFG (R285): CB and SCT stay. -/
def actTcfg (_h : Hdr) (t : BitVec 3) (ty : ElemType) (rows : BitVec 7) (rlen : BitVec 9) (_e : Entry) (s : State) : Res :=
  if tileInUse s t then .error (.wait (.operand 1))
  else
    let x := s.me.t[t.toFin]
    let w : Word := (x.cfg &&& rangesMask [(26, 21)]) ||| (0#44 ++ ty.code ++ rows ++ rlen)
    .ok (s.setMe { s.me with t := s.me.t.set t.toFin { x with cfg := w } t.toFin.isLt })
def execTcfg (h : Hdr) (t : BitVec 3) (ty : ElemType) (rows : BitVec 7) (rlen : BitVec 9) (s : State) :
    Host.Outcome State Fault Refusal :=
  finish s (.tcfg h t ty rows rlen) (routeTo s (.tcfg h t ty rows rlen) .c {} (actTcfg h t ty rows rlen))

/-! ### Operands of a product -/

/-- An operand: a tile or a generator, and its transpose. -/
structure MOp where
  gen : Option Gen := none
  t : BitVec 3 := 0
  tr : Bool := false
  deriving DecidableEq, Repr

/-- Rows and columns as the operand stores them. -/
def MOp.shape (c : Ctx) (o : MOp) : Nat × Nat :=
  match o.gen with
  | some g => (g.rows.toNat, g.cols.toNat)
  | none => (tcfgRows (tileCfg c o.t), tcfgE (tileCfg c o.t))

/-- Rows and columns of the operand in the product (R288). -/
def MOp.dims (c : Ctx) (o : MOp) : Nat × Nat :=
  let (r, k) := o.shape c
  if o.tr then (k, r) else (r, k)

/-- The type that a tile operand supplies; none for a generator or an unconfigured tile. -/
def MOp.ty (c : Ctx) (o : MOp) : Option ElemType :=
  match o.gen with
  | some _ => none
  | none => if tcfgRows (tileCfg c o.t) = 0 then none else tcfgTy (tileCfg c o.t)

/-- The formats of R199 and R289: a generator stands for the profile's format, and not at all under NP3 and NP4. -/
def formatsOk (c : Ctx) (np : Nat) (a b : MOp) : Bool :=
  let plain (o : MOp) : Bool := match o.gen with
    | some _ => np != 3 && np != 4
    | none => o.ty c == some (profileType np)
  if np = 2 then
    (a.ty c == some .cb4 && plain b) || (b.ty c == some .cb4 && plain a)
  else plain a && plain b

/-- A CB4 operand's scale tile, which needs `n` rows: M for A and N for B (R289). (DEDUCED: log entry 71.) -/
def scalesOk (c : Ctx) (o : MOp) (n : Nat) : Bool :=
  match o.ty c with
  | some .cb4 =>
    let w := tileCfg c o.t
    let z := tileCfg c (tcfgScale w)
    tcfgTy z == some .bf16 && decide (n ≤ tcfgRows z) && decide ((tcfgE w + 31) / 32 ≤ tcfgE z)
  | _ => true

/-- Tiles that an operand reads, the scale tile of a CB4 tile among them (R290). -/
def MOp.tiles (c : Ctx) (o : MOp) : List (BitVec 3) :=
  match o.gen with
  | some _ => []
  | none => o.t :: (if o.ty c == some .cb4 then [tcfgScale (tileCfg c o.t)] else [])

/-- The shape check of R288. -/
def shapesOk (c : Ctx) (a b : MOp) : Bool :=
  let (m, k) := a.dims c
  let (k2, n) := b.dims c
  k == k2 && decide (m ≤ 64) && decide (n ≤ 64) && decide (0 < m) && decide (0 < k) && decide (0 < n)

/-- The generator of an operand, if it has one, and its columns. -/
def MOp.stepCols (c : Ctx) (o : MOp) : List Nat := List.range (o.shape c).2

/-- The pattern at a stored position, as a list of rows. -/
def MOp.vals (s : State) (cell : Nat) (c : Ctx) (e : Entry) (steps : List (Nat × Word)) (f : FFmt) (o : MOp) : List (List Nat) :=
  match o.gen with
  | none => tileVals s cell c e.hand o.t
  | some g =>
    let k := effKey c e g
    (List.range g.rows.toNat).map fun i => (List.range g.cols.toNat).map fun j => genElem g k steps f i j

/-- Transposes rows of length `n`. -/
def transpose (l : List (List Nat)) (n : Nat) : List (List Nat) :=
  (List.range n).map fun j => l.map fun r => r.getD j 0

/-- The rows of an operand in the product. -/
def MOp.rows (s : State) (cell : Nat) (c : Ctx) (e : Entry) (steps : List (Nat × Word)) (f : FFmt) (o : MOp) : List (List Nat) :=
  let v := o.vals s cell c e steps f
  if o.tr then transpose v (o.shape c).2 else v

/-- The registers of the codebook and generator files that a product reads: the codebook of a CB4 tile; a generator, by its number (R286, R288). -/
def MOp.files (c : Ctx) (n : Nat) (o : MOp) : List (RegFile × Nat) :=
  match o.gen with
  | some _ => [(.g, n)]
  | none => if o.ty c == some .cb4 then [(.cb, (tcfgCb (tileCfg c o.t)).toNat)] else []

/-- A register that two operands read is poisoned, or a loop counter that a generator's scope names (R350, R351). -/
def productBad (c : Ctx) (e : Entry) (na nb : Nat) (a b : MOp) : Bool :=
  (a.files c na ++ b.files c nb).any c.badRegs.contains || [a, b].any fun o => match o.gen with
    | some g => scopeBad e g
    | none => false

/-- Cycles of a product (R291). -/
def computeCycles (np m k n : Nat) : Nat :=
  let d := if np = 3 then 4096 else if np = 4 then 8192 else 2048
  let t := (m * k * n + d - 1) / d
  max 4 (if np = 5 then 3 * t else t)

/-- The row work of a product of A by B into the accumulator at word `org` (R290, R291): row `i` reads in cycle `at0` + 6 + i and writes two cycles
later. A poisoned accumulator word or tile word raises UNCORRECTED and nothing is written. -/
def product (s : State) (cell : Nat) (c : Ctx) (e : Entry) (np : Nat) (steps : List (Nat × Word)) (a b : MOp) (org at0 : Nat) (run : Nat := 0) :
    Except Raise (List RowWork) :=
  let (m, _) := a.dims c
  let (_, n) := b.dims c
  let f := fmtOf (profileType np)
  if (a.tiles c ++ b.tiles c).any (tileBad s cell c) then .error (.fatal .uncorrected { sub := 3 })
  else if (List.range m).any fun i => s.anyBad (accKey cell (4 * (org + 64 * i))) (4 * n) then .error (.fatal .uncorrected { sub := 2 })
  else
    let ar := a.rows s cell c e steps f
    let bc := transpose (b.rows s cell c e steps f) n
    .ok ((List.range m).map fun i =>
      { rd := some (at0 + 6 + i), wr := some (at0 + 8 + i), a := org + 64 * i, n := n, np := np, ra := ar.getD i [], cb := bc, run := run })

/-! ### The slot table and the compute array -/

/-- The entry of the slot table grants a cycle to a slot (R299). -/
def granted (s : State) (cell slot cyc : Nat) : Bool :=
  let q := s.cell cell
  let ent (i : Nat) : Nat := (q.slots.toList.getD i 2).toNat
  let holds (v : Nat) : Bool := s.resident ⟨cell, v⟩
  let gives (v : Nat) (sl : Nat) : Bool := 2 ≤ v || v == sl || !holds v
  let i := cyc / 64 % 16
  let none' := (List.range 16).all fun j => !gives (ent j) slot
  gives (ent i) slot || (none' && i == 15)

/-- The cycle count of the executing context's cell. -/
def now (s : State) : Nat := (s.cell s.cur.cell).cyc.toNat

/-- The compute array is free and no nest of the cell is active (R291). -/
def arrayFree (s : State) : Bool :=
  let q := s.cell s.cur.cell
  q.nest.isNone && q.engine.all fun k => decide (k.compute ≤ q.cyc.toNat)

/-- Puts an engine command in flight on the executing context's cell. (DEDUCED: log entry 73.) -/
def addEngine (s : State) (k : EngCmd) : State :=
  let q := s.cell s.cur.cell
  s.setCell s.cur.cell { q with engine := q.engine ++ [k] }

/-- The waits and the footprint check of an accumulator command of the C queue (R134, R135). -/
def accOrder (s : State) (r : Nat × Nat) (writes : Bool) : Except Raise Unit :=
  if ownOverlap s r then .error (.wait (.engine 1))
  else if footprintClash s { acc := some r, accW := writes } true then .error overlapFault
  else .ok ()

/-! ### MMA -/

/-- An operand field of MMA. -/
def mmaOp (c : Ctx) (isGen : Bool) (f : BitVec 4) (tr : Bool) : MOp :=
  { gen := if isGen then some c.g[f.toFin] else none, t := fld f 0 3, tr := tr }

/-- The tag and dead checks on the tiles that a product reads (R290). -/
def checkTiles (s : State) (e : Entry) (ts : List (BitVec 3)) : Except Raise Unit :=
  checkTags s e (ts.map fun t => some (s.me.t[t.toFin]).tag) (ts.any fun t => (s.me.t[t.toFin]).dead)

/-- MMA once the array can take it (R288 to R291). -/
def mmaIssue (o : MmaOp) (e : Entry) (s : State) : Res :=
  let c := s.me
  let a := mmaOp c o.ga o.a o.ta
  let b := mmaOp c o.gb o.b o.tb
  let np := o.np.toNat
  if !arrayFree s || !granted s s.cur.cell s.cur.slot (now s) then .error (.wait (.engine 1))
  else if (o.ga || o.gb) && decide (now s < (s.cell s.cur.cell).genBusy) then .error (.wait (.engine 4))
  else match checkTiles s e (a.tiles c ++ b.tiles c) with
    | .error r => .error r
    | .ok _ =>
      if !formatsOk c np a b then .error (.fatal .illegalOpcode {})
      else if !shapesOk c a b || !scalesOk c a (a.dims c).1 || !scalesOk c b (b.dims c).2 then .error (boundsAt 0)
      else
        let base := 4096 * o.d.toNat
        let g := (a.gen.orElse fun _ => b.gen).getD {}
        let cols := if a.gen.isSome then a.stepCols c else b.stepCols c
        match stepsFor s g cols with
        | .error r => .error r
        | .ok (steps, s) => match accOrder s (base, base + 4096) true with
          | .error r => .error r
          | .ok _ =>
            let (m, k) := a.dims c
            let n := (b.dims c).2
            let t := computeCycles np m k n
            let at0 := now s
            let hand := e.hand
            match product s s.cur.cell c e np steps a b base (at0 + t) with
            | .error r => .error r
            | .ok work =>
              if productBad s.me e o.a.toNat o.b.toNat a b then .error regBad else
              let c := killTile (killTile s.me a.t (!o.ga && o.ua) hand) b.t (!o.gb && o.ub) hand
              .ok (addEngine (s.setMe c) {
                id := e.id, slot := s.cur.slot, accLo := base, accHi := base + 4096,
                tiles := (a.tiles c ++ b.tiles c).map (·.toNat), compute := at0 + t, doneAt := at0 + t + 7 + m,
                gen := o.ga || o.gb, work := work, pc := e.pc, i := e.i, t := t, runs := [{ chk := at0 + t + 4, base := base, m := m, n := n }],
                iter := e.iter, push := pushesOf .c (tokOf e.i) })

/-- The MMA at the head of the other context's C queue waits for the array alone. -/
def otherWaits (s : State) : Bool :=
  let o : CtxId := ⟨s.cur.cell, 1 - s.cur.slot⟩
  s.resident o && match (s.cx o).qC with
    | h :: rest => h.kind == .instr && h.present && h.err.isNone && (s.cx o).reissue.isNone && match h.i with
      | .mma m => match takeTokens { s.cx o with qC := rest } (popsOf .c (tokOf h.i)) (pushesOf .c (tokOf h.i)) with
        | .ok x => match mmaIssue m h ({ s with cur := o }.setMe x) with
          | .ok _ => true
          | .error _ => false
        | .error _ => false
      | _ => false
    | [] => false

/-- An entry 2 or 3 of the slot table gives the cycle to the context whose turn it is when both wait (R162, R299). (DEDUCED: log entry 121.) -/
def othersTurn (s : State) : Bool :=
  let q := s.cell s.cur.cell
  decide (2 ≤ (q.slots.toList.getD (now s / 64 % 16) 2).toNat) && decide (q.turn ≠ s.cur.slot) && otherWaits s

/-- MMA (R288 to R291). -/
def actMma (o : MmaOp) (e : Entry) (s : State) : Res :=
  if othersTurn s then .error (.wait (.engine 7)) else mmaIssue o e s
def execMma (o : MmaOp) (s : State) : Host.Outcome State Fault Refusal :=
  finish s (.mma o) (routeTo s (.mma o) .c {} (actMma o))

/-! ### Accumulator instructions (R292) -/

/-- The accumulator address, aligned to `al` words, for `n` words: s[A] + OFF16, which does not wrap. -/
def accAddr (o : AccOp) (e : Entry) (al n : Nat) : Except Raise Nat :=
  let a := (e.sc 0).toNat + o.off.toNat
  if a % al = 0 ∧ a + n ≤ 65536 then .ok a else .error (boundsAt (BitVec.ofNat 64 a))

/-- A row of a product or an earlier ACCRD reads accumulator memory in one of two cycles: it holds the read ports (R292). -/
def portsHeld (s : State) (x y : Nat) : Bool :=
  (s.cell s.cur.cell).engine.any fun k => k.work.any fun w => w.rd == some x || w.rd == some y

/-- ACCRD: 128 words into vD, read in the next two cycles and written at its completion. -/
def actAccrd (o : AccOp) (e : Entry) (s : State) : Res :=
  match checkTags s e [] false with
  | .error r => .error r
  | .ok _ => match accAddr o e 8 128 with
    | .error r => .error r
    | .ok a =>
      let t := now s
      let x := s.me.v[o.v.toFin]
      if x.pend then .error (.wait (.operand 1))
      else match accOrder s (a, a + 128) false with
      | .error r => .error r
      | .ok _ =>
        if portsHeld s (t + 1) (t + 2) then .error (.wait (.engine 1))
        else if s.anyBad (accKey s.cur.cell (4 * a)) 512 then .error (.fatal .uncorrected { sub := 2 })
        else
          let c := { s.me with v := s.me.v.set o.v.toFin { x with pend := true } o.v.toFin.isLt }
          .ok (addEngine (s.setMe c) {
            id := e.id, slot := s.cur.slot, accLo := a, accHi := a + 128, writes := false, doneAt := t + 4,
            work := [{ rd := some (t + 1), a := a, n := 64 }, { rd := some (t + 2), a := a + 64, n := 64 }],
            dest := some o.v, tag := clkOf e.i, hand := e.hand, pc := e.pc, i := e.i, iter := e.iter, push := pushesOf .c (tokOf e.i) })
def execAccrd (o : AccOp) (s : State) : Host.Outcome State Fault Refusal :=
  finish s (.accrd o) (routeTo s (.accrd o) .c { src := [(o.a, o.ua)] } (actAccrd o))

/-- ACCWR: vB into 128 words. -/
def actAccwr (o : AccOp) (e : Entry) (s : State) : Res :=
  match takeSrcs s e [(0#1 ++ o.v, o.uv)] with
  | .error r => .error r
  | .ok (v, t) => match accAddr o e 8 128 with
    | .error r => .error r
    | .ok a => match accOrder s (a, a + 128) true with
      | .error r => .error r
      | .ok _ =>
        let w (i : Nat) : Nat := lane (v.getD 0 0) 32 i
        .ok (addEngine t {
          id := e.id, slot := s.cur.slot, accLo := a, accHi := a + 128, doneAt := now s + 3,
          work := [{ wr := some (now s + 2), a := a, n := 64, data := (List.range 64).map w },
                   { wr := some (now s + 3), a := a + 64, n := 64, data := (List.range 64).map fun i => w (64 + i) }],
          pc := e.pc, i := e.i, iter := e.iter, push := pushesOf .c (tokOf e.i) })
def execAccwr (o : AccOp) (s : State) : Host.Outcome State Fault Refusal :=
  finish s (.accwr o) (routeTo s (.accwr o) .c { src := [(o.a, o.ua)] } (actAccwr o))

/-- ACCZ: 4,096 words become zero. -/
def actAccz (o : AccOp) (e : Entry) (s : State) : Res :=
  match checkTags s e [] false with
  | .error r => .error r
  | .ok _ => match accAddr o e 4096 4096 with
    | .error r => .error r
    | .ok a => match accOrder s (a, a + 4096) true with
      | .error r => .error r
      | .ok _ =>
        .ok (addEngine s {
          id := e.id, slot := s.cur.slot, accLo := a, accHi := a + 4096, doneAt := now s + 65,
          work := (List.range 64).map fun r => { wr := some (now s + 2 + r), a := a + 64 * r, n := 64, data := List.replicate 64 0 },
          pc := e.pc, i := e.i, iter := e.iter, push := pushesOf .c (tokOf e.i) })
def execAccz (o : AccOp) (s : State) : Host.Outcome State Fault Refusal :=
  finish s (.accz o) (routeTo s (.accz o) .c { src := [(o.a, o.ua)] } (actAccz o))

/-! ### Nest configuration (R294) -/

/-- The frame of MCFG: bits 31:0 of both scalars. -/
def mcfg (f : NestCfg → BitVec 32 → BitVec 32 → NestCfg) (e : Entry) (s : State) : Res :=
  match checkTags s e [] false with
  | .error r => .error r
  | .ok _ => .ok (s.setMe { s.me with nest := f s.me.nest (fld (e.sc 0) 0 32) (fld (e.sc 1) 0 32) })

/-- Replaces a level of the configuration. -/
def setLevel (n : NestCfg) (l : BitVec 3) (f : NestLevel → NestLevel) : NestCfg :=
  if h : l.toNat < 6 then { n with lvl := n.lvl.set l.toNat (f n.lvl[l.toNat]) h } else n

/-- The scalar sources of MCFG. -/
def mcfgSrc (o : McfgOp) : List (BitVec 6 × Bool) := [(o.a, o.ua), (o.b, o.ub)]

/-- MCFG.LOOP. -/
def actMcfgLoop (o : McfgOp) (e : Entry) (s : State) : Res :=
  mcfg (fun n a b => setLevel n o.lvl fun l => { l with count := a, sc := b }) e s
def execMcfgLoop (o : McfgOp) (s : State) : Host.Outcome State Fault Refusal :=
  finish s (.mcfgLoop o) (routeTo s (.mcfgLoop o) .c { src := mcfgSrc o } (actMcfgLoop o))
/-- MCFG.STEP. -/
def actMcfgStep (o : McfgOp) (e : Entry) (s : State) : Res :=
  mcfg (fun n a b => setLevel n o.lvl fun l => { l with sa := a, sb := b }) e s
def execMcfgStep (o : McfgOp) (s : State) : Host.Outcome State Fault Refusal :=
  finish s (.mcfgStep o) (routeTo s (.mcfgStep o) .c { src := mcfgSrc o } (actMcfgStep o))
/-- MCFG.GSTEP. -/
def actMcfgGstep (o : McfgOp) (e : Entry) (s : State) : Res :=
  mcfg (fun n a b => setLevel n o.lvl fun l => { l with sgr := a, sgc := b }) e s
def execMcfgGstep (o : McfgOp) (s : State) : Host.Outcome State Fault Refusal :=
  finish s (.mcfgGstep o) (routeTo s (.mcfgGstep o) .c { src := mcfgSrc o } (actMcfgGstep o))
/-- MCFG.BASE. -/
def actMcfgBase (_o : McfgOp) (e : Entry) (s : State) : Res :=
  mcfg (fun n a b => { n with abase := a, bbase := b }) e s
def execMcfgBase (o : McfgOp) (s : State) : Host.Outcome State Fault Refusal :=
  finish s (.mcfgBase o) (routeTo s (.mcfgBase o) .c { src := mcfgSrc o } (actMcfgBase o))
/-- MCFG.PITCH. -/
def actMcfgPitch (_o : McfgOp) (e : Entry) (s : State) : Res :=
  mcfg (fun n a b => { n with apitch := a, bpitch := b }) e s
def execMcfgPitch (o : McfgOp) (s : State) : Host.Outcome State Fault Refusal :=
  finish s (.mcfgPitch o) (routeTo s (.mcfgPitch o) .c { src := mcfgSrc o } (actMcfgPitch o))
/-- MCFG.OPER. -/
def actMcfgOper (_o : McfgOp) (e : Entry) (s : State) : Res :=
  mcfg (fun n a b => { n with aoper := a, boper := b }) e s
def execMcfgOper (o : McfgOp) (s : State) : Host.Outcome State Fault Refusal :=
  finish s (.mcfgOper o) (routeTo s (.mcfgOper o) .c { src := mcfgSrc o } (actMcfgOper o))
/-- MCFG.ACC. -/
def actMcfgAcc (_o : McfgOp) (e : Entry) (s : State) : Res :=
  mcfg (fun n a _ => { n with cbase := a }) e s
def execMcfgAcc (o : McfgOp) (s : State) : Host.Outcome State Fault Refusal :=
  finish s (.mcfgAcc o) (routeTo s (.mcfgAcc o) .c { src := mcfgSrc o } (actMcfgAcc o))

/-! ### The nest (R295 to R298) -/

/-- Number of iterations. -/
def nestTotal (n : NestCfg) : Nat := n.lvl.toList.foldl (fun p l => p * l.count.toNat) 1

/-- Σ il × step_l for iteration number `k`, level 0 fastest. -/
def nestSum (step : NestLevel → Int) : List NestLevel → Nat → Int
  | [], _ => 0
  | l :: ls, k =>
    let c := max l.count.toNat 1
    (k % c : Nat) * step l + nestSum step ls (k / c)

/-- Least and greatest Σ over all iterations. -/
def nestExtremes (n : NestCfg) (step : NestLevel → Int) : Int × Int :=
  n.lvl.toList.foldl (fun (lo, hi) l =>
    let x := ((l.count.toNat : Int) - 1) * step l
    (lo + min 0 x, hi + max 0 x)) (0, 0)

/-- An operand descriptor (R294). -/
def descOp (g : Gen) (d : BitVec 32) : MOp :=
  { gen := if d.getLsbD 3 then some g else none, t := fld d 0 3, tr := d.getLsbD 8 }
/-- The generator that a descriptor names. -/
def descGen (c : Ctx) (d : BitVec 32) : Gen := c.g[(fld d 4 4 : BitVec 4).toFin]

/-- Scratch range that a tile operand touches over the whole nest (R296). -/
def nestRange (n : NestCfg) (c : Ctx) (o : MOp) (base pitch : BitVec 32) (step : NestLevel → Int) : Int × Int :=
  let w := tileCfg c o.t
  let (lo, hi) := nestExtremes n step
  ((base.toNat : Int) + lo, (base.toNat : Int) + hi + (tcfgRows w - 1) * pitch.toNat + tcfgLen w - 1)

/-- The operands of a nest of the executing context. -/
def nestOps (c : Ctx) (n : NestCfg) : MOp × MOp :=
  (descOp (descGen c n.aoper) n.aoper, descOp (descGen c n.boper) n.boper)

/-- Distinct aligned 512-byte spans that a tile operand's rows touch in iteration `k` (R297). -/
def nestSpans (n : NestCfg) (c : Ctx) (o : MOp) (base pitch : BitVec 32) (step : NestLevel → Int) (k : Nat) : Nat :=
  if o.gen.isSome then 0
  else
    let w := tileCfg c o.t
    let org := ((base.toNat : Int) + nestSum step n.lvl.toList k).toNat
    (((List.range (tcfgRows w)).flatMap fun r =>
      let a := org + r * pitch.toNat
      (List.range ((a + tcfgLen w - 1) / 512 + 1 - a / 512)).map fun i => a / 512 + i).eraseDups).length

/-- Beats of an iteration's loads, and the cycles that they take. -/
def nestBeats (n : NestCfg) (c : Ctx) (k : Nat) : Nat :=
  let (a, b) := nestOps c n
  nestSpans n c a n.abase n.apitch (·.sa.toInt) k + nestSpans n c b n.bbase n.bpitch (·.sb.toInt) k
def nestLoad (n : NestCfg) (c : Ctx) (k : Nat) : Nat := (nestBeats n c k + 1) / 2

/-- The first of `n` cycles from `t` on that the slot table grants to a slot (R299): the table comes round in 1,024. -/
def firstGrant (s : State) (cell slot : Nat) : Nat → Nat → Nat
  | 0, t => t
  | n + 1, t => if granted s cell slot t then t else firstGrant s cell slot n (t + 1)

/-- L and X of the iterations of a nest from the next one on, as R297 gives them: a nest's beats hold both local ports in a cycle from `a` up
to `b`. -/
def nestHolds (s : State) (cell a b : Nat) : Nat → NestRun → Bool
  | 0, _ => false
  | f + 1, run =>
    let x := s.cx ⟨cell, run.slot⟩
    let n := nestBeats run.cfg x run.next
    if run.total ≤ run.next || b ≤ run.load then false
    else if decide (a < run.load + n / 2) then true
    else
      let ready := firstGrant s cell run.slot 1024 run.ready
      let load := max (run.load + (n + 1) / 2) ready
      nestHolds s cell a b f { run with next := run.next + 1, load := load, ready := load + nestLoad run.cfg x (run.next + 1) + 6 }

/-- Beats of an access of the executing context find a local port in their cycles (R39, R72, R297). -/
def portsFree (s : State) (beats : Nat) : Bool :=
  match (s.cell s.cur.cell).nest with
  | none => true
  | some run => !nestHolds s s.cur.cell (now s) (now s + beats) (beats + 1) run

/-- A descriptor's bits that must be zero. -/
def strayBits (d : BitVec 32) : Bool := (d &&& 0xFFFFFE00#32) != 0

/-- The columns whose step words a generator operand of a nest reads over all iterations. -/
def nestCols (n : NestCfg) (cols total : Nat) : List Nat :=
  ((List.range total).flatMap fun k =>
    let off := nestSum (·.sgc.toInt) n.lvl.toList k
    (List.range cols).map fun j => ((j : Int) + off) % 2 ^ 32 |>.toNat).eraseDups

/-- An access of a context of the cell that has issued still holds a beat in this cycle or a later one (R72, R297). -/
def beatsHeld (s : State) : Bool :=
  let q := s.cell s.cur.cell
  [0, 1].any fun k => s.resident ⟨s.cur.cell, k⟩ && q.cyc.toNat ≤ (s.cx ⟨s.cur.cell, k⟩).beatsTo && 0 < (s.cx ⟨s.cur.cell, k⟩).beatsTo

/-- The scratch ranges that the tile operands of a nest touch (R133, R296). -/
def nestScratch (c : Ctx) (n : NestCfg) (a b : MOp) : List (Nat × Nat) :=
  let r (o : MOp) (x : Int × Int) : List (Nat × Nat) := if o.gen.isSome then [] else [(x.1.toNat, x.2.toNat + 1)]
  r a (nestRange n c a n.abase n.apitch (·.sa.toInt)) ++ r b (nestRange n c b n.bbase n.bpitch (·.sb.toInt))

/-- MGO (R295 to R297). An accumulator word below 0 raises BOUNDS as one past 65,535 does. (DEDUCED: log entry 68. DEDUCED: log entry 69. DEDUCED: log
entry 130.) -/
def actMgo (_h : Hdr) (d : BitVec 4) (npf : BitVec 4) (e : Entry) (s : State) : Res :=
  let c := s.me
  let n := c.nest
  let np := npf.toNat
  let (a, b) := nestOps c n
  let q := s.cell s.cur.cell
  let total := nestTotal n
  if total = 0 then .ok (s.setMe (pushTokens s.me (pushesOf .c (tokOf e.i))))
  else if !arrayFree s || q.cyc.toNat % 4 != 0 || beatsHeld s then
    .error (.wait (if (nestScratch c n a b).any fun r => olderStore c e.id r then .score else .engine 1))
  else match checkTiles s e ((a.tiles c ++ b.tiles c).filter fun t => (a.gen.isSome || t != a.t) && (b.gen.isSome || t != b.t)) with
    | .error r => .error r
    | .ok _ =>
      if !formatsOk c np a b then .error (.fatal .illegalOpcode {})
      else if (a.gen.isSome && b.gen.isSome) || strayBits n.aoper || strayBits n.boper || n.cbase.toNat % 8 != 0 ||
          !shapesOk c a b || !scalesOk c a (a.dims c).1 || !scalesOk c b (b.dims c).2 then .error (boundsAt 0)
      else
        let m := (a.dims c).1
        let w := (b.dims c).2
        let org : Int := 4096 * (d.toNat : Int) + n.cbase.toNat
        let (cl, ch) := nestExtremes n (·.sc.toInt)
        let accLo := org + cl
        let accHi := org + ch + 64 * ((m : Int) - 1) + w
        let ra := nestRange n c a n.abase n.apitch (·.sa.toInt)
        let rb := nestRange n c b n.bbase n.bpitch (·.sb.toInt)
        let inWin (o : MOp) (r : Int × Int) : Bool := o.gen.isSome || (decide (0 ≤ r.1) && decide (r.2 < 0x400000))
        if accLo < 0 || 65536 < accHi || !inWin a ra || !inWin b rb then .error (boundsAt 0)
        else
          let scr := nestScratch c n a b
          if scr.any fun r => olderStore c e.id r then .error (.wait .score)
          else if ownOverlap s (accLo.toNat, accHi.toNat) then .error (.wait (.engine 1))
          else if footprintClash s { scr := scr, acc := some (accLo.toNat, accHi.toNat), accW := true } true then
            .error overlapFault
          else
            let g := (a.gen.orElse fun _ => b.gen).getD {}
            let cols := if a.gen.isSome then (a.shape c).2 else (b.shape c).2
            match stepsFor s g (if g.rope then nestCols n cols total else []) with
            | .error r => .error r
            | .ok (steps, s) =>
              if productBad c e (fld n.aoper 4 4 : BitVec 4).toNat (fld n.boper 4 4 : BitVec 4).toNat a b then .error regBad else
              let q := s.cell s.cur.cell
              let cmd : EngCmd := {
                id := e.id, slot := s.cur.slot, isNest := true, accLo := accLo.toNat, accHi := accHi.toNat, scr := scr,
                tiles := (a.tiles c ++ b.tiles c).map (·.toNat), compute := q.cyc.toNat, doneAt := 2 ^ 64,
                gen := a.gen.isSome || b.gen.isSome, pc := e.pc, i := e.i, iter := e.iter, push := pushesOf .c (tokOf e.i) }
              let run : NestRun := {
                slot := s.cur.slot, cfg := n, np := np, acc := 4096 * d.toNat, tag := clkOf e.i, ent := e, gen := g,
                steps := steps, total := total, load := q.cyc.toNat, ready := q.cyc.toNat + nestLoad n c 0 + 6, cmd := e.id }
              .ok (s.setCell s.cur.cell { q with engine := q.engine ++ [cmd], nest := some run })
def execMgo (h : Hdr) (d : BitVec 4) (np : BitVec 4) (s : State) : Host.Outcome State Fault Refusal :=
  finish s (.mgo h d np) (routeTo s (.mgo h d np) .c {} (actMgo h d np))

end Sys2Proof.Machine
end

