-- ==== Sys2Proof/Machine/Stream.lean ====
section
/-! DEFINITION. Stream registers (R66 to R79): layout records, positions and element addresses, bounds, and the stream-register
instructions. Their state is read and changed in the address stage, in program order (R79), which this machine runs when the
instruction routes. -/

namespace Sys2Proof.Machine

/-! ### Records (R66, R67) -/

/-- Fields of a record. -/
def recFmt (r : BitVec 512) : Option ElemType := ElemType.ofCode (fld r 0 4)
def recRank (r : BitVec 512) : Nat := (fld r 4 3 : BitVec 3).toNat
def recCb (r : BitVec 512) : BitVec 3 := fld r 8 3
def recBlk (r : BitVec 512) : Nat := (fld r 12 4 : BitVec 4).toNat
def recSstr (r : BitVec 512) : Nat := (fld r 16 16 : BitVec 16).toNat
def recSoff (r : BitVec 512) : Int := (fld r 32 32 : BitVec 32).toInt
def recExt (r : BitVec 512) (k : Nat) : BitVec 32 := fld r (128 + 32 * k) 32
def recStr (r : BitVec 512) (k : Nat) : Int := (fld r (320 + 32 * k) 32 : BitVec 32).toInt

/-- Product of six extents. -/
def extProduct (v : Vector (BitVec 32) 6) : Nat := v.toList.foldl (fun p x => p * x.toNat) 1

/-- The extents of a record. -/
def recExts (r : BitVec 512) : Vector (BitVec 32) 6 := Vector.ofFn fun k => recExt r k.val

/-- A malformed record (R67). -/
def malformedRecord (r : BitVec 512) : Bool :=
  let cb4 := recFmt r == some .cb4
  (recFmt r).isNone || recRank r == 0 || recRank r == 7 || r.getLsbD 7 || r.getLsbD 11 || (fld r 64 64 : Word) != 0 ||
    (cb4 && (decide (recBlk r < 4) || decide (12 < recBlk r))) || (!cb4 && (fld r 8 56 : BitVec 56) != 0) ||
    (List.range 6).any (fun k => decide (recRank r ≤ k) && recExt r k != 1) || decide (2 ^ 48 ≤ extProduct (recExts r))

/-! ### Positions (R70) -/

namespace StreamReg

/-- The stream is bound: its record has a rank. -/
def bound (a : StreamReg) : Bool := recRank a.record != 0
/-- Stored format, FP32 where the stream is unbound. -/
def fmt (a : StreamReg) : ElemType := (recFmt a.record).getD .fp32
/-- Delivered format (R71). -/
def delivered (a : StreamReg) : ElemType := if a.fmt = .cb4 then .bf16 else a.fmt
/-- Total T. -/
def total (a : StreamReg) : Nat := extProduct a.ext

/-- Coordinates of a position over some extents. (DEDUCED: log entry 29.) -/
def coordsOf : List Nat → Nat → List Nat
  | [], _ => []
  | e :: es, p => p % e :: coordsOf es (p / e)

/-- Coordinates of a position below T, all 0 from T on. -/
def coords (a : StreamReg) (p : Nat) : List Nat :=
  if p < a.total then coordsOf (a.ext.toList.map (·.toNat)) p else [0, 0, 0, 0, 0, 0]

/-- Element offset of some coordinates. -/
def offset (a : StreamReg) (cs : List Nat) : Int :=
  ((List.range 6).zip cs).foldl (fun o (k, c) => o + c * recStr a.record k) 0

end StreamReg

/-- One element that an access touches: its lane, byte address, the nibble of a 4-bit element, the address of its scale. -/
structure Touch where
  lane : Nat := 0
  addr : Int := 0
  hi : Option Bool := none
  scale : Option Int := none
  deriving DecidableEq, Repr

/-- The element at an offset (R70, R71). -/
def touchAt (a : StreamReg) (lane : Nat) (o : Int) : Touch :=
  let w := a.fmt.width
  { lane := lane, addr := (a.base.toNat : Int) + (o * w).fdiv 8,
    hi := if w = 4 then some (o % 2 == 1) else none,
    scale := if a.fmt = .cb4 then
        some ((a.base.toNat : Int) + recSoff a.record + recSstr a.record * o.fdiv (2 ^ recBlk a.record)) else none }

/-- The elements of some lanes at positions from 0 up to T; a position is an exact sum (R4, R83). (DEDUCED: log entry 29.) -/
def touches (a : StreamReg) (l : List (Nat × Int)) : List Touch :=
  l.filterMap fun (i, p) => if 0 ≤ p ∧ p < a.total then some (touchAt a i (a.offset (a.coords p.toNat))) else none

/-- The bytes of an element and of its scale. -/
def Touch.bytes (w : Nat) (t : Touch) : List Int :=
  ((List.range (max 1 (w / 8))).map fun (i : Nat) => t.addr + (i : Int)) ++ (match t.scale with
    | some x => [x, x + 1]
    | none => [])

/-- A byte may be accessed: a scratch address (R18), and within the bounds record (R73). -/
def byteAllowed (cell : Nat) (a : StreamReg) (x : Int) : Bool :=
  decide (0 ≤ x) && (scratchAddr cell x.toNat).isSome &&
    (!a.bv || (decide ((a.blo.toNat : Int) ≤ x) && decide (x < a.bhi.toNat)))

/-- A byte of the cluster window. -/
def inCluster (x : Int) : Bool := decide (0x80000000 ≤ x)

/-- The BOUNDS fault of some elements: the lane of the first offending one and the lowest offending address (R73). Bytes in both windows offend where
they lie in another window than the first byte (R18). An access that touches no byte raises none, whatever the bounds record. (DEDUCED: log entry 31.
DESIGN CHOICE: log entry 108.) -/
def checkTouches (cell : Nat) (a : StreamReg) (l : List Touch) : Except Raise Unit :=
  let w := a.fmt.width
  let all := l.map fun t => (t.lane, t.bytes w)
  let first := inCluster ((all.flatMap (·.2)).headD 0)
  let bad := all.map fun x => (x.1, x.2.filter fun b => !byteAllowed cell a b || inCluster b != first)
  match bad.find? fun x => !x.2.isEmpty with
  | none => .ok ()
  | some (lane, _) =>
    let addrs := bad.flatMap (·.2)
    let lowest := addrs.foldl min (addrs.headD 0)
    .error (boundsAt (BitVec.ofInt 64 lowest) lane)

/-- The range of the bytes of some elements, empty when there are none (R55, R58). -/
def rangeOf (w : Nat) (l : List Touch) : Nat × Nat :=
  let xs := l.flatMap (·.bytes w)
  match xs with
  | [] => (0, 0)
  | x :: _ => ((xs.foldl min x).toNat, (xs.foldl max x).toNat + 1)

/-- An access to scratch through a stream needs a bound stream with SP = 0 (R69, R83). -/
def checkStream (a : StreamReg) : Except Raise Unit :=
  if a.bound && !a.sp then .ok () else .error (boundsAt a.base)

/-- Replaces a stream register. -/
def setA (c : Ctx) (d : BitVec 4) (a : StreamReg) : Ctx := { c with a := c.a.set d.toFin a d.toFin.isLt }

/-! ### Stream-register instructions (R75 to R78) -/

/-- The 64 bytes of a record at an offset from LAYOUT.BASE, read as data; of a cached record that has changed either value is taken (R75). -/
def fetchRecord (s : State) (off : Nat) : Except Raise (BitVec 512 × State) :=
  let va := s.me.layoutBase + BitVec.ofNat 64 off
  if pastTop s.me.layoutBase off 64 then .error (rangeFault va)
  else match readVirt s s.cur .read va 64 with
  | .error e => .error e
  | .ok b =>
    match hbmBad va b with
    | some r => .error r
    | none =>
      let new := BitVec.ofNat 512 (leNat (b.map (·.1)))
      let s := useRange s s.cur .read va 64
      match find? s.me.recCache va with
      | some old => .ok (if old = new || Config.freeStale (s.free va.toNat) % 2 == 0 then new else old, s)
      | none => .ok (new, s.setMe { s.me with recCache := ((va, new) :: s.me.recCache).take 16 })

/-- The stage of ASET and ASET.V (R75). -/
def stageAset (o : StreamOp) (ln : BitVec 11) (sp : Bool) (e : Entry) (s : State) : Except Raise (Entry × State) :=
  match checkTags s e [] false with
  | .error r => .error r
  | .ok _ =>
    let va := s.me.layoutBase + 64 * zx ln
    match fetchRecord s (64 * ln.toNat) with
    | .error r => .error r
    | .ok (r, s) =>
      if malformedRecord r then .error (boundsAt (va56 va))
      else .ok (e, s.setMe (setA s.me o.d {
        base := e.sc 0 + zx o.imm, pos := 0, ext := recExts r, layout := fld va 0 56, sp := sp, record := r }))

/-- The extents of a stream with one of them replaced. -/
def setExt (a : StreamReg) (dim : BitVec 4) (x : BitVec 32) : Vector (BitVec 32) 6 :=
  if h : dim.toNat < 6 then a.ext.set dim.toNat x h else a.ext

/-- A dimension that a bound stream does not have (R76). -/
def badDim (a : StreamReg) (dim : BitVec 4) : Bool :=
  a.bound && (decide (6 ≤ dim.toNat) || decide (recRank a.record ≤ dim.toNat))

/-- The stage of ASETX (R76): RESERVED_FIELD, which a bound stream can raise, comes before the clock tags (R65). (DEDUCED: log entry 30.) -/
def stageAsetx (o : StreamOp) (dim : BitVec 4) (e : Entry) (s : State) : Except Raise (Entry × State) :=
  let a := s.me.a[o.d.toFin]
  if badDim a dim then .error (.fatal .reservedField {})
  else match checkTags s e [] false with
    | .error r => .error r
    | .ok _ =>
      let ext := setExt a dim (fld (e.sc 0 + sx o.imm) 0 32)
      if !a.bound || decide (2 ^ 48 ≤ extProduct ext) then .error (boundsAt a.base)
      else .ok (e, s.setMe (setA s.me o.d { a with ext := ext }))

/-- The stage of AADV and AADV.ABS (R77). -/
def stageAadv (o : StreamOp) (abs : Bool) (e : Entry) (s : State) : Except Raise (Entry × State) :=
  match checkTags s e [] false with
  | .error r => .error r
  | .ok _ =>
    let a := s.me.a[o.d.toFin]
    .ok (e, s.setMe (setA s.me o.d { a with pos := (if abs then 0 else a.pos) + e.sc 0 + sx o.imm }))

/-- The stage of ABND (R78). -/
def stageAbnd (d : BitVec 4) (e : Entry) (s : State) : Except Raise (Entry × State) :=
  match checkTags s e [] false with
  | .error r => .error r
  | .ok _ =>
    let a := s.me.a[d.toFin]
    let lo := e.sc 0
    let hi := e.sc 1
    .ok (e, s.setMe (setA s.me d { a with blo := lo, bhi := hi, bv := lo != 0 || hi != 0 }))

/-- A stream-register instruction has nothing left to do when it issues but its tokens. -/
def actNone (_e : Entry) (s : State) : Res := .ok s

/-- ASET (R75). -/
def actAset (_o : StreamOp) (_ln : BitVec 11) (e : Entry) (s : State) : Res := actNone e s
def execAset (o : StreamOp) (ln : BitVec 11) (s : State) : Host.Outcome State Fault Refusal :=
  finish s (.aset o ln) (routeTo s (.aset o ln) .l { src := [(o.b, o.ub)], stage := stageAset o ln false } (actAset o ln))
/-- ASET.V (R75). -/
def actAsetV (_o : StreamOp) (_ln : BitVec 11) (e : Entry) (s : State) : Res := actNone e s
def execAsetV (o : StreamOp) (ln : BitVec 11) (s : State) : Host.Outcome State Fault Refusal :=
  finish s (.asetV o ln) (routeTo s (.asetV o ln) .l { src := [(o.b, o.ub)], stage := stageAset o ln true } (actAsetV o ln))
/-- ASETX (R76). -/
def actAsetx (_o : StreamOp) (_dim : BitVec 4) (e : Entry) (s : State) : Res := actNone e s
def execAsetx (o : StreamOp) (dim : BitVec 4) (s : State) : Host.Outcome State Fault Refusal :=
  let i : Instr := .asetx o dim
  let r : Routing := { src := [(o.b, o.ub)], stage := stageAsetx o dim }
  /- RESERVED_FIELD comes before a fault of its clock too (R65) -/
  let clockFails := rootForbidden s.me (clkOf i) || match presence s.me (clkOf i) with
    | .error (.wait _) | .ok _ => false
    | .error _ => true
  finish s i (if badDim s.me.a[o.d.toFin] dim && clockFails then
      routeWith s i .l r (actAsetx o dim) (some (.fatal .reservedField {})) (presence s.me (clkOf i))
    else routeTo s i .l r (actAsetx o dim))
/-- AADV (R77). -/
def actAadv (_o : StreamOp) (e : Entry) (s : State) : Res := actNone e s
def execAadv (o : StreamOp) (s : State) : Host.Outcome State Fault Refusal :=
  finish s (.aadv o) (routeTo s (.aadv o) .l { src := [(o.b, o.ub)], stage := stageAadv o false } (actAadv o))
/-- AADV.ABS (R77). -/
def actAadvAbs (_o : StreamOp) (e : Entry) (s : State) : Res := actNone e s
def execAadvAbs (o : StreamOp) (s : State) : Host.Outcome State Fault Refusal :=
  finish s (.aadvAbs o) (routeTo s (.aadvAbs o) .l { src := [(o.b, o.ub)], stage := stageAadv o true } (actAadvAbs o))
/-- ABND (R78). -/
def actAbnd (_h : Hdr) (_d : BitVec 4) (_rb : BitVec 6) (_ub : Bool) (_x : BitVec 6) (_ux : Bool) (e : Entry) (s : State) : Res :=
  actNone e s
def execAbnd (h : Hdr) (d : BitVec 4) (rb : BitVec 6) (ub : Bool) (x : BitVec 6) (ux : Bool) (s : State) :
    Host.Outcome State Fault Refusal :=
  finish s (.abnd h d rb ub x ux)
    (routeTo s (.abnd h d rb ub x ux) .l { src := [(rb, ub), (x, ux)], stage := stageAbnd d } (actAbnd h d rb ub x ux))

end Sys2Proof.Machine
end

