-- ==== Sys2Proof/Machine/LoadStore.lean ====
section
/-! DEFINITION. The access core's loads and stores (R82 to R88): scalar and vector accesses, gathers, scatters, tile loads and
permutes. A load reads its bytes when it issues and writes its destination when LOAD_DELIVERY comes; a store takes a
forwarding-table entry when it issues and writes its bytes at STORE_PERFORM (R143), or enters the commit buffer (R174). -/

namespace Sys2Proof.Machine

/-- Bytes of an access width (R80). -/
def memBytes : MemWidth → Nat
  | .i8 | .nat8 => 1 | .i16 | .nat16 => 2 | .i32 | .nat32 => 4 | .x64 => 8

/-- The loaded value of an access width (R80). -/
def extendMem (w : MemWidth) (x : Nat) : Word :=
  match w with
  | .i8 => (BitVec.ofNat 8 x).signExtend 64
  | .i16 => (BitVec.ofNat 16 x).signExtend 64
  | .i32 => (BitVec.ofNat 32 x).signExtend 64
  | _ => BitVec.ofNat 64 x

/-! ### Bytes as the context's own loads see them (R59, R174) -/

/-- Inserts a numbered overlay in rising order. -/
def insertOverlay (x : Nat × Byte × Byte) : List (Nat × Byte × Byte) → List (Nat × Byte × Byte)
  | [] => [x]
  | y :: l => if x.1 < y.1 then x :: y :: l else y :: insertOverlay x l

/-- The bytes that lanes write at their elements, in lane order: by scratch address, with the bits of each (R84, R86). -/
def writesOf (w : Nat) (lanes : Nat → Nat) (l : List Touch) : List (Nat × Byte × Byte) :=
  l.flatMap fun t =>
    let x := lanes t.lane
    match t.hi with
    | some h => [(t.addr.toNat, BitVec.ofNat 8 (if h then x % 16 * 16 else x % 16), if h then 0xF0 else 0x0F)]
    | none => (List.range (w / 8)).map fun i => (t.addr.toNat + i, BitVec.ofNat 8 (x / 256 ^ i % 256), 0xFF)

/-- Lanes 0 to n − 1 at POS + sext(IMM16) + i (R83). -/
def linear (a : StreamReg) (imm : BitVec 16) (n : Nat) : List (Nat × Int) :=
  (List.range n).map fun i => (i, (a.pos.toNat : Int) + imm.toInt + i)

/-- The elements of LDV and STV. -/
def touchesV (o : LdStV) (a : StreamReg) (n : Nat) : List Touch := touches a (linear a o.imm n)

/-- The elements of LDVX and STVX: active lanes i < n with index vX.e[i] (R85). -/
def touchesX (o : LdStVX) (a : StreamReg) (n : Nat) (idx : Vec) (mask : Option Vec) : List Touch :=
  let iw := if o.nat32 then 32 else 16
  let k := min n (4096 / iw)
  let on' (i : Nat) : Bool := match mask with
    | some m => m.getLsbD i
    | none => true
  touches a (((List.range k).filter on').map fun i => (i, (a.pos.toNat : Int) + o.imm.toInt + lane idx iw i))

/-- The elements that a scatter whose data has passed writes: a store touches no scale. -/
def scatterTouches (o : LdStVX) (e : Entry) : List Touch :=
  (touchesX o e.strm e.strm.delivered.lanes (e.data.getD 1 0) (if o.me then some (e.data.getD 2 0) else none)).map
    fun t => { t with scale := none }

/-- The bytes that a store writes, once its data has arrived: by scratch address, with the bits of each (R82, R84, R86). -/
def storeWrites (e : Entry) : List (Nat × Byte × Byte) :=
  let w := e.strm.fmt.width
  match e.i with
  | .sts o => (List.range (memBytes o.w)).map fun i => ((e.rng.getD (0, 0)).1 + i, fld (e.sc 1) (8 * i) 8, 0xFF)
  | .stv o => writesOf w (lane (e.data.getD 0 0) w) (touchesV o e.strm e.strm.fmt.lanes)
  | .stvx o => writesOf w (lane (e.data.getD 0 0) w) (scatterTouches o e)
  | _ => []

/-- A store that has not issued and whose data a load can take (R59): it is no scatter, and its data has arrived. -/
def Entry.forwards (e : Entry) : Bool :=
  match e.i with
  | .sts _ => true
  | .stv _ => e.passed
  | _ => false

/-- The stores of the context older than `id` that have not issued. -/
def queuedStores (c : Ctx) (id : Nat) : List Entry :=
  c.qS.filter fun e => e.kind == .instr && isStore e.i && decide (e.id < id) && e.present && e.err.isNone

/-- What the context's own earlier stores hold of a scratch byte: number, byte and bits. (DEDUCED: log entry 39.) -/
def overlays (c : Ctx) (cell id a : Nat) : List (Nat × Byte × Byte) :=
  let key := (scratchAddr cell a).getD 0
  let fromQueue := ((queuedStores c id).filter (·.forwards)).flatMap fun e =>
    ((storeWrites e).filter (·.1 == a)).map fun x => (e.id, x.2.1, x.2.2)
  let fromStores := c.stores.filterMap fun st =>
    if st.id < id then (find? (combine st.cells []) key).map fun x => (st.id, x.1, x.2) else none
  let fromSpans := c.commits.filterMap fun p =>
    if p.id < id ∧ p.addr ≤ a ∧ a < p.addr + 512 then
      let b : Byte := fld p.data (8 * (a - p.addr)) 8
      let m : Byte := fld p.msk (8 * (a - p.addr)) 8
      if m = 0 then none else some (p.id, b, m)
    else none
  (fromStores ++ fromSpans ++ fromQueue).foldl (fun l x => insertOverlay x l) []

/-- A scratch byte as a load numbered `id` reads it, and whether it is poisoned. -/
def loadByte (s : State) (id a : Nat) : Byte × Bool :=
  let cell := s.cur.cell
  let key := (scratchAddr cell a).getD 0
  let l := overlays s.me cell id a
  let (b, m) := l.foldl (fun (b, m) x => (merge b x.2.1 x.2.2, m ||| x.2.2)) (s.byte key, (0 : Byte))
  (b, s.bad key && m != 0xFF)

/-- The UNCORRECTED fault of a scratch word (R350). -/
def scratchBad (a : Nat) : Raise := .fatal .uncorrected { addr := BitVec.ofNat 64 (a / 8 * 8), sub := 1 }

/-- Bytes from `a` on, or UNCORRECTED. -/
def loadNat (s : State) (id a n : Nat) : Except Raise Nat :=
  let bs := (List.range n).map fun i => loadByte s id (a + i)
  match ((List.range n).zip bs).find? (·.2.2) with
  | some (i, _) => .error (scratchBad (a + i))
  | none => .ok (leNat (bs.map (·.1)))

/-- The stored value of an element. (DEDUCED: log entry 36.) -/
def loadTouch (s : State) (id w : Nat) (t : Touch) : Except Raise Nat :=
  match loadNat s id t.addr.toNat (max 1 (w / 8)) with
  | .error e => .error e
  | .ok x => match t.hi with
    | none => .ok x
    | some h => .ok (if h then x / 16 % 16 else x % 16)

/-- The delivered value of an element (R71). -/
def deliverTouch (s : State) (id : Nat) (a : StreamReg) (t : Touch) : Except Raise Nat :=
  match loadTouch s id a.fmt.width t with
  | .error e => .error e
  | .ok x => match t.scale with
    | none => .ok x
    | some z => match loadNat s id z.toNat 2 with
      | .error e => .error e
      | .ok sc => .ok (cbValue s.me.cb[(recCb a.record).toFin] x sc)

/-- A load that decodes through a poisoned codebook (R350, R351). -/
def cbBad (c : Ctx) (a : StreamReg) (l : List Touch) : Bool :=
  l.any (·.scale.isSome) && c.badRegs.contains (.cb, (recCb a.record).toNat)

/-- The delivered values of some elements by lane. -/
def deliverAll (s : State) (id : Nat) (a : StreamReg) : List Touch → Except Raise (List (Nat × Nat))
  | [] => .ok []
  | t :: l => match deliverTouch s id a t with
    | .error e => .error e
    | .ok x => (deliverAll s id a l).map ((t.lane, x) :: ·)

/-- `n` lanes from values by lane, zero elsewhere. -/
def lanesFrom (n : Nat) (l : List (Nat × Nat)) : List Nat := (List.range n).map fun i => (find? l i).getD 0

/-! ### Waits of loads and stores -/

/-- `a` lies within `b`. -/
def within (a b : Nat × Nat) : Bool := decide (b.1 ≤ a.1) && decide (a.2 ≤ b.2)

/-- An older store of the context that this load can neither forward from nor pass (R59). -/
def storeBlocks (c : Ctx) (id : Nat) (r : Nat × Nat) : Bool :=
  let unissued := (queuedStores c id).filter (·.mayTouch r)
  let inFlight := c.stores.filter fun st => st.id < id && meets st.rng r
  match unissued, inFlight with
  | [], [] => false
  | [], [st] => st.scatter || !within r st.rng
  | [e], [] => !e.forwards || !within r (e.rng.getD (0, 0))
  | _, _ => true

/-- Beats of an access to some bytes (R72): the distinct aligned 512-byte spans of the local window, or the distinct 128-byte granules of the cluster
window in groups of four; one where it touches no byte. -/
def beatsOf (xs : List Int) : Nat :=
  let far := inCluster (xs.headD 0)
  let n := ((xs.map fun x => x / (if far then 128 else 512)).eraseDups).length
  max 1 (if far then (n + 3) / 4 else n)

/-- Beats that take a port of the local window: those of an access that touches a byte of it. -/
def localBeats (xs : List Int) : Nat := if xs.isEmpty || inCluster (xs.headD 0) then 0 else beatsOf xs

/-- The bytes that a load or store of `n` bytes from `a` touches. -/
def spread (a n : Nat) : List Int := (List.range n).map fun (i : Nat) => ((a + i : Nat) : Int)

/-- The bytes of some elements. -/
def touchBytes (a : StreamReg) (l : List Touch) : List Int := l.flatMap (·.bytes a.fmt.width)

/-- Entries of the load data queue that are taken (R162); the data that was set aside with the queues takes none (R340). -/
def queueTaken (c : Ctx) : Nat :=
  ((c.loads.filter fun l => c.asideTok.isNone || decide (c.asideAt ≤ l.id)).map (·.beats)).sum

/-- A tile load of more beats than there are free entries: its receive entry stands at the head of the C queue and may write the tile, and takes each
beat as it lands (R162). -/
def takesBeats (s : State) (e : Entry) : Bool :=
  match e.i, s.me.qC with
  | .ldt _ t _ _, x :: _ => x.kind == .receive && x.id == e.id && !tileInUse s t
  | _, _ => false

/-- The waits and the footprint check of a load of range `r` that touches the bytes `xs` (R38, R56, R59, R72, R135, R162). (DEDUCED: log entry 38.) -/
def loadOrder (s : State) (e : Entry) (r : Nat × Nat) (xs : List Int) : Except Raise Unit :=
  if scored s s.cur.cell false r || storeBlocks s.me e.id r then .error (.wait .score)
  else if 16 < queueTaken s.me + beatsOf xs && !takesBeats s e then .error (.wait (.engine 6))
  else if !portsFree s (localBeats xs) then .error (.wait (.engine 1))
  else if nestClash s r false then .error overlapFault
  else .ok ()

/-- An access of more than one beat holds its ports up to its last beat (R72). -/
def holdBeats (s : State) (xs : List Int) : State :=
  if localBeats xs ≤ 1 then s else s.setMe { s.me with beatsTo := max s.me.beatsTo (now s + localBeats xs - 1) }

/-- A load in flight. -/
def addLoad (s : State) (l : Load) : State := s.setMe { s.me with loads := s.me.loads ++ [l] }

/-- The common fields of a load of entry `e`. -/
def newLoad (e : Entry) (q : Queue) (d : LoadDest) (beats : Nat := 1) : Load :=
  { id := e.id, i := e.i, dest := d, tag := clkOf e.i, hand := e.hand, push := pushesOf q (tokOf e.i), beats := beats }

/-- A scratch load that has read its bytes `xs` is in flight; one of too many beats takes what is free of the load data queue (R162). -/
def issueLoad (s : State) (e : Entry) (xs : List Int) (d : LoadDest) (f : Load → Load) : State :=
  addLoad (holdBeats s xs) (f (newLoad e .l d (min (beatsOf xs) (16 - queueTaken s.me))))

/-! ### LDS and STS (R82) -/

/-- The scratch address of LDS and STS: s[B] + sext(IMM16), aligned to the width. -/
def ldsAddr (b : Word) (imm : BitVec 16) (n cell : Nat) : Except Raise Nat :=
  let a := b + sx imm
  if a &&& bitMask 63 32 != 0 || a.toNat % n != 0 || (scratchAddr cell a.toNat).isNone then .error (boundsAt a)
  else .ok a.toNat

/-- The stage of LDS. -/
def stageLds (o : LdS) (e : Entry) (s : State) : Except Raise (Entry × State) :=
  match checkTags s e [] false with
  | .error r => .error r
  | .ok _ => (ldsAddr (e.sc 0) o.imm (memBytes o.w) s.cur.cell).map fun a => ({ e with rng := some (a, a + memBytes o.w) }, s)

/-- LDS. -/
def actLds (o : LdS) (e : Entry) (s : State) : Res :=
  let r := e.rng.getD (0, 0)
  let xs := spread r.1 (memBytes o.w)
  match loadOrder s e r xs with
  | .error x => .error x
  | .ok _ => (loadNat s e.id r.1 (memBytes o.w)).map fun x =>
    issueLoad s e xs (.s o.d) ({ · with val := (extendMem o.w x).setWidth 4096 })
def execLds (o : LdS) (s : State) : Host.Outcome State Fault Refusal :=
  finish s (.lds o) (routeTo s (.lds o) .l { src := [(o.b, o.ub)], dest := [o.d], stage := stageLds o } (actLds o))

/-! ### Stores -/

/-- Whether a store is instant-scoped: its bytes lie in the window of an open instant, and one that straddles the window's edge raises
BOUNDS (R174). No store of a handler is (R333). -/
def scopedStore (c : Ctx) (e : Entry) (xs : List Nat) : Except Raise Bool :=
  match if e.opened && !e.hand then instantWindow c else none with
  | none => .ok false
  | some (lo, hi) =>
    let inside (a : Nat) : Bool := lo ≤ a && a < hi
    if xs.any inside then
      match xs.filter fun a => !inside a with
      | [] => .ok true
      | a :: l => .error (boundsAt (BitVec.ofNat 64 (l.foldl min a)))
    else .ok false

/-- Adds bytes to the span of the commit buffer that holds them: the bytes of one store in one 512-byte block. Spans of one instant and block are one
entry of the buffer (R174). -/
def addSpan (inst : Word) (id : Nat) (l : List Span) (a : Nat) (b m : Byte) : List Span :=
  let base := a / 512 * 512
  let sh := 8 * (a - base)
  let put1 (p : Span) : Span :=
    let mm : Vec := m.setWidth 4096 <<< sh
    { p with msk := p.msk ||| mm, data := (p.data &&& ~~~mm) ||| ((b &&& m).setWidth 4096 <<< sh), id := id }
  let mine (p : Span) : Bool := p.inst == inst && p.addr == base && p.id == id
  if l.any mine then l.map fun p => if mine p then put1 p else p
  else l ++ [put1 { inst := inst, addr := base }]

/-- Entries of the commit buffer that are taken. -/
def bufferTaken (l : List Span) : Nat := ((l.map fun p => (p.inst, p.addr)).eraseDups).length

/-- The issue of a store whose bytes are known: it waits for older loads (R59) and copies (R56), then enters the commit buffer when
it is instant-scoped (R174), and otherwise takes its forwarding-table entry (R58). -/
def issueStore (s : State) (e : Entry) (scatter : Bool) (r : Nat × Nat) : Res :=
  let ws := storeWrites e
  let xs := ws.map fun x => (x.1 : Int)
  let push := pushesOf .s (tokOf e.i)
  match scopedStore s.me e (ws.map (·.1)) with
  | .error x => .error x
  | .ok inWindow =>
    if scored s s.cur.cell false r || olderLoad s.me e.id r then .error (.wait .score)
    else if 16 ≤ s.me.stores.length then .error (.wait .score)
    else if !portsFree s (localBeats xs) then .error (.wait (.engine 1))
    else if nestClash s r true then .error overlapFault
    else
    let s := holdBeats s xs
    if inWindow then
      let l := ws.foldl (fun l x => addSpan e.inst e.id l x.1 x.2.1 x.2.2) s.me.commits
      if 64 < bufferTaken l then .error (boundsAt (BitVec.ofNat 64 r.1))
      else .ok (s.setMe (pushTokens { s.me with commits := l } push))
    else if ws.isEmpty then .ok (s.setMe (pushTokens s.me push))
    else
      let cells := ws.map fun x => ((scratchAddr s.cur.cell x.1).getD 0, x.2.1, x.2.2)
      .ok (s.setMe { s.me with stores := s.me.stores ++ [{ id := e.id, rng := r, scatter := scatter, cells := cells, push := push }] })

/-- The stage of STS. -/
def stageSts (o : StS) (e : Entry) (s : State) : Except Raise (Entry × State) :=
  match checkTags s e [] false with
  | .error r => .error r
  | .ok _ => match ldsAddr (e.sc 0) o.imm (memBytes o.w) s.cur.cell with
    | .error r => .error r
    | .ok a => match scopedStore s.me e ((List.range (memBytes o.w)).map (a + ·)) with
      | .error r => .error r
      | .ok _ => .ok ({ e with rng := some (a, a + memBytes o.w) }, s)

/-- STS: its data is the value of s[D] at routing. -/
def actSts (_o : StS) (e : Entry) (s : State) : Res :=
  issueStore s e false (e.rng.getD (0, 0))
def execSts (o : StS) (s : State) : Host.Outcome State Fault Refusal :=
  finish s (.sts o)
    (routeTo s (.sts o) .s { src := [(o.b, o.ub), (o.d, o.ud)], stage := stageSts o } (actSts o))

/-! ### LDV and STV (R83, R84) -/

/-- Moves the position on. -/
def advanceStream (s : State) (b : BitVec 4) (adv : Bool) (n : Nat) : State :=
  if adv then
    let a := s.me.a[b.toFin]
    s.setMe (setA s.me b { a with pos := a.pos + BitVec.ofNat 64 n })
  else s

/-- The stage of LDV (`n` lanes of the delivered format) and STV (of the stored format). (DEDUCED: log entry 32.) -/
def stageV (o : LdStV) (load : Bool) (e : Entry) (s : State) : Except Raise (Entry × State) :=
  let a := s.me.a[o.b.toFin]
  match checkStream a with
  | .error r => .error r
  | .ok _ =>
    let n := if load then a.delivered.lanes else a.fmt.lanes
    let l := (touchesV o a n).map fun t => if load then t else { t with scale := none }
    match checkTouches s.cur.cell a l with
    | .error r => .error r
    | .ok _ => match if load then .ok false else scopedStore s.me e (l.flatMap fun t => (t.bytes a.fmt.width).map (·.toNat)) with
      | .error r => .error r
      | .ok _ => .ok ({ e with strm := a, rng := some (rangeOf a.fmt.width l) }, advanceStream s o.b o.adv n)

/-- An earlier CBLD has not issued (R280). -/
def cbBlocks (c : Ctx) (e : Entry) : Bool :=
  e.strm.fmt == .cb4 && c.qC.any fun x => x.kind == .instr && x.id < e.id && match x.i with
    | .cbld _ _ => true
    | _ => false

/-- LDV. -/
def actLdv (o : LdStV) (e : Entry) (s : State) : Res :=
  let a := e.strm
  let n := a.delivered.lanes
  let l := touchesV o a n
  let xs := touchBytes a l
  let r : Res := match loadOrder s e (e.rng.getD (0, 0)) xs with
    | .error x => .error x
    | .ok _ =>
      if cbBad s.me a l then .error regBad
      else (deliverAll s e.id a l).map fun l =>
        issueLoad s e xs (.v o.d) ({ · with val := ofLanes a.delivered.width (lanesFrom n l) })
  if cbBlocks s.me e then behind (.operand 1) r else r
def execLdv (o : LdStV) (s : State) : Host.Outcome State Fault Refusal :=
  finish s (.ldv o) (routeTo s (.ldv o) .l { comps := [.receive], stage := stageV o true } (actLdv o))

/-- STV. -/
def actStv (_o : LdStV) (e : Entry) (s : State) : Res :=
  if !e.passed then behind (.operand 1) (issueStore s e false (e.rng.getD (0, 0))) else issueStore s e false (e.rng.getD (0, 0))
def execStv (o : LdStV) (s : State) : Host.Outcome State Fault Refusal :=
  finish s (.stv o) (routeTo s (.stv o) .s { comps := [.storeData], stage := stageV o false } (actStv o))

/-! ### Gathers and scatters (R85, R86) -/

/-- The stage of LDVX and STVX: the stream as it stands; the addresses wait for the index vector. -/
def stageX (b : BitVec 4) (e : Entry) (s : State) : Except Raise (Entry × State) :=
  let a := s.me.a[b.toFin]
  (checkStream a).map fun _ => ({ e with strm := a }, s)

/-- LDVX. -/
def actLdvx (o : LdStVX) (e : Entry) (s : State) : Res :=
  let a := e.strm
  let n := a.delivered.lanes
  let l := touchesX o a n (e.data.getD 0 0) (if o.me then some (e.data.getD 1 0) else none)
  let xs := touchBytes a l
  let r : Res := match checkTouches s.cur.cell a l with
    | .error x => .error x
    | .ok _ => match loadOrder s e (rangeOf a.fmt.width l) xs with
      | .error x => .error x
      | .ok _ =>
        if cbBad s.me a l then .error regBad
        else (deliverAll s e.id a l).map fun vs =>
          issueLoad s e xs (.v o.d) ({ · with val := ofLanes a.delivered.width (lanesFrom n vs) })
  if !e.passed then .error (.wait (.operand 1)) else if cbBlocks s.me e then behind (.operand 1) r else r
def execLdvx (o : LdStVX) (s : State) : Host.Outcome State Fault Refusal :=
  finish s (.ldvx o) (routeTo s (.ldvx o) .l { comps := [.source, .receive], stage := stageX o.b } (actLdvx o))

/-- STVX: the lanes perform in ascending order, and its forwarding-table entry is a scatter's. (DEDUCED: log entry 35.) -/
def actStvx (o : LdStVX) (e : Entry) (s : State) : Res :=
  let l := scatterTouches o e
  if !e.passed then .error (.wait (.operand 1))
  else match checkTouches s.cur.cell e.strm l with
    | .error x => .error x
    | .ok _ => issueStore s e true (rangeOf e.strm.fmt.width l)

/-- The range of a scatter whose index vector has arrived is known to the address stage (R58). -/
def nameRange (e : Entry) : Entry :=
  match e.i with
  | .stvx o => if e.kind == .instr && e.passed then { e with rng := some (rangeOf e.strm.fmt.width (scatterTouches o e)) } else e
  | _ => e
def execStvx (o : LdStVX) (s : State) : Host.Outcome State Fault Refusal :=
  finish s (.stvx o) (routeTo s (.stvx o) .s { comps := [.storeData], stage := stageX o.b } (actStvx o))

/-! ### Tile loads (R87) -/

/-- A tile's configuration once every TCFG that stands in the C queue has issued (R287). -/
def tileCfgAhead (c : Ctx) (t : BitVec 3) : Word :=
  c.qC.foldl (fun w e => match e.i with
    | .tcfg _ u ty rows rlen =>
      if e.kind == .instr && e.present && u == t then (w &&& rangesMask [(26, 21)]) ||| (0#44 ++ ty.code ++ rows ++ rlen) else w
    | _ => w) (tileCfg c t)

/-- The elements of a tile of `rows` rows of `n` elements: (c0 + j, c1 + r, c2, …), those past an extent left out. A BOUNDS report names element j of row r
by lane r × n + j. (DESIGN CHOICE: log entry 109.) -/
def touchesT (a : StreamReg) (rows n : Nat) : List Touch :=
  let cs := a.coords a.pos.toNat
  let ext := a.ext.toList.map (·.toNat)
  (List.range rows).flatMap fun r => (List.range n).filterMap fun j =>
    let c := match cs with
      | c0 :: c1 :: rest => (c0 + j) :: (c1 + r) :: rest
      | l => l
    if (c.zip ext).all fun x => decide (x.1 < x.2) then some (touchAt a (r * n + j) (a.offset c)) else none

/-- The stream's format fits the tile's (R87). -/
def tilePairing (a : StreamReg) (ty : Option ElemType) : Bool :=
  match ty with
  | some .cb4 => a.fmt == .nat4
  | some t => a.delivered == t
  | none => false

/-- The stage of LDT. (DEDUCED: log entry 33.) -/
def stageLdt (t : BitVec 3) (b : BitVec 4) (adv : Bool) (e : Entry) (s : State) : Except Raise (Entry × State) :=
  let w := tileCfgAhead s.me t
  let a := s.me.a[b.toFin]
  if tcfgRows w = 0 then .error (boundsAt a.base)
  else match checkStream a with
    | .error r => .error r
    | .ok _ =>
      if !tilePairing a (tcfgTy w) then .error (boundsAt a.base)
      else
        let l := touchesT a (tcfgRows w) (tcfgE w)
        match checkTouches s.cur.cell a l with
        | .error r => .error r
        | .ok _ =>
          .ok ({ e with strm := a, rng := some (rangeOf a.fmt.width l) },
            advanceStream s b adv (tcfgRows w * (a.ext[0]).toNat))

/-- A TCFG routed before stands in the C queue (R287). -/
def tcfgAhead (c : Ctx) (id : Nat) : Bool :=
  c.qC.any fun x => x.kind == .instr && x.id < id && match x.i with
    | .tcfg _ _ _ _ _ => true
    | _ => false

/-- LDT: rows of L bytes at tile bytes 256 r (R286). -/
def actLdt (_h : Hdr) (t : BitVec 3) (_b : BitVec 4) (_adv : Bool) (e : Entry) (s : State) : Res :=
  let a := e.strm
  let w := tileCfg s.me t
  let n := tcfgE w
  let l := touchesT a (tcfgRows w) n
  let xs := touchBytes a l
  let r : Res := match loadOrder s e (e.rng.getD (0, 0)) xs with
    | .error x => .error x
    | .ok _ =>
      let ew := a.delivered.width
      if cbBad s.me a l then .error regBad
      else (deliverAll s e.id a l).map fun l =>
        let row (r : Nat) : List (Nat × Byte) :=
          let x := packNat ew ((List.range n).map fun j => (find? l (r * n + j)).getD 0)
          State.at' (tileKey s.cur.cell (16384 * t.toNat + 256 * r)) (leBytes (tcfgLen w) x)
        issueLoad s e xs (.t t) ({ · with cells := (List.range (tcfgRows w)).flatMap row })
  if tcfgAhead s.me e.id || cbBlocks s.me e then behind (.operand 1) r else r
def execLdt (h : Hdr) (d : BitVec 3) (rb : BitVec 4) (adv : Bool) (s : State) : Host.Outcome State Fault Refusal :=
  finish s (.ldt h d rb adv)
    (routeTo s (.ldt h d rb adv) .l { comps := [.receive], stage := stageLdt d rb adv } (actLdt h d rb adv))

/-! ### VPERM (R88) -/

/-- The permuted lanes. -/
def permute (w : Nat) (src : Vec) (idx : List Vec) : Vec :=
  let n := 4096 / w
  ofLanes w ((List.range n).map fun i =>
    let q := lane (idx.getD (i / 256) 0) 16 (i % 256)
    if q < n then lane src w q else 0)

/-- VPERM. -/
def actVperm (_h : Hdr) (ty : ElemType) (d : BitVec 5) (_sv : BitVec 5) (_us : Bool) (_x : BitVec 5) (_ux : Bool)
    (e : Entry) (s : State) : Res :=
  if !e.passed then .error (.wait (.operand 1))
  else if 16 ≤ queueTaken s.me then .error (.wait (.engine 6))
  else if !portsFree s 1 then .error (.wait (.engine 1))
  else .ok (addLoad s { newLoad e .l (.v d) with val := permute ty.width (e.data.getD 0 0) (e.data.drop 1) })
def execVperm (h : Hdr) (ty : ElemType) (d : BitVec 5) (sv : BitVec 5) (us : Bool) (x : BitVec 5) (ux : Bool) (s : State) :
    Host.Outcome State Fault Refusal :=
  finish s (.vperm h ty d sv us x ux)
    (routeTo s (.vperm h ty d sv us x ux) .l { comps := [.source, .receive] } (actVperm h ty d sv us x ux))

end Sys2Proof.Machine
end

