-- ==== Sys2Proof/Machine/Clocks.lean ====
section
/-! DEFINITION. Stream instructions (R245 to R251): WHEN, MERGE, UNION, PRE, FBY and CURRENT, in the scalar form that the sequencer
executes and in the vector and tile form of the C queue. -/

namespace Sys2Proof.Machine

/-- The four instructions that name a selector or a UNION clock (R246). -/
inductive Sampler where
  | when | merge | union | current
  deriving DecidableEq, Repr

/-- The parent of a clock that KDEF.EVERY, KDEF.ON or KDEF.ONNOT defines, under the definitions in effect. -/
def parentOf (c : Ctx) (k : Tag) : Option Tag :=
  if k = 0 ∨ 112 ≤ k.toNat then none
  else match c.clk[k.toFin].cur with
    | .every p _ _ | .on p _ | .onnot p _ => some p
    | _ => none

/-- The clocks that the definition of the clock field names; none where R246 raises CLOCK_MISMATCH. -/
def selector (c : Ctx) (m : Sampler) (k : Tag) : Option (List Tag) :=
  match m with
  | .union =>
    if k = 0 ∨ 112 ≤ k.toNat then none
    else match c.clk[k.toFin].cur with
      | .union p q => some [p, q]
      | _ => none
  | _ => (parentOf c k).map ([·])

/-- The clock that an instruction runs on (R246). -/
def runsOn (m : Sampler) (k : Tag) (ks : List Tag) : Tag :=
  match m with
  | .merge | .current => ks.headD 0
  | _ => k

/-- The clocks whose parent is `p`. -/
def childrenOf (c : Ctx) (p : Tag) : List Tag :=
  ((List.range 128).map (BitVec.ofNat 7)).filter fun k => parentOf c k == some p

/-- The clocks that routing evaluates (R246). -/
def consulted (c : Ctx) (m : Sampler) (k : Tag) (ks : List Tag) : List Tag :=
  k :: ks ++ (match m with
    | .merge | .current => childrenOf c (ks.headD 0)
    | _ => [])

/-- A set of clocks as bits. -/
def tagBits (l : List Tag) : BitVec 128 := l.foldl (fun b k => b ||| 1 <<< k.toNat) 0

/-- Evaluates clocks in order and collects the present ones (R177). -/
def evalAll : List Tag → Ctx → Except Raise (List Tag × Ctx)
  | [], c => .ok ([], c)
  | k :: l, c =>
    match presence c k with
    | .error e => .error e
    | .ok (p, c) => match evalAll l c with
      | .error e => .error e
      | .ok (ps, c) => .ok (if p then k :: ps else ps, c)

/-- What a stream instruction's result is. -/
inductive Pick where
  | a | b | both | held | zero | init
  deriving DecidableEq, Repr

/-- A tag that is compared and differs: an operand without a tag adopts any clock (R178). -/
def differs (t : Option Tag) (k : Tag) : Bool := match t with
  | some t => t != k
  | none => false

/-- A fault with the two operand tags (R248, R337). -/
def pairFault (code : Code) (ta tb : Option Tag) : Raise := .fatal code { aux := tagAux [ta.getD 0, tb.getD 0] }

/-- WHEN, MERGE, UNION and CURRENT on an instant on which they run: the result and its tag. `pres` holds the clocks present and `sib`
those whose parent is the selector's (R247 to R249, R251). -/
def sample (m : Sampler) (k : Tag) (ks : List Tag) (pres sib : BitVec 128) (ta tb : Option Tag) : Except Raise (Pick × Tag) :=
  let present (x : Tag) : Bool := pres.getLsbD x.toNat
  let sibling (t : Tag) : Bool := t != k && sib.getLsbD t.toNat && present t
  let bad : Except Raise (Pick × Tag) := .error (pairFault .clockMismatch ta tb)
  let kp := ks.headD 0
  match m with
  | .when => if differs ta kp then bad else .ok (.a, k)
  | .current =>
    if present k && differs ta k then bad
    else .ok (if present k || !differs ta k then .a else .zero, kp)
  | .merge =>
    if present k then
      if differs ta k then bad
      else if (match tb with
        | some t => sibling t
        | none => false) then .error (pairFault .clockOverlap ta tb)
      else .ok (.a, kp)
    else if (match tb with
      | some t => !sibling t
      | none => false) then bad
    else .ok (.b, kp)
  | .union =>
    let ka := ks.getD 0 0
    let kb := ks.getD 1 0
    if (present ka && differs ta ka) || (present kb && differs tb kb) then bad
    else if present ka && present kb then .ok (.both, k)
    else .ok (if present ka then .a else .b, k)

/-- PRE and FBY: the result (R250). -/
def delayed (fby : Bool) (k : Tag) (d : DReg) (ta td : Option Tag) : Except Raise Pick :=
  if differs ta k || (fby && differs td k) || (d.f && d.heldTag != k) then .error (pairFault .clockMismatch ta (if fby then td else none))
  else .ok (if d.f then .held else if fby then .init else .zero)

/-- The next value of a delay register; a later write in C order wins (R183, R250). -/
def setNext (c : Ctx) (d : BitVec 4) (w : Vec) (k : Tag) : Ctx :=
  let x := c.d[d.toFin]
  { c with d := c.d.set d.toFin { x with next := w, nextTag := k, nextF := true, valid := true } d.toFin.isLt }

/-! ### Scalar forms -/

/-- The tag of a scalar register as an operand: s0 carries none. -/
def tagS (c : Ctx) (r : BitVec 6) : Option Tag := if r = 0 then none else some c.s[r.toFin].tag

/-- The checks of R160 and R215 of a scalar stream instruction: no operand pending, and none that is read dead. (DEDUCED: log entry 22.) -/
def streamReads (c : Ctx) (named read : List (BitVec 6)) : Except Raise Unit :=
  if c.chk && read.any fun r => r != 0 && c.s[r.toFin].dead then .error (.fatal .deadRead {})
  else if named.any fun r => r != 0 && c.s[r.toFin].pend then .error (.wait (.operand 0))
  else if badS c read then .error regBad
  else .ok ()

/-- A UNION that finds both operands present sets COLL (R249), and is counted (R355). -/
def collided (s : State) : State := countCell (s.setMe { s.me with coll := true }) s.cur.cell s.cur.slot 9

/-- Writes the result of a scalar stream instruction with its tag. -/
def streamResult (s : State) (src : List (BitVec 6 × Bool)) (d : BitVec 6) (w : Word) (k : Tag) : Res :=
  .ok (advance (s.setMe (writeS (killS s.me src) d w k false)))

/-- WHEN, MERGE, UNION and CURRENT on scalars. In handler mode they are illegal before their clock is looked at. (DESIGN CHOICE: log entry 104.) -/
def scalarSample (s : State) (m : Sampler) (k : Tag) (d a : BitVec 6) (ua : Bool) (b : Option (BitVec 6 × Bool))
    (both : Word → Word → Word) : Res :=
  let ta := tagS s.me a
  let tb := b.bind fun x => tagS s.me x.1
  let src := (a, ua) :: b.toList
  if rootForbidden s.me k then .error (mismatch [k])
  else if s.me.handler then .error (.fatal .illegalOpcode {})
  else match selector s.me m k with
    | none => .error (pairFault .clockMismatch ta tb)
    | some ks => match presence s.me (runsOn m k ks) with
      | .error e => .error e
      | .ok (false, c) => .ok (advance (s.setMe c))
      | .ok (true, c) => match evalAll (consulted c m k ks) c with
        | .error e => .error e
        | .ok (ps, c) =>
          if (d :: src.map (·.1)).any fun r => r != 0 && c.s[r.toFin].pend then .error (.wait (.operand 0))
          else match sample m k ks (tagBits ps) (tagBits (childrenOf c (ks.headD 0))) ta tb with
            | .error e => .error e
            | .ok (p, t) =>
              let rb := (b.map (·.1)).getD 0
              let read := match p with
                | .a => [a]
                | .b => [rb]
                | .both => [a, rb]
                | _ => []
              match streamReads c [] read with
              | .error e => .error e
              | .ok _ =>
                let s := s.setMe c
                let va := readS s c a
                let vb := readS s c rb
                let w := match p with
                  | .a => va
                  | .b => vb
                  | .both => both va vb
                  | _ => 0
                let s := if p = .both then collided (s.setMe c) else s
                streamResult s src d w t

/-- PRE and FBY on scalars: bytes 0 to 7 of the delay register, zero above them. They wait for the rotation of the last instant. (DEDUCED: log entry 25.) -/
def scalarDelay (s : State) (o : SDelay) (fby : Bool) : Res :=
  if rootForbidden s.me o.clk then .error (mismatch [o.clk])
  else match presence s.me o.clk with
    | .error e => .error e
    | .ok (false, c) => .ok (advance (s.setMe c))
    | .ok (true, c) =>
      if c.handler then .error (.fatal .illegalOpcode {})
      else if c.qC.any (·.kind == .cMark) then .error (.wait (.sync 2))
      else if [o.d, o.a].any fun r => r != 0 && c.s[r.toFin].pend then .error (.wait (.operand 0))
      else
        let x := c.d[o.dl.toFin]
        match delayed fby o.clk x (tagS c o.a) (tagS c o.d) with
        | .error e => .error e
        | .ok p => match streamReads c [] (if p = .init then [o.d, o.a] else [o.a]) with
          | .error e => .error e
          | .ok _ =>
            if c.badRegs.contains (.d, o.dl.toNat) then .error regBad else
            let s := s.setMe c
            let w := match p with
              | .held => fld x.held 0 64
              | .init => readS s c o.d
              | _ => 0
            let a := readS s c o.a
            streamResult (s.setMe (setNext c o.dl (a.setWidth 4096) o.clk)) [(o.a, o.ua)] o.d w o.clk

/-- The scalar policies of UNION (R245, R249). -/
def Policy.scalar (p : Policy) (a b : Word) : Word :=
  match p with
  | .first => a
  | .second => b
  | .add => a + b
  | .max => if a.slt b then b else a

/-- WHEN (R247). -/
def execWhenScalar (o : SUn) (s : State) : Host.Outcome State Fault Refusal :=
  finish s (.whenScalar o) (scalarSample s .when o.clk o.d o.a o.ua none fun a _ => a)
/-- MERGE (R248). -/
def execMergeScalar (o : SRR) (s : State) : Host.Outcome State Fault Refusal :=
  finish s (.mergeScalar o) (scalarSample s .merge o.clk o.d o.a o.ua (some (o.b, o.ub)) fun a _ => a)
/-- UNION (R249). -/
def execUnionScalar (p : Policy) (o : SRR) (s : State) : Host.Outcome State Fault Refusal :=
  finish s (.unionScalar p o) (scalarSample s .union o.clk o.d o.a o.ua (some (o.b, o.ub)) (Policy.scalar p))
/-- CURRENT (R251). -/
def execCurrentScalar (o : SUn) (s : State) : Host.Outcome State Fault Refusal :=
  finish s (.currentScalar o) (scalarSample s .current o.clk o.d o.a o.ua none fun a _ => a)
/-- PRE (R250). -/
def execPreScalar (o : SDelay) (s : State) : Host.Outcome State Fault Refusal :=
  finish s (.preScalar o) (scalarDelay s o false)
/-- FBY (R250). -/
def execFbyScalar (o : SDelay) (s : State) : Host.Outcome State Fault Refusal :=
  finish s (.fbyScalar o) (scalarDelay s o true)

/-! ### Vector and tile forms -/

/-- MOD bit 0: tiles (R245). -/
def tileForm (o : VOp) : Bool := o.mod.getLsbD 0

/-- Tag and dead mark of an operand field. -/
def streamTag (c : Ctx) (tile : Bool) (f : BitVec 6) : Tag × Bool :=
  if tile then let x := c.t[(fld f 0 3 : BitVec 3).toFin]; (x.tag, x.dead)
  else let x := c.v[(fld f 0 5 : BitVec 5).toFin]; (x.tag, x.dead)

/-- The bytes of a tile, free values where it is dead (R215). -/
def tileBytes (s : State) (t : BitVec 3) : List Byte :=
  if s.me.t[t.toFin].dead then (List.range 64).flatMap fun r => leBytes 256 (rowNat s s.cur.cell true t r 256)
  else s.raw (tileKey s.cur.cell (16384 * t.toNat)) 16384

/-- A vector register that an operand field names has still to be written by an ACCRD (R292), or a nest names the tile (R298). -/
def streamWaits (s : State) (tile : Bool) (fs : List (BitVec 6)) : Bool :=
  fs.any fun f => if tile then nestNames s (fld f 0 3) else s.me.v[(fld f 0 5 : BitVec 5).toFin].pend

/-- UNCORRECTED where an operand that is read holds poison (R350). -/
def streamBad (s : State) (tile : Bool) (f : BitVec 6) : Option Raise :=
  if tile then
    if s.anyBad (tileKey s.cur.cell (16384 * (fld f 0 3 : BitVec 3).toNat)) 16384 then some (.fatal .uncorrected { sub := 3 }) else none
  else if s.me.v[(fld f 0 5 : BitVec 5).toFin].bad != 0 then some (.fatal .uncorrected { sub := 4 }) else none

/-- Marks a source dead. -/
def streamKill (c : Ctx) (tile : Bool) (f : BitVec 6) (u : Bool) : Ctx :=
  if tile then killTile c (fld f 0 3) u false else killV c (fld f 0 5) u false

/-- The checks on the operands that are read, once the result is known (R215, R350). -/
def streamOperands (s : State) (tile : Bool) (fs : List (BitVec 6)) : Except Raise Unit :=
  if s.me.chk && fs.any fun f => (streamTag s.me tile f).2 then .error (.fatal .deadRead {})
  else match fs.findSome? (streamBad s tile) with
    | some e => .error e
    | none => .ok ()

/-- Writes a vector result, or a tile result read from another tile as it stood in `old` (none for zeros), with its tag. -/
def streamWriteV (s : State) (d : BitVec 6) (w : Vec) (k : Tag) : State := s.setMe (writeV s.me (fld d 0 5) w k false)
def streamWriteT (old s : State) (d : BitVec 6) (from? : Option (BitVec 6)) (k : Tag) : State :=
  let t : BitVec 3 := fld d 0 3
  let bs := match from? with
    | some f => tileBytes old (fld f 0 3)
    | none => List.replicate 16384 0
  let s := s.writeRaw (tileKey s.cur.cell (16384 * t.toNat)) bs
  s.setMe (tagTile s.me t k false)

/-- UNION where both clocks are present, on vectors (R249). -/
def Policy.vector (p : Policy) (t : ElemType) (a b : Vec) : Vec :=
  let w := t.width
  match p with
  | .first => a
  | .second => b
  | .add => ofLanes w ((List.range (4096 / w)).map fun i => addE t false (lane a w i) (lane b w i))
  | .max => ofLanes w ((List.range (4096 / w)).map fun i => maxE t (lane a w i) (lane b w i))

/-- WHEN, MERGE, UNION and CURRENT at issue; the clocks that they consult were captured at routing (R245, R246). -/
def vectorSample (m : Sampler) (o : VOp) (p : Policy) (e : Entry) (s : State) : Res :=
  let k := clkOf e.i
  let two := m = .merge || m = .union
  let ta := some (streamTag s.me (tileForm o) o.a).1
  let tb := if two then some (streamTag s.me (tileForm o) o.b).1 else none
  if e.ks.isEmpty then .error (pairFault .clockMismatch ta tb)
  else if (tileForm o && tileInUse s (fld o.d 0 3)) || streamWaits s (tileForm o) (if two then [o.d, o.a, o.b] else [o.d, o.a]) then
    .error (.wait (.operand 1))
  else match sample m k e.ks e.pres e.sib ta tb with
    | .error r => .error r
    | .ok (pick, t) =>
      let read := match pick with
        | .a => [o.a]
        | .b => [o.b]
        | .both => [o.a, o.b]
        | _ => []
      match streamOperands s (tileForm o) read with
      | .error r => .error r
      | .ok _ =>
        let va := readV s s.me (fld o.a 0 5) false
        let vb := readV s s.me (fld o.b 0 5) false
        let one := if pick = .both then (if p = .first then .a else .b) else pick
        let s' := s.setMe (streamKill (streamKill s.me (tileForm o) o.a o.ua) (tileForm o) o.b (two && o.ub))
        let s' := if pick = .both then collided s' else s'
        if tileForm o then
          .ok (streamWriteT s s' o.d (match one with
            | .a => some o.a
            | .b => some o.b
            | _ => none) t)
        else .ok (streamWriteV s' o.d (match pick with
            | .a => va
            | .b => vb
            | .both => Policy.vector p o.ty va vb
            | _ => 0) t)

/-- PRE and FBY at issue (R250). -/
def vectorDelay (o : VOp) (fby : Bool) (e : Entry) (s : State) : Res :=
  let k := clkOf e.i
  let d : BitVec 4 := fld o.b 0 4
  let x := s.me.d[d.toFin]
  if streamWaits s false [o.d, o.a] then .error (.wait (.operand 1))
  else match delayed fby k x (some (streamTag s.me false o.a).1) (some (streamTag s.me false o.d).1) with
  | .error r => .error r
  | .ok p => match streamOperands s false (if p = .init then [o.d, o.a] else [o.a]) with
    | .error r => .error r
    | .ok _ =>
      let a := readV s s.me (fld o.a 0 5) false
      let w := match p with
        | .held => x.held
        | .init => readV s s.me (fld o.d 0 5) false
        | _ => 0
      let s := s.setMe (setNext (killV s.me (fld o.a 0 5) o.ua false) d a k)
      .ok (streamWriteV s o.d w k)

/-- The stage of a vector stream instruction: illegal in a handler (R333); the clocks that it consults are evaluated and captured;
with no valid selector nothing later routes (R246). -/
def stageSample (m : Sampler) (e : Entry) (s : State) : Except Raise (Entry × State) :=
  let k := clkOf e.i
  if s.me.handler then .error (.fatal .illegalOpcode {})
  else match selector s.me m k with
    | none => .ok ({ e with stop := true, bare := true }, s)
    | some ks => match evalAll (consulted s.me m k ks) s.me with
      | .error r => .error r
      | .ok (ps, c) =>
        .ok ({ e with ks := ks, pres := tagBits ps, sib := tagBits (childrenOf c (ks.headD 0)) }, s.setMe c)

/-- The stage of a vector PRE or FBY. -/
def stageDelay (e : Entry) (s : State) : Except Raise (Entry × State) :=
  if s.me.handler then .error (.fatal .illegalOpcode {}) else .ok (e, s)

/-- Routes WHEN, MERGE, UNION or CURRENT: without a valid selector it is never discarded (R246). -/
def routeSample (s : State) (i : Instr) (m : Sampler) (act : Entry → State → Res) : Res :=
  let k := clkOf i
  let bad := if rootForbidden s.me k then some (mismatch [k]) else none
  let pres := match selector s.me m k with
    | none => .ok (true, s.me)
    | some ks => presence s.me (runsOn m k ks)
  routeWith s i .c { stage := stageSample m } act bad pres

/-- WHEN (R247). -/
def actWhenVector (o : VOp) (e : Entry) (s : State) : Res := vectorSample .when o .first e s
def execWhenVector (o : VOp) (s : State) : Host.Outcome State Fault Refusal :=
  finish s (.whenVector o) (routeSample s (.whenVector o) .when (actWhenVector o))
/-- MERGE (R248). -/
def actMergeVector (o : VOp) (e : Entry) (s : State) : Res := vectorSample .merge o .first e s
def execMergeVector (o : VOp) (s : State) : Host.Outcome State Fault Refusal :=
  finish s (.mergeVector o) (routeSample s (.mergeVector o) .merge (actMergeVector o))
/-- UNION (R249). -/
def actUnionVector (p : Policy) (o : VOp) (e : Entry) (s : State) : Res := vectorSample .union o p e s
def execUnionVector (p : Policy) (o : VOp) (s : State) : Host.Outcome State Fault Refusal :=
  finish s (.unionVector p o) (routeSample s (.unionVector p o) .union (actUnionVector p o))
/-- CURRENT (R251). -/
def actCurrentVector (o : VOp) (e : Entry) (s : State) : Res := vectorSample .current o .first e s
def execCurrentVector (o : VOp) (s : State) : Host.Outcome State Fault Refusal :=
  finish s (.currentVector o) (routeSample s (.currentVector o) .current (actCurrentVector o))
/-- PRE (R250). -/
def actPreVector (o : VOp) (e : Entry) (s : State) : Res := vectorDelay o false e s
def execPreVector (o : VOp) (s : State) : Host.Outcome State Fault Refusal :=
  finish s (.preVector o) (routeTo s (.preVector o) .c { stage := stageDelay } (actPreVector o))
/-- FBY (R250). -/
def actFbyVector (o : VOp) (e : Entry) (s : State) : Res := vectorDelay o true e s
def execFbyVector (o : VOp) (s : State) : Host.Outcome State Fault Refusal :=
  finish s (.fbyVector o) (routeTo s (.fbyVector o) .c { stage := stageDelay } (actFbyVector o))

end Sys2Proof.Machine
end

