-- ==== Sys2Proof/Machine/Copies.lean ====
section
/-! DEFINITION. The copy engine (R55 to R57, R90 to R97) and the phases of the cluster barriers that copies count toward (R151, R152).
A copy takes its scoreboard entry when it issues; its bytes move, and its completion marks take effect, at COPY_COMPLETION. -/

namespace Sys2Proof.Machine

/-! ### Barriers (R151, R152) -/

/-- Barrier `n` of a cell's cluster. -/
def barKey (cell n : Nat) : Nat × Nat := (clusterOf cell, n)
def State.bar (s : State) (k : Nat × Nat) : Barrier := (find? s.bars k).getD {}
def State.setBar (s : State) (k : Nat × Nat) (b : Barrier) : State := { s with bars := put s.bars k b }

/-- The barrier is granted to the partition. -/
def barGranted (s : State) (k : Nat × Nat) (pid : Nat) : Bool :=
  (s.bar k).owner == some pid && !(s.bar k).users.isEmpty

/-- Counts held copies, then held arrivals, up to the expected numbers; each arrival learns the phase that it writes. -/
def countHeld (s : State) (k : Nat × Nat) : State :=
  let b := s.bar k
  let n := min b.hc b.ec.toNat
  let m := min b.ha.length b.ea.toNat
  let s := (b.ha.take m).foldl (fun s c => s.setCx c { s.cx c with arrived := some b.ph }) s
  s.setBar k { b with cc := BitVec.ofNat 32 n, hc := b.hc - n, ac := BitVec.ofNat 32 m, ha := b.ha.drop m }

/-- Completes the phases of a barrier whose counts have reached their expected values. -/
def settleBar : Nat → State → Nat × Nat → State
  | 0, s, _ => s
  | f + 1, s, k =>
    let b := s.bar k
    if b.ea != 0 && b.ac == b.ea && b.cc == b.ec then
      settleBar f (countHeld (s.setBar k { b with ac := 0, cc := 0, ph := b.ph + 1 }) k) k
    else s

/-- Bound on the phases that one event can complete: every one of them counts a held arrival or copy. -/
def settleFuel (b : Barrier) : Nat := b.ha.length + b.hc + 2

/-- Counts a completed copy toward a barrier; one that finds the count at EC is held. (DEDUCED: log entry 48.) -/
def countCopy (s : State) (k : Nat × Nat) : State :=
  let b := s.bar k
  let s := s.setBar k (if b.cc == b.ec then { b with hc := b.hc + 1 } else { b with cc := b.cc + 1 })
  settleBar (settleFuel (s.bar k)) s k

/-! ### Issue -/

/-- The queue of a copy's form (R90). -/
def CopyKind.queue : CopyKind → Queue
  | .xout => .s
  | _ => .l

/-- The length operand. -/
def copyLen (o : Copy) (v : Word) : Nat := if o.li then o.n.toNat * 128 else v.toNat

/-- The exact addresses of the elements of a strided copy, in order, from bits 55:0 of the stream's base (R70, R93); of a pair of 4-bit elements at an odd
offset, that of the byte with the lower one. (DESIGN CHOICE: log entry 125.) -/
def stridedAddrs (k : CopyOp) (a : StreamReg) : List Int :=
  let w := a.fmt.width
  let step := if w = 4 then 2 else 1
  let b := { a with base := va56 a.base }
  (List.range (k.len / max 1 (w / 8))).map fun i => (touchAt b 0 (a.offset (a.coords (a.pos.toNat + step * i)))).addr

/-- The bytes on the virtual side, in order: a range, or the elements of a stream (R93). -/
def copySpans (k : CopyOp) : List (Word × Nat) :=
  if k.len = 0 then []
  else match k.strm with
    | none => [(k.va, k.len)]
    | some a => (stridedAddrs k a).map fun x => (BitVec.ofInt 64 x, max 1 (a.fmt.width / 8))

/-- A copy whose virtual side leaves the 56-bit space, at its top or below 0: the lowest address of the access, modulo 2⁵⁶ in the report (R12). (DEDUCED: log
entry 47.) -/
def copyOutOfRange (k : CopyOp) : Option Word :=
  match k.strm with
  | none => if k.len != 0 && outOfRange k.va k.len then some k.va else none
  | some a =>
    let xs := stridedAddrs k a
    if xs.any fun x => x < 0 || 2 ^ 56 < x + (max 1 (a.fmt.width / 8) : Nat) then some (BitVec.ofInt 64 (xs.foldl min (xs.headD 0))) else none

/-- Bytes that a strided copy moves (R93). -/
def stridedLen (a : StreamReg) (n : Nat) : Nat :=
  let w := a.fmt.width
  min (8 * n / w) (a.total - a.pos.toNat) * w / 8

/-- The near side lies in one scratch window, or in accumulator memory: the lowest address that does not (R18, R21, R90, R96). A copy of length zero has no
address that does not. (DEDUCED: log entry 47.) -/
def nearOutside (kind : CopyKind) (v n : Nat) : Option Word :=
  let lim := if kind = .xaddw then 65536
    else if v < 0x400000 then 0x400000
    else if kind != .xbcast && 0x80000000 ≤ v && v < 0x82000000 then 0x82000000 else 0
  if n = 0 then none else if lim ≤ v then some (BitVec.ofNat 64 v) else if lim < v + n then some (BitVec.ofNat 64 lim) else none

/-- The bounds record of a strided copy's stream: the lowest address, of bits 55:0, outside it (R73). -/
def boundsOutside (a : StreamReg) (l : List (Word × Nat)) : Option Word :=
  let lo := a.blo.toNat
  let hi := a.bhi.toNat
  let bad := l.flatMap fun (va, n) =>
    (((List.range n).map fun i => (va56 va).toNat + i).filter fun x => x < lo || hi ≤ x)
  if !a.bv then none else match bad with
    | [] => none
    | x :: xs => some (BitVec.ofNat 64 (xs.foldl min x))

/-- A strided copy's stream fits its form (R93, R95). -/
def copyStreamOk (kind : CopyKind) (a : StreamReg) : Bool :=
  a.bound && a.sp && (kind != .xaddw || a.fmt == .fp32) &&
    (a.fmt.width != 4 || (recStr a.record 0 == 1 && a.ext[0].toNat % 2 == 0 && a.pos.toNat % 2 == 0))

/-- The copy's near range meets the instant window while an instant is open (R174). -/
def windowClash (c : Ctx) (e : Entry) (kind : CopyKind) (r : Nat × Nat) : Bool :=
  match if e.opened && !e.hand && kind != .xaddw then instantWindow c else none with
  | some w => meets w r
  | none => false

/-- The scalars of a copy: the near or far register, then the length. -/
def copySrc (kind : CopyKind) (strided : Bool) (o : Copy) : List (BitVec 6 × Bool) :=
  let near := if kind = .xout then (o.s, o.us) else (o.d, o.ud)
  let far := if kind = .xout then (o.d, o.ud) else (o.s, o.us)
  [near] ++ (if strided then [] else [far]) ++ (if o.li then [] else [(fld o.n 1 6, o.n.getLsbD 0)])

/-- The near side's address: s[S], or s[D] + OFF16, which does not wrap (R18, R21, R90). -/
def copyNear (kind : CopyKind) (o : Copy) (e : Entry) : Nat := (e.sc 0).toNat + (if kind = .xout then 0 else o.off.toNat)

/-- The copy that an entry stands for. -/
def planCopy (kind : CopyKind) (strided : Bool) (o : Copy) (e : Entry) (s : State) : CopyOp :=
  let va := if strided then 0 else e.sc 1 + (if kind = .xout then zx o.off else 0)
  let n0 := copyLen o (e.sc (if strided then 1 else 2))
  let n := if strided then stridedLen e.strm n0 else n0
  { eid := e.id, ctx := s.cur, pid := s.me.pid, seq := s.me.seq, kind := kind, va := va, near := copyNear kind o e,
    len := if kind = .xaddw then n / 4 * 4 else n, strm := if strided then some e.strm else none,
    slot := o.slot.toNat, bar := if o.be then some o.bar.toNat else none,
    push := pushesOf kind.queue (tokOf e.i), pc := e.pc, i := e.i, iter := e.iter }

/-- The address stage of a copy (R65, R90): clock tags, then the bounds of both sides that the entry alone decides. -/
def stageCopy (kind : CopyKind) (strided : Bool) (o : Copy) (e : Entry) (s : State) : Except Raise (Entry × State) :=
  match checkTags s e [] false with
  | .error r => .error r
  | .ok _ =>
    let a := s.me.a[(fld (if kind = .xout then o.d else o.s) 0 4 : BitVec 4).toFin]
    if strided && !copyStreamOk kind a then .error (boundsAt (va56 a.base))
    else
      let e := { e with strm := if strided then a else {} }
      let k := planCopy kind strided o e s
      let near := copyNear kind o e
      match nearOutside kind near (if kind = .xaddw then k.len / 4 else k.len) with
      | some x => .error (boundsAt x)
      | none =>
        if k.len != 0 && windowClash s.me e kind k.range then .error (boundsAt (BitVec.ofNat 64 near))
        else match if strided then boundsOutside a (copySpans k) else none with
          | some x => .error (boundsAt x)
          | none => .ok ({ e with rng := if kind = .xaddw then none else some k.range }, s)

/-- The kind of walk of a copy's virtual side. -/
def CopyKind.access : CopyKind → Access
  | .xout => .write
  | _ => .read

/-- The stream register that a strided form names (R93). -/
def stridedReg : Instr → BitVec 4
  | .xcopyOutStrided o => fld o.d 0 4
  | .xcopyInStrided o | .xaddwStrided o | .xbcastStrided o => fld o.s 0 4
  | _ => 0

/-- The stream TLB of a copy (R90, R344): a strided copy's is its register's, whose direction is its first stride's; the others' is the copy
engine's of their side. -/
def CopyOp.unit (k : CopyOp) : TlbUnit :=
  match k.strm with
  | some a => .stream ((stridedReg k.i).toFin.castLE (by decide)) (recStr a.record 0 < 0)
  | none => .stream (if k.kind = .xout then 17 else 16) false

/-- The checks at issue that read virtual memory: pointer tags (R74), the end of the space (R12), the first page (R65). A copy of length zero
touches nothing (R90). -/
def checkFar (s : State) (k : CopyOp) : Except Raise State :=
  if k.len = 0 then .ok s
  else match if k.strm.isNone then checkTag s s.cur k.va k.len else .ok s with
    | .error r => .error r
    | .ok s => match copyOutOfRange k with
      | some x => .error (rangeFault x)
      | none => match copySpans k with
        | [] => .ok s
        | (va, _) :: _ => match translate s s.cur va k.kind.access k.unit with
          | .error f => .error (walkFault va f)
          | .ok _ => .ok (useOne s s.cur k.pid k.unit k.kind.access va)

/-- A copy of a retired context still holds an overlapping entry (R187). -/
def orphanBlocks (s : State) (k : CopyOp) : Bool :=
  s.copies.any fun x => x.orphan && x.ctx.cell == s.cur.cell && x.inAcc == k.inAcc && x.len != 0 && meets x.range k.range

/-- A copy at the head of its queue (R55, R65, R90, R134, R135, R152). -/
def issueCopy (kind : CopyKind) (strided : Bool) (o : Copy) (e : Entry) (s : State) : Res :=
  let k := planCopy kind strided o e s
  let key := barKey s.cur.cell o.bar.toNat
  if o.be && (!barGranted s key s.me.pid || (s.bar key).ea == 0) then .error (boundsAt 0)
  else match checkFar s k with
  | .error r => .error r
  | .ok s =>
    if k.len != 0 && (decide (16 ≤ scoreCount s s.cur.cell) || (!k.inAcc && olderStore s.me e.id k.range) || orphanBlocks s k) then
      .error (.wait .score)
    else if footprintClash s k.foot false then .error overlapFault
    else .ok { s with copies := s.copies ++ [{ k with id := s.dev.nextCopy }], dev := { s.dev with nextCopy := s.dev.nextCopy + 1 } }

/-- Routes a copy. -/
def routeCopy (s : State) (i : Instr) (kind : CopyKind) (strided : Bool) (o : Copy) (act : Entry → State → Res) : Res :=
  routeTo s i kind.queue { src := copySrc kind strided o, stage := stageCopy kind strided o } act

/-- XCOPY.IN (R90). -/
def actXcopyIn (o : Copy) (e : Entry) (s : State) : Res := issueCopy .xin false o e s
def execXcopyIn (o : Copy) (s : State) : Host.Outcome State Fault Refusal :=
  finish s (.xcopyIn o) (routeCopy s (.xcopyIn o) .xin false o (actXcopyIn o))
/-- XCOPY.IN, strided (R93). -/
def actXcopyInStrided (o : Copy) (e : Entry) (s : State) : Res := issueCopy .xin true o e s
def execXcopyInStrided (o : Copy) (s : State) : Host.Outcome State Fault Refusal :=
  finish s (.xcopyInStrided o) (routeCopy s (.xcopyInStrided o) .xin true o (actXcopyInStrided o))
/-- XCOPYD (R94): the bytes are those of XCOPY.IN. -/
def actXcopyd (o : Copy) (e : Entry) (s : State) : Res := issueCopy .xind false o e s
def execXcopyd (o : Copy) (s : State) : Host.Outcome State Fault Refusal :=
  finish s (.xcopyd o) (routeCopy s (.xcopyd o) .xind false o (actXcopyd o))
/-- XADDW (R95). -/
def actXaddw (o : Copy) (e : Entry) (s : State) : Res := issueCopy .xaddw false o e s
def execXaddw (o : Copy) (s : State) : Host.Outcome State Fault Refusal :=
  finish s (.xaddw o) (routeCopy s (.xaddw o) .xaddw false o (actXaddw o))
/-- XADDW, strided (R95). -/
def actXaddwStrided (o : Copy) (e : Entry) (s : State) : Res := issueCopy .xaddw true o e s
def execXaddwStrided (o : Copy) (s : State) : Host.Outcome State Fault Refusal :=
  finish s (.xaddwStrided o) (routeCopy s (.xaddwStrided o) .xaddw true o (actXaddwStrided o))
/-- XBCAST (R96). -/
def actXbcast (o : Copy) (e : Entry) (s : State) : Res := issueCopy .xbcast false o e s
def execXbcast (o : Copy) (s : State) : Host.Outcome State Fault Refusal :=
  finish s (.xbcast o) (routeCopy s (.xbcast o) .xbcast false o (actXbcast o))
/-- XBCAST, strided (R96). -/
def actXbcastStrided (o : Copy) (e : Entry) (s : State) : Res := issueCopy .xbcast true o e s
def execXbcastStrided (o : Copy) (s : State) : Host.Outcome State Fault Refusal :=
  finish s (.xbcastStrided o) (routeCopy s (.xbcastStrided o) .xbcast true o (actXbcastStrided o))
/-- XCOPY.OUT (R90, R92). -/
def actXcopyOut (o : Copy) (e : Entry) (s : State) : Res := issueCopy .xout false o e s
def execXcopyOut (o : Copy) (s : State) : Host.Outcome State Fault Refusal :=
  finish s (.xcopyOut o) (routeCopy s (.xcopyOut o) .xout false o (actXcopyOut o))
/-- XCOPY.OUT, strided (R93). -/
def actXcopyOutStrided (o : Copy) (e : Entry) (s : State) : Res := issueCopy .xout true o e s
def execXcopyOutStrided (o : Copy) (s : State) : Host.Outcome State Fault Refusal :=
  finish s (.xcopyOutStrided o) (routeCopy s (.xcopyOutStrided o) .xout true o (actXcopyOutStrided o))

/-! ### The bytes of a copy -/

/-- A page of the copy's virtual side: one that it holds, or through its stream TLB; a retired context's are gone (R187, R243, R344). -/
def copyLeaf (s : State) (k : CopyOp) (va : Word) : Except WalkFail Leaf :=
  match tlbHit k.held va with
  | some e => .ok (e.leaf va)
  | none =>
    if k.orphan then lookup s [] k.ctx.cell k.pid va k.kind.access
    else lookup s (unitTlb s k.ctx k.pid k.unit) k.ctx.cell k.pid va k.kind.access

/-- What the translation of a page of the copy leaves in the caches (R344). -/
def useCopy (s : State) (k : CopyOp) (va : Word) : State :=
  if (tlbHit k.held va).isSome then s
  else if k.orphan then match copyLeaf s k va with
    | .ok l => fillShared s k.ctx k.pid l.entry
    | .error _ => s
  else useOne s k.ctx k.pid k.unit k.kind.access va

/-- The pieces that the copy has still to move, each in one page: virtual address, bytes, and the offset on the near side. -/
def copyPieces : List (Word × Nat) → Nat → List (Word × Nat × Nat)
  | [], _ => []
  | (va, n) :: l, at' =>
    let ps := piecesOf va n
    let here := (ps.foldl (fun (acc : List (Word × Nat × Nat) × Nat) p => (acc.1 ++ [(p.1, p.2, acc.2)], acc.2 + p.2)) ([], at')).1
    here ++ copyPieces l (at' + n)

/-- Drops `n` bytes from the front of some spans. -/
def dropSpans : Nat → List (Word × Nat) → List (Word × Nat)
  | _, [] => []
  | d, (va, n) :: l => if n ≤ d then dropSpans (d - n) l else (va + BitVec.ofNat 64 d, n - d) :: l

/-- Takes `n` bytes from the front of some spans. -/
def takeSpans : Nat → List (Word × Nat) → List (Word × Nat)
  | _, [] => []
  | d, (va, n) :: l => if d = 0 then [] else if n ≤ d then (va, n) :: takeSpans (d - n) l else [(va, d)]

/-- The key of a near byte on a cell. -/
def nearKey (k : CopyOp) (cell i : Nat) : Nat := (scratchAddr cell (k.near + i)).getD 0

/-- The cells that an inbound copy writes (R96). -/
def copyCells (k : CopyOp) : List Nat :=
  if k.kind = .xbcast then (List.range 16).map (clusterCell (clusterOf k.ctx.cell)) else [k.ctx.cell]

/-- Adds FP32 values to accumulator words; a poisoned word raises UNCORRECTED, a poisoned value poisons its word (R95, R350). -/
def addWords (s : State) (cell a : Nat) (bs : List (Byte × Bool)) : Except Raise State :=
  let words := (List.range (bs.length / 4)).map fun i => (accKey cell (4 * (a + i)), a + i, (bs.drop (4 * i)).take 4)
  match words.find? fun w => s.anyBad w.1 4 with
  | some w => .error (.fatal .uncorrected { addr := BitVec.ofNat 64 w.2.1, sub := 2 })
  | none =>
    let sum (w : Nat × Nat × List (Byte × Bool)) : Nat := addBits (fmtOf .fp32) (s.rawNat w.1 4) (leNat (w.2.2.map (·.1)))
    .ok (s.write (words.flatMap fun w => State.at' w.1 (leBytes 4 (sum w)))
      ((words.filter fun w => w.2.2.any (·.2)).map (·.1)))

/-- Translates pieces in order up to the first that fails (R97). -/
def leafPieces (k : CopyOp) : List (Word × Nat × Nat) → State → State × List (Leaf × Nat × Nat) × Option Raise
  | [], s => (s, [], none)
  | (va, n, off) :: l, s => match copyLeaf s k va with
    | .error f => (s, [], some (walkFault va f))
    | .ok leaf =>
      if (farError s [(leaf, n)] va).isSome then (s, [], some (remoteFault va leaf))
      else
        let (s, ls, r) := leafPieces k l (useCopy s k va)
        (s, (leaf, n, off) :: ls, r)

/-- The near bytes from offset `off` on, each with its poison. -/
def nearBytes (s : State) (k : CopyOp) (off n : Nat) : List (Byte × Bool) :=
  (List.range n).map fun i => let key := nearKey k k.ctx.cell (off + i); (s.byte key, s.bad key)

/-- Writes outbound bytes: page by page, or the elements of a strided copy together, so that what they cover whole is written whole (R52, R53,
R92). -/
def copyOut (s : State) (k : CopyOp) (ls : List (Leaf × Nat × Nat)) : State :=
  if k.strm.isNone then ls.foldl (fun s (l, n, off) => writeLeaves s [(l, n)] (nearBytes s k off n)) s
  else s.hbmScatter ((ls.filter fun x => !x.1.far s).flatMap fun (l, n, off) =>
    ((List.range n).zip (nearBytes s k off n)).map fun (i, b) => (l.pa + i, l.entry.cmp, b.1, b.2))

/-- Writes inbound bytes from offset `at'` on as one write of the near side of each cell: an aligned 8-byte unit whole (R90, R94, R96, R350). -/
def copyIn (s : State) (k : CopyOp) (at' : Nat) (bs : List (Byte × Bool)) : State :=
  let ix := (List.range bs.length).zip bs
  (copyCells k).foldl (fun s cell =>
    s.write (ix.map fun x => (nearKey k cell (at' + x.1), x.2.1))
      (ix.filterMap fun x => if x.2.2 then some (nearKey k cell (at' + x.1)) else none)) s

/-- Moves `n` more bytes of a copy; those before a page that fails have performed (R97). An add-on-write adds the values that are whole before it.
(DEDUCED: log entry 46.) -/
def moveBytes (s : State) (k : CopyOp) (n : Nat) : Except (Raise × State) State :=
  let ps := copyPieces (takeSpans n (dropSpans k.done (copySpans k))) k.done
  let (s, ls, r) := leafPieces k ps s
  let moved : Except Raise State := match k.kind with
    | .xout => .ok (copyOut s k ls)
    | .xaddw => addWords s k.ctx.cell (k.near + k.done / 4) (readLeaves s (ls.map fun x => (x.1, x.2.1)))
    | _ => .ok (copyIn s k k.done (readLeaves s (ls.map fun x => (x.1, x.2.1))))
  match moved, r with
  | .error r, _ => .error (r, s)
  | .ok s, some r => .error (r, s)
  | .ok s, none => .ok s

/-! ### Completion (R57, R91) -/

/-- Takes a copy, and its tracker entry, away. -/
def removeCopy (s : State) (k : CopyOp) : State :=
  let cell := s.cell k.ctx.cell
  let keep (t : Track) : Bool := match t with
    | .copy id _ _ => id != k.id
    | .stores _ _ _ _ _ => true
  { s.setCell k.ctx.cell { cell with tracker := cell.tracker.filter keep } with copies := s.copies.filter (·.id != k.id) }

/-- A fault after issue (R97): the context stops at the copy's PC; for a retired context the host is told (R187). -/
def failCopy (s : State) (k : CopyOp) (r : Raise) : State :=
  let s := removeCopy s k
  match r with
  | .fatal code i =>
    if k.orphan then retireLaunches (hostEvent s k.pid 1 code.num k.ctx.cell k.ctx.slot k.seq)
    else fatalStop s k.ctx k.pc (wordOf k.i) code i false (some k.iter)
  | _ => s

/-- The completion marks of a copy: its entry frees, its tokens are pushed, its barrier counts it (R57, R91, R187). -/
def markCopy (s : State) (k : CopyOp) : State :=
  let s := removeCopy s k
  let s := if k.orphan then s else s.setCx k.ctx (pushFor (s.cx k.ctx) k.eid k.push)
  let s := match k.bar with
    | some n => countCopy s (barKey k.ctx.cell n)
    | none => s
  retireLaunches s

/-- Bytes of an add-on-write that one cycle of its slot takes: up to eight words to each bank, all banks at once (R41, R95). (DESIGN CHOICE: log
entry 110.) -/
def addSpanLen (k : CopyOp) : Nat :=
  let a := k.near + k.done / 4
  min (k.len - k.done) (4 * (64 - a % 8))

/-- The save of the copy's context has come to its copies: each stops at a 512-byte boundary of its destination (R340 step 3). -/
def stopsAtBoundary (s : State) (k : CopyOp) : Bool := !k.orphan && (s.cx k.ctx).saveNow

/-- Bytes up to the `m`-th 512-byte boundary of the destination. (DEDUCED: log entry 50.) -/
def toBoundary (k : CopyOp) (m : Nat) : Nat := min (k.len - k.done) (512 * m - k.dest % 512)

/-- The page at an address of the copy's virtual side is compressed. -/
def onCompressed (s : State) (k : CopyOp) (va : Word) : Bool :=
  match copyLeaf s k va with
  | .ok l => l.entry.cmp != 0
  | .error _ => false

/-- `n` more bytes of an outbound copy, and those up to the end of a compressed block of 4 KiB that the copy covers whole: the controller writes it whole
(R52, R92). The blocks of a strided copy on compressed pages are not taken apart. -/
def wholeBlocks (s : State) (k : CopyOp) (n : Nat) : Nat :=
  let rest := k.len - k.done
  match k.strm with
  | some _ => if (copySpans k).any fun x => onCompressed s k x.1 then rest else n
  | none =>
    let lo := (va56 k.va).toNat
    let b := (lo + k.done + n) / 4096 * 4096
    if b < lo + k.done + n && lo ≤ b && b + 4096 ≤ lo + k.len && onCompressed s k (BitVec.ofNat 64 b) then b + 4096 - (lo + k.done) else n

/-- Bytes that an event moves: all that are left, `m` blocks of the destination where it says so, or up to the boundary where the copy stops. -/
def copyStep (s : State) (k : CopyOp) (m : Nat) : Nat :=
  if stopsAtBoundary s k then toBoundary k 1
  else if m = 0 then k.len - k.done
  else if k.kind = .xout then wholeBlocks s k (toBoundary k m) else toBoundary k m

/-- A copy that has to stop and stands at a boundary, or has not begun, moves no more (R340). -/
def copyStands (s : State) (k : CopyOp) : Bool :=
  stopsAtBoundary s k && decide (k.done < k.len) && (k.done == 0 || k.dest % 512 == 0)

/-- The banks of `n` words from `a` (R41). -/
def banksOf (a n : Nat) : List Nat := ((List.range n).map fun i => (a + i) / 8 % 8).eraseDups

/-- A matrix write of the cycle reaches a bank that the words do (R42). -/
def bankClash (q : Cell) (a n : Nat) : Bool :=
  q.rowsNow.any fun (b, m) => (banksOf a n).any fun x => (banksOf b m).contains x

/-- Add-on-writes of the cell are held: from the detection of a mismatch to the last row write that it delays (R301). -/
def addHeld (q : Cell) : Bool := q.engine.any (·.held) || (0 < q.addHold && q.cyc.toNat ≤ q.addHold)

/-- Completes a copy whose bytes have all moved, if no earlier copy of its queue is still in flight (R91). -/
def completeCopy (s : State) (k : CopyOp) : State :=
  let first := (s.copies.filter fun x => x.ctx == k.ctx && x.orphan == k.orphan && x.kind.queue == k.kind.queue).head?
  if (first.map (·.id)) = some k.id then markCopy s k
  else { s with copies := s.copies.map fun x => if x.id = k.id then k else x }

/-- One event of a copy: an add-on-write writes in a cycle of its slot, once in that cycle (R41, R42); every other copy moves `m` blocks of 512
bytes, or with 0 all its bytes. The copy completes with its last byte. -/
def runCopy (s : State) (k : CopyOp) (m : Nat) : State :=
  if copyStands s k then s
  else if k.kind = .xaddw && k.done < k.len then
    let q := s.cell k.ctx.cell
    let now := q.cyc.toNat
    if now % 4 != k.slot || k.last == some now || addHeld q then s
    else
      let n := if stopsAtBoundary s k then min (addSpanLen k) (toBoundary k 1) else addSpanLen k
      let a := k.near + k.done / 4
      if bankClash q a (n / 4) then failCopy s k (.fatal .scheduleViolation { addr := BitVec.ofNat 64 a })
      else match moveBytes s k n with
        | .error (r, s) => failCopy s k r
        | .ok s =>
          let k := { k with done := k.done + n, last := some now }
          if k.done < k.len then { s with copies := s.copies.map fun x => if x.id = k.id then k else x }
          else completeCopy s k
  else
    let n := copyStep s k m
    match moveBytes s k n with
    | .error (r, s) => failCopy s k r
    | .ok s =>
      let k := { k with done := k.done + n }
      if k.done < k.len then { s with copies := s.copies.map fun x => if x.id = k.id then k else x } else completeCopy s k

/-- COPY_COMPLETION (R57, R91): the event's `n` is the number of a copy in flight, its `m` the blocks that it moves, 0 for all. -/
def execCopyCompletion (s : State) : Host.Outcome State Fault Refusal :=
  match s.copies.find? (·.id == s.ev.n) with
  | some k => .next (runCopy s k s.ev.m)
  | none => .next s

end Sys2Proof.Machine
end

