-- ==== Sys2Proof/Machine/Quiesce.lean ====
section
/-! DEFINITION. Quiescent points that a program names: QPOINT (R243) and an IBEGIN while invalidations are posted (R346). -/

namespace Sys2Proof.Machine

/-- The pages that a copy has still to reach. -/
def pagesLeft (k : CopyOp) : List Word := (copyPieces (dropSpans k.done (copySpans k)) k.done).map (·.1)

/-- The pages that a copy has still to reach are translated, as the copy engine has done when QPOINT goes on (R243). -/
def holdPages (s : State) (k : CopyOp) : CopyOp :=
  { k with held := (pagesLeft k).filterMap fun va => match copyLeaf s k va with
      | .ok l => some l.entry
      | .error _ => none }

/-- Every copy of the context has translated its last page. -/
def holdCopies (s : State) (c : CtxId) : State :=
  { s with copies := s.copies.map fun k => if k.ctx == c && !k.orphan then holdPages s k else k }

/-- Every page that a copy has still to reach translates: where one does not, its fault stops the context, and nothing translates the last page (R97). -/
def pagesHold (s : State) (k : CopyOp) : Bool :=
  (pagesLeft k).all fun va => match copyLeaf s k va with
    | .ok _ => true
    | .error _ => false

/-- QPOINT's wait: every earlier entry has issued, and the copies of the context can have translated their last pages (R243); it does not wait for a
copy's bytes. (DEDUCED: log entry 51.) -/
def qpointReady (s : State) (c : CtxId) : Bool :=
  queuesEmpty (s.cx c) && s.copies.all fun k => k.ctx != c || k.orphan || pagesHold s k

/-- IBEGIN opens an instant (R173, R237): it is a quiescent point, after QPOINT's wait, while invalidations are posted (R346); it
increments BASEI but for drain iterations (R180) and fixes every clock that is not lazy (R177). -/
def ibegin (s : State) : Res :=
  let c := s.me
  if c.iopen || c.handler then .error (.fatal .illegalOpcode {})
  else if c.pendCount != 0 && !qpointReady s s.cur then .error (.wait (.sync 2))
  else
    let s := if c.pendCount != 0 then quiesce (holdCopies s s.cur) s.cur else s
    let c := s.me
    let drain := c.react.act && c.react.n < c.react.iter
    let c := if drain then c else { c with basei := c.basei + 1, instants := c.instants ++ [c.basei + 1] }
    .ok (advance (s.setMe (settleClocks { c with iopen := true, ireact := c.react })))

/-- IBEGIN (R237). -/
def execIbegin (s : State) : Host.Outcome State Fault Refusal := finish s .ibegin (ibegin s)

/-- QPOINT (R243, R398). -/
def execQpoint (s : State) : Host.Outcome State Fault Refusal :=
  finish s .qpoint <|
    if qpointReady s s.cur then .ok (advance (quiesce (holdCopies (emptyIcache s s.cur.cell) s.cur) s.cur))
    else .error (.wait (.sync 2))

end Sys2Proof.Machine
end

