-- ==== Sys2Proof/Machine/Atomics.lean ====
section
/-! DEFINITION. The sequencer's own memory accesses: LDH and STH through the data cache (R37, R80, R81), atomics (R144 to R148), FENCE
and SYNCLS (R149, R150), barriers (R151 to R153), and the return of an outstanding access. -/

namespace Sys2Proof.Machine

/-! ### LDH and STH (R80) -/

/-- The address of LDH and STH, aligned to the width. -/
def ldhAddr (b : Word) (imm : BitVec 16) (n : Nat) : Except Raise Word :=
  let a := b + sx imm
  if a.toNat % n != 0 then .error (boundsAt (va56 a)) else .ok a

/-- An access that is outstanding until SCALAR_ACCESS_RETURN, with its destination pending (R160). -/
def addReturn (s : State) (r : ScalarRet) : State :=
  let c := match r.dest with
    | some d => pendS s.me d true
    | none => s.me
  s.setMe { c with scalars := c.scalars ++ [r] }

/-- The outstanding access of an instruction. -/
def newReturn (s : State) (i : Instr) (k : Tag) (dest : Option (BitVec 6)) (w : Word) (va : Word) (l : Leaf) : ScalarRet :=
  { id := s.me.nextId, dest := dest, val := w, tag := k, hand := s.me.handler, remote := l.far s, level := l.level, serial := l.entry.serial, addr := va,
    pc := s.me.pc, i := i, iter := iterationOf s.me k }

/-- LDH (R80). (DEDUCED: log entry 45.) -/
def ldh (o : LdS) (s : State) : Res :=
  lateBad s.me [o.b] <| match checkTagsS s.me o.h.clk [o.b] with
  | .error e => .error e
  | .ok _ => match checkDest s.me o.d with
    | .error e => .error e
    | .ok _ => match ldhAddr (readS s s.me o.b) o.imm (memBytes o.w) with
      | .error e => .error e
      | .ok a => match scalarLoad s a (memBytes o.w) with
        | .error e => .error e
        | .ok (x, l, s) =>
          .ok (addReturn (s.setMe (killS s.me [(o.b, o.ub)])) (newReturn s (.ldh o) o.h.clk (some o.d) (extendMem o.w x) a l))
def execLdh (o : LdS) (s : State) : Host.Outcome State Fault Refusal :=
  let r := onClock s o.h.clk (ldh o)
  let s := match r with
    | .error (.fatal .uncorrected i) => if i.sub = 0 then poisonFill s (readS s s.me o.b + sx o.imm) else s
    | _ => s
  finish s (.ldh o) r

/-- STH (R80): write-through; it updates a line that is present and allocates none. (DESIGN CHOICE: log entry 10.) -/
def sth (o : StS) (s : State) : Res :=
  lateBad s.me [o.b, o.d] <| match checkTagsS s.me o.h.clk [o.b, o.d] with
  | .error e => .error e
  | .ok _ => match ldhAddr (readS s s.me o.b) o.imm (memBytes o.w) with
    | .error e => .error e
    | .ok a => match scalarLeaf s a (memBytes o.w) .write with
      | .error e => .error e
      | .ok (l, s) =>
        let bs := leBytes (memBytes o.w) (readS s s.me o.d).toNat
        let s := writeLeaves s [(l, bs.length)] (bs.map (·, false))
        let s := if l.far s then s else updateLine s s.cur.cell l.pa bs
        .ok (addReturn (s.setMe (killS s.me [(o.b, o.ub), (o.d, o.ud)])) (newReturn s (.sth o) o.h.clk none 0 a l))
def execSth (o : StS) (s : State) : Host.Outcome State Fault Refusal :=
  finish s (.sth o) (onClock s o.h.clk (sth o))

/-! ### Atomics (R147, R148) -/

/-- Width in bytes of an atomic's type. -/
def amoBytes (t : AmoType) : Nat := if AmoType.w64 t then 8 else 4
/-- The old value as the destination receives it (R147). -/
def amoExtend (t : AmoType) (x : Nat) : Word :=
  match t with
  | .i32 => (BitVec.ofNat 32 x).signExtend 64
  | _ => BitVec.ofNat 64 x
/-- The order of MIN and MAX: signed for TY = 0. -/
def amoLt (t : AmoType) (a b : Nat) : Bool :=
  match t with
  | .i32 => (BitVec.ofNat 32 a).slt (BitVec.ofNat 32 b)
  | .i64 => (BitVec.ofNat 64 a).slt (BitVec.ofNat 64 b)
  | _ => a < b
/-- AMOADD. -/
def amoAdd (t : AmoType) (a b : Nat) : Nat :=
  if t = .f32 then addBits (fmtOf .fp32) a b else (a + b) % 256 ^ amoBytes t

/-- The release condition holds, when the order asks for it (R129). -/
def Amo.releases (o : Amo) : Bool := o.ord == .rel || o.ord == .ar
/-- The atomic is an acquire (R129). -/
def Amo.acquires (o : Amo) : Bool := o.ord == .acq || o.ord == .ar

/-- The frame of every atomic (R148). `new` gives the bytes written from the old value, s[X] and s[C], or none. -/
def amoOp (o : Amo) (i : Instr) (src : List (BitVec 6 × Bool)) (dest : Bool) (k : Access)
    (new : Nat → Nat → Nat → Option Nat) (s : State) : Res :=
  alsoWaits (Amo.releases o && !accessesDone s s.cur) (.sync 2) <| match checkTagsS s.me o.clk (src.map (·.1)) with
  | .error e => .error e
  | .ok _ => match checkDest s.me (if dest then o.d else 0) with
    | .error e => .error e
    | .ok _ =>
      let w := amoBytes o.ty
      let a := readS s s.me o.b
      if a.toNat % w != 0 then .error (boundsAt (va56 a))
      else match scalarLeaf s a w k with
        | .error e => .error e
        | .ok (l, s) =>
          if l.entry.cmp != 0 then .error (.fatal .atomicAttribute { addr := va56 a })
          else if badS s.me (src.map (·.1)) then .error regBad
          else if Amo.releases o && !accessesDone s s.cur then .error (.wait (.sync 2))
          else
            let far := l.far s
            let bs := s.hbmRead 0 l.pa w
            match if far then none else hbmBad a bs with
            | some r => .error r
            | none =>
              let old := if far then (Config.freeRemote (s.free l.pa)).toNat % 256 ^ w else leNat (bs.map (·.1))
              let arg (r : BitVec 6) : Nat := (readS s s.me r).toNat % 256 ^ w
              let c := killS s.me src
              let s' := match new old (arg o.x) (arg o.c) with
                | some x => if far then s else s.writeRaw l.pa (leBytes w x)
                | none => s
              let s' := if far then s'.setMe c else dropLine (s'.setMe c) s.cur.cell l.pa
              let s' := addReturn s' (newReturn s i o.clk (if dest then some o.d else none) (amoExtend o.ty old) a l)
              .ok (if Amo.acquires o then acquire s' s'.cur else s')

/-- The sources of the general form. -/
def amoSrc (o : Amo) : List (BitVec 6 × Bool) := [(o.b, o.ub), (o.x, o.ux)]

/-- AMOLD (R148). -/
def execAmold (o : Amo) (s : State) : Host.Outcome State Fault Refusal :=
  finish s (.amold o) (onClock s o.clk (amoOp o (.amold o) [(o.b, o.ub)] true .read fun _ _ _ => none))
/-- AMOST (R148). -/
def execAmost (o : Amo) (s : State) : Host.Outcome State Fault Refusal :=
  finish s (.amost o) (onClock s o.clk (amoOp o (.amost o) (amoSrc o) false .write fun _ x _ => some x))
/-- AMOSWAP (R148). -/
def execAmoswap (o : Amo) (s : State) : Host.Outcome State Fault Refusal :=
  finish s (.amoswap o) (onClock s o.clk (amoOp o (.amoswap o) (amoSrc o) true .write fun _ x _ => some x))
/-- AMOCAS (R131, R148): a failed comparison writes nothing. -/
def execAmocas (o : Amo) (s : State) : Host.Outcome State Fault Refusal :=
  finish s (.amocas o) (onClock s o.clk (amoOp o (.amocas o) (amoSrc o ++ [(o.c, o.uc)]) true .write
    fun old x c => if old = c then some x else none))
/-- AMOADD (R148). -/
def execAmoadd (o : Amo) (s : State) : Host.Outcome State Fault Refusal :=
  finish s (.amoadd o) (onClock s o.clk (amoOp o (.amoadd o) (amoSrc o) true .write fun old x _ => some (amoAdd o.ty old x)))
/-- AMOAND (R148). -/
def execAmoand (o : Amo) (s : State) : Host.Outcome State Fault Refusal :=
  finish s (.amoand o) (onClock s o.clk (amoOp o (.amoand o) (amoSrc o) true .write fun old x _ => some (old &&& x)))
/-- AMOOR (R148). -/
def execAmoor (o : Amo) (s : State) : Host.Outcome State Fault Refusal :=
  finish s (.amoor o) (onClock s o.clk (amoOp o (.amoor o) (amoSrc o) true .write fun old x _ => some (old ||| x)))
/-- AMOXOR (R148). -/
def execAmoxor (o : Amo) (s : State) : Host.Outcome State Fault Refusal :=
  finish s (.amoxor o) (onClock s o.clk (amoOp o (.amoxor o) (amoSrc o) true .write fun old x _ => some (old ^^^ x)))
/-- AMOMIN (R148). -/
def execAmomin (o : Amo) (s : State) : Host.Outcome State Fault Refusal :=
  finish s (.amomin o) (onClock s o.clk (amoOp o (.amomin o) (amoSrc o) true .write
    fun old x _ => some (if amoLt o.ty x old then x else old)))
/-- AMOMAX (R148). -/
def execAmomax (o : Amo) (s : State) : Host.Outcome State Fault Refusal :=
  finish s (.amomax o) (onClock s o.clk (amoOp o (.amomax o) (amoSrc o) true .write
    fun old x _ => some (if amoLt o.ty old x then x else old)))

/-- The return of the oldest outstanding access: a remote one that completes with an error status stops the context (R30); otherwise
the destination is written (R80). -/
def scalarReturn (s : State) (c : CtxId) : State :=
  let x := s.cx c
  match x.scalars with
  | [] => s
  | r :: rest =>
    let s := s.setCx c { x with scalars := rest }
    if r.fails s then
      match remoteFault r.addr { level := r.level, entry := { serial := r.serial } } with
      | .fatal code i => fatalStop s c r.pc (wordOf r.i) code i false (some r.iter)
      | _ => s
    else match r.dest with
      | some d => s.setCx c (writeS (s.cx c) d r.val r.tag r.hand)
      | none => s

/-- SCALAR_ACCESS_RETURN: the event's `ctx`. -/
def execScalarAccessReturn (s : State) : Host.Outcome State Fault Refusal :=
  .next (if s.resident s.ev.ctx then scalarReturn s s.ev.ctx else s)

/-! ### FENCE and SYNCLS -/

/-- FENCE (R149). -/
def execFence (clk : Tag) (scope : Scope) (s : State) : Host.Outcome State Fault Refusal :=
  finish s (.fence clk scope) (onClock s clk fun s =>
    if accessesDone s s.cur then .ok (acquire s s.cur) else .error (.wait (.sync 2)))

/-- SYNCLS (R150): one marker in the L queue and one in the S queue. -/
def execSyncls (clk : Tag) (s : State) : Host.Outcome State Fault Refusal :=
  finish s (.syncls clk) (onClock s clk fun s =>
    let c := s.me
    if 32 ≤ c.qL.length then .error (.wait (.full 1))
    else if 32 ≤ c.qS.length then .error (.wait (.full 3))
    else
      let e : Entry := { kind := .sync, i := .syncls clk, pc := c.pc, id := c.nextId }
      .ok (s.setMe { c with qL := c.qL ++ [e], qS := c.qS ++ [e], nextId := c.nextId + 1 }))

/-! ### Barriers -/

/-- A barrier instruction on a barrier that is not granted to the partition raises BOUNDS. -/
def withBar (s : State) (n : BitVec 4) (f : Nat × Nat → Barrier → Res) : Res :=
  let k := barKey s.cur.cell n.toNat
  if barGranted s k s.me.pid then f k (s.bar k) else .error (boundsAt 0)

/-- BAR.INIT (R151). -/
def execBarInit (clk : Tag) (rb : BitVec 6) (ub : Bool) (x : BitVec 6) (ux : Bool) (bar : BitVec 4) (s : State) :
    Host.Outcome State Fault Refusal :=
  finish s (.barInit clk rb ub x ux bar) (onClock s clk fun s =>
    lateBad s.me [rb, x] <| match checkTagsS s.me clk [rb, x] with
    | .error e => .error e
    | .ok _ => withBar s bar fun k b =>
      let ea := (readS s s.me rb).toNat
      let ec := (readS s s.me x).toNat
      if ea < 1 || 32 < ea || 65535 < ec || b.ac != 0 || b.cc != 0 then .error (boundsAt 0)
      else
        let s := s.setMe (killS s.me [(rb, ub), (x, ux)])
        .ok (s.setBar k { b with ea := BitVec.ofNat 32 ea, ec := BitVec.ofNat 32 ec }))

/-- The release condition of BAR.ARRIVE (R152): earlier copies that count toward the barrier are left out, unissued ones too. (DEDUCED: log entry 49.) -/
def arriveReady (s : State) (c : CtxId) (n : Nat) : Bool :=
  let x := s.cx c
  let counted (e : Entry) : Bool := match e.i with
    | .xcopyIn o | .xcopyInStrided o | .xcopyd o | .xaddw o | .xaddwStrided o | .xbcast o | .xbcastStrided o | .xcopyOut o
    | .xcopyOutStrided o => o.be && o.bar.toNat == n
    | _ => false
  x.qL.all counted && x.qS.all counted && x.loads.isEmpty && x.stores.isEmpty && x.scalars.isEmpty &&
    s.copies.all fun k => k.ctx != c || k.orphan || k.bar == some n

/-- BAR.ARRIVE (R152). -/
def execBarArrive (clk : Tag) (d : BitVec 6) (bar : BitVec 4) (s : State) : Host.Outcome State Fault Refusal :=
  let held : State → State := fun s => match s.me.arrived with
    | some ph => s.setMe { writeS s.me d (zx ph) clk s.me.handler with arrived := none }
    | none => s
  let k := barKey s.cur.cell bar.toNat
  let b := s.bar k
  let joins := s.me.arrived.isNone && barGranted s k s.me.pid && b.ea != 0 && b.ac == b.ea && !b.ha.contains s.cur &&
    arriveReady s s.cur bar.toNat && (match presence s.me clk with
      | .ok (true, _) => !rootForbidden s.me clk
      | _ => false)
  let s := if joins then s.setBar k { b with ha := b.ha ++ [s.cur] } else s
  finish s (.barArrive clk d bar) (onClock s clk fun s =>
    match checkDest s.me d with
    | .error e => .error e
    | .ok _ =>
      if s.me.arrived.isSome then .ok (held s)
      else withBar s bar fun k b =>
        if b.ea = 0 then .error (boundsAt 0)
        else if !arriveReady s s.cur bar.toNat || b.ac == b.ea || b.ha.contains s.cur then .error (.wait (.sync 0))
        else
          let s := s.setBar k { b with ac := b.ac + 1 }
          let s := settleBar (settleFuel b) s k
          .ok (setS s d (zx b.ph) clk))

/-- BAR.WAIT (R153). -/
def execBarWait (clk : Tag) (rb : BitVec 6) (ub : Bool) (bar : BitVec 4) (s : State) : Host.Outcome State Fault Refusal :=
  finish s (.barWait clk rb ub bar) (onClock s clk fun s =>
    match checkTagsS s.me clk [rb] with
    | .error e => .error e
    | .ok _ => withBar s bar fun _ b =>
      if badS s.me [rb] then .error regBad else
      let p : BitVec 32 := fld (readS s s.me rb) 0 32
      let n := (b.ph - p).toNat
      if 1 ≤ n && n ≤ 2 ^ 31 - 1 then .ok (acquire (s.setMe (killS s.me [(rb, ub)])) s.cur)
      else .error (.wait (.sync 0)))

end Sys2Proof.Machine
end

