-- ==== Sys2Proof/Machine/Channels.lean ====
section
/-! DEFINITION. Channel instructions (R102 to R104, R112 to R119) and the events of the channel unit (R105 to R108, R125). An element
waits in transit until the accesses that its write releases have performed (R111). -/

namespace Sys2Proof.Machine

/-! ### Saved contexts -/

/-- Runs an operation on a saved context as if it were in its slot. (DEDUCED: log entry 79.) -/
def onSaved (s : State) (c : CtxId) (v : Saved) (f : State → State) : State :=
  let old := find? s.ctxs c
  let s := f (s.setCx c v.ctx)
  { s with ctxs := match old with
      | some x => put s.ctxs c x
      | none => drop s.ctxs c }

/-- Discards a saved context (R338): its instants are abandoned, its resume records dropped and its ports unbound. A cell image that
another context of the same save needs stays with that one. -/
def discard (s : State) (c : CtxId) (v : Saved) : State :=
  let s := { s with saved := s.saved.erase (c, v) }
  let mine (w : CtxId × Saved) : Bool := w.1.cell == c.cell && !w.2.pinned && w.2.batch == v.batch
  let s := match if v.image then s.saved.find? mine else none with
    | some w => { s with saved := s.saved.map fun x =>
        if x = w then (x.1, { x.2 with image := true, img := v.img, imgBad := v.imgBad }) else x }
    | none => s
  retireLaunches (onSaved s c v fun s => unbindAll (abandon s c) c)

/-- The fatal stop of a context that has been saved (R336): it cannot resume; the fault record goes into its area, and the host is told. -/
def stopSaved (s : State) (c : CtxId) (v : Saved) (code : Code) (i : Info) : State :=
  let r := faultRecord v.ctx.pc 0 code.num i false (!v.ctx.instants.isEmpty)
  let pay : BitVec 256 := 0#80 ++ i.aux ++ 0#6 ++ i.lane ++ 0#5 ++ i.level ++ i.sub ++ 0#64 ++ i.addr
  let s := onSaved s c v fun s =>
    let s := trace s c 4 {} code.num v.ctx.pc pay
    match areaWrite s c (piecesOf v.ctx.preArea 64) ((leBytes 64 r.toNat).map (·, false)) with
    | .error (_, _, s) => s
    | .ok s => s
  hostEvent (discard s c v) v.ctx.pid 1 code.num c.cell c.slot v.ctx.seq

/-! ### Ports -/

/-- A BOUNDS fault of a port, with the channel identifier (R102, R337). (DEDUCED: log entry 53.) -/
def portFault (n : Nat) : Raise := .fatal .bounds { aux := BitVec.ofNat 16 n }

/-- The channel of a port of the given direction (R102). -/
def portChan (c : Ctx) (p : BitVec 5) (write : Bool) : Except Raise Nat :=
  let x := c.port[p.toFin]
  match x.chan with
  | none => .error (portFault 0)
  | some n => if x.write == write then .ok n else .error (portFault n)

/-- Replaces a port of the executing context. -/
def setPort (c : Ctx) (p : BitVec 5) (x : Port) : Ctx := { c with port := c.port.set p.toFin x p.toFin.isLt }

/-- Changes the write port of a channel's writer, whether its context is resident or saved. -/
def updWriter (s : State) (i : ChanId) (f : Port → Port) : State :=
  match (s.chan i).writer with
  | none => s
  | some w =>
    let id : CtxId := ⟨w.cell, w.slot⟩
    let upd (x : Ctx) : Ctx := { x with port := x.port.map fun p => if p.chan == some i.chan && p.write then f p else p }
    let s := match find? s.ctxs id with
      | some x => if x.pid = i.pid then s.setCx id (upd x) else s
      | none => s
    { s with saved := s.saved.map fun (c, v) => (c, if c = id ∧ v.ctx.pid = i.pid then { v with ctx := upd v.ctx } else v) }

/-! ### The release condition (R111) -/

/-- Every access of a resident context that precedes entry `id` in program order has performed. -/
def earlierDone (s : State) (c : CtxId) (id : Nat) : Bool :=
  let x := s.cx c
  let later (e : Entry) : Bool := id ≤ e.id
  x.qL.all later && x.qS.all later && x.loads.all (id ≤ ·.id) && x.stores.all (id ≤ ·.id) && x.scalars.all (id < ·.id) &&
    s.copies.all fun k => k.ctx != c || k.orphan || id ≤ k.eid

/-- The accesses that a retired context left behind have performed. -/
def retiredDone (s : State) (c : CtxId) (pid seq : Nat) : Bool :=
  s.copies.all (fun k => !k.orphan || k.ctx != c || k.pid != pid || k.seq != seq) &&
    (s.cell c.cell).tracker.all fun t => match t with
      | .stores p q _ _ _ => p != pid || q != seq
      | .copy _ _ _ => true

/-- The same for a writer that has been saved. -/
def savedDone (s : State) (i : ChanId) (x : Elem) : Bool :=
  match s.saved.find? fun v => v.1 == x.wctx && v.2.ctx.pid == i.pid && v.2.ctx.seq == x.wseq with
  | some v => v.2.copies.all (x.wid ≤ ·.eid)
  | none => retiredDone s x.wctx i.pid x.wseq

/-- An element or marker may leave its writer (R111); a pending one is released by its commit. (DEDUCED: log entry 55.) -/
def released (s : State) (i : ChanId) (x : Elem) : Bool :=
  x.pend.isSome ||
    match find? s.ctxs x.wctx with
    | some c => if c.pid = i.pid ∧ c.seq = x.wseq then earlierDone s x.wctx x.wid else savedDone s i x
    | none => savedDone s i x

/-! ### CHWR, CHWR.I and CHCLOSE (R116, R118) -/

/-- The instant whose commit releases a write of the context: the latest of those of the pending elements of the port, with which it becomes pending
(R109), and of the stores that the commit buffer holds, which are earlier accesses (R111, R174). (DEDUCED: log entry 54. DEDUCED: log entry 55.) -/
def lastPend (c : Ctx) (ch : Chan) : Option Word :=
  match ch.marks.filterMap (·.pend) ++ (ch.transit ++ ch.away).filterMap (·.pend) ++ c.commits.map (·.inst) with
  | [] => none
  | m :: l => some (l.foldl (fun a b => if a.toNat < b.toNat then b else a) m)

/-- What a channel write whose data has still to pass waits for (R356): a credit, where there is none. -/
def noCredit (s : State) (o : ChWrite) : WaitClass :=
  match portChan s.me o.p true with
  | .ok n => if usableCredits (s.chan ⟨s.me.pid, n⟩) s.me.port[o.p.toFin] = 0 then .channel o.p.toNat else .operand 1
  | .error _ => .operand 1

/-- CHWR at the head of the S queue. -/
def chwrOp (o : ChWrite) (inst : Bool) (e : Entry) (s : State) : Res :=
  if o.v && !e.passed then .error (.wait (noCredit s o))
  else match if o.v then .ok () else checkTags s e [] false with
    | .error r => .error r
    | .ok _ => match portChan s.me o.p true with
      | .error r => .error r
      | .ok n =>
        let i : ChanId := ⟨s.me.pid, n⟩
        let ch := s.chan i
        let p := s.me.port[o.p.toFin]
        if p.closed || 2 ≤ ch.state.toNat || (!o.v && 8 < ch.e) then .error (portFault n)
        else if usableCredits ch p = 0 then .error (.wait (.channel o.p.toNat))
        else
          let src : Vec := if o.v then e.data.getD 0 0 else (e.sc 0).setWidth 4096
          let own := inst && e.opened && !e.hand
          let pend := if own then some e.inst else lastPend s.me ch
          let x : Elem := { val := src &&& (BitVec.ofNat 4096 (2 ^ (8 * ch.e) - 1)), tag := e.inst, pend := pend, own := own,
                            wctx := s.cur, wseq := s.me.seq, wid := e.id }
          let s := s.setChan i { ch with transit := ch.transit ++ [x], wcount := ch.wcount + 1, wblk := false }
          .ok (s.setMe (setPort s.me o.p { p with
            credits := p.credits - 1, pending := p.pending + (if pend.isSome then 1 else 0) }))

/-- CHWR.I is illegal in a handler (R333). -/
def stageChwrI (e : Entry) (s : State) : Except Raise (Entry × State) :=
  if s.me.handler then .error (.fatal .illegalOpcode {}) else .ok (e, s)

/-- The routing of a channel write. -/
def chwrRouting (o : ChWrite) : Routing :=
  { src := if o.v then [] else [(o.d, o.ud)], comps := if o.v then [.storeData] else [] }

/-- CHWR (R116). -/
def actChwr (o : ChWrite) (e : Entry) (s : State) : Res := chwrOp o false e s
def execChwr (o : ChWrite) (s : State) : Host.Outcome State Fault Refusal :=
  finish s (.chwr o) (routeTo s (.chwr o) .s (chwrRouting o) (actChwr o))
/-- CHWR.I (R109, R116). -/
def actChwrI (o : ChWrite) (e : Entry) (s : State) : Res := chwrOp o true e s
def execChwrI (o : ChWrite) (s : State) : Host.Outcome State Fault Refusal :=
  finish s (.chwrI o) (routeTo s (.chwrI o) .s { chwrRouting o with stage := stageChwrI } (actChwrI o))

/-- CHCLOSE (R118): no effect on a channel or port that is already closed. -/
def actChclose (_h : Hdr) (p : BitVec 5) (e : Entry) (s : State) : Res :=
  match portChan s.me p true with
  | .error r => .error r
  | .ok n =>
    let i : ChanId := ⟨s.me.pid, n⟩
    let ch := s.chan i
    let x := s.me.port[p.toFin]
    if x.closed || 2 ≤ ch.state.toNat then .ok s
    else
      let pend := lastPend s.me ch
      let m : Elem := { close := true, pend := pend, wctx := s.cur, wseq := s.me.seq, wid := e.id }
      let s := s.setChan i { ch with transit := ch.transit ++ [m], state := if pend.isNone && !foreign s ch.reader then 2 else ch.state }
      .ok (s.setMe (setPort s.me p { x with closed := true }))
def execChclose (h : Hdr) (p : BitVec 5) (s : State) : Host.Outcome State Fault Refusal :=
  finish s (.chclose h p) (routeTo s (.chclose h p) .s {} (actChclose h p))

/-- A context holds the port that an endpoint of a channel names. -/
def Endpoint.chanOf (w : Endpoint) (x : Ctx) (i : ChanId) : Bool := (x.port.toList.getD w.port {}).chan == some i.chan

/-! ### Record and replay of reads (R371, R373) -/

/-- Bytes 32 to 63 of an INPUT record: tag, kind, E and a result (R364, R371). -/
def inputPayload (tag : Word) (kind : BitVec 8) (e : Nat) (result : Word := 0) : BitVec 256 :=
  0#64 ++ result ++ BitVec.ofNat 32 e ++ 0#24 ++ kind ++ tag

/-- Logs a read of the context in record mode (R371). -/
def logInput (s : State) (e : Entry) (p : BitVec 5) (pay : BitVec 256) (body : List Byte := []) : State :=
  logRecord s s.cur 11 (iterationOf s.me (clkOf e.i)) (p.setWidth 8) e.pc pay body

/-- The first unconsumed INPUT record of a replaying context, when it is this port's and of this kind: its address (R373). -/
def replayed (s : State) (e : Entry) (p : BitVec 5) (kind : Nat) : Option Nat :=
  match s.me.replay with
  | none => none
  | some l => match l.find? fun a => s.rawNat a 1 % 16 == 11 with
    | none => none
    | some a =>
      if s.rawNat (a + 3) 1 = p.toNat ∧ s.rawNat (a + 40) 1 = kind ∧ s.rawNat (a + 24) 8 = e.pc.toNat then some a else none

/-- Consumes a logged record. -/
def consume (s : State) (a : Nat) : State := s.setMe { s.me with replay := s.me.replay.map fun l => l.filter (· != a) }

/-! ### CHRD, CHTRY and CHTAG (R117) -/

/-- What a look at a channel's head finds. -/
inductive Look where
  | elem (x : Elem) | fin | empty
  deriving DecidableEq, Repr

/-- The head of a channel. -/
def lookAt (s : State) (i : ChanId) : Look :=
  let ch := s.chan i
  if ch.state != 3 && ch.headPresent then .elem (ringHead s i s.cur.cell)
  else if ch.state == 3 || ch.ended then .fin else .empty

/-- The replay log of the executing context holds another element for the port. -/
def logHolds (s : State) (p : BitVec 5) : Bool := match s.me.replay with
  | some l => l.any fun a => s.rawNat a 1 % 16 == 11 && s.rawNat (a + 3) 1 == p.toNat && s.rawNat (a + 40) 1 == 0
  | none => false

/-- What a read finds on a channel from another device: in replay the elements come from the log alone, and the end, which recording does not log, where the
channel is closed and the log holds no further element (R371, R373). (DEDUCED: log entry 122.) -/
def lookAway (s : State) (i : ChanId) (p : BitVec 5) : Look :=
  if s.me.replay.isNone then lookAt s i
  else if 2 ≤ (s.chan i).state.toNat && !logHolds s p then .fin else .empty

/-- UNCORRECTED of a ring slot. (DEDUCED: log entry 60.) -/
def ringBad (s : State) (i : ChanId) (tag : Bool) : Raise :=
  let ch := s.chan i
  let j := ch.rhead.toNat % ch.n
  let a := if tag then ch.rbase + ch.n * ch.e + 8 * j else ch.rbase + ch.e * j
  let n := if tag then 8 else ch.e
  let off := ((List.range n).find? fun k => s.bad (scratchKey s.cur.cell (a + k))).getD 0
  scratchBad (a + off)

/-- Removes the head element (R104, R105, R106). -/
def popHead (s : State) (i : ChanId) : State :=
  let ch := s.chan i
  settleSpill (s.setChan i { ch with
    rhead := ch.rhead + 1, rcount := ch.rcount + 1, returning := ch.returning + (if ch.writer.isSome then 1 else 0),
    rblk := false }) i

/-- The three instructions differ in whether they wait, pop and take the tag. -/
inductive ReadKind where
  | rd | try | tag
  deriving DecidableEq, Repr

/-- The delivery of a read's value and status. -/
def addRead (s : State) (o : ChRead) (e : Entry) (w : Vec) (st : Word) : State :=
  addLoad s { newLoad e .l (if o.v then .v (fld o.d 0 5) else .s o.d) with
    val := w, stat := if o.x = 0 then none else some (o.x, st) }

/-- A channel read at the head of the L queue. -/
def chReadOp (o : ChRead) (k : ReadKind) (e : Entry) (s : State) : Res :=
  match portChan s.me o.p false with
  | .error r => .error r
  | .ok n =>
    let i : ChanId := ⟨s.me.pid, n⟩
    let ch := s.chan i
    if k != .tag && !o.v && 8 < ch.e then .error (portFault n)
    else
      let away := foreign s ch.writer
      let full := o.v && decide (16 ≤ queueTaken s.me)
      let look := if away then lookAway s i o.p else lookAt s i
      /- pops come first in a cycle of the unit (R105): once it has applied a landing or a push, the next cycle answers -/
      if ch.step != 0 && ch.served then .error (.wait (.channel o.p.toNat))
      else if full && (k = .try || look != .empty || (away && (replayed s e o.p 0).isSome)) then .error (.wait (.engine 6))
      else match if k = .try then replayed s e o.p 1 else none with
      | some a => .ok (addRead (consume s a) o e 0 1)
      | none => match if away then replayed s e o.p 0 else none with
        | some a =>
          let s := acquire (consume s a) s.cur
          let tag : Vec := BitVec.ofNat 4096 (s.rawNat (a + 32) 8)
          let val : Vec := BitVec.ofNat 4096 (s.rawNat (a + 64) ch.e)
          .ok (addRead s o e (if k = .tag then tag else val) 0)
        | none => match look with
          | .elem x =>
            if (if k = .tag then x.badTag else x.bad) then .error (ringBad s i (k = .tag))
            else
              let s := if away then logInput s e o.p (inputPayload x.tag 0 ch.e)
                  (Elem.bytes x ch.e ++ List.replicate ((64 - ch.e % 64) % 64) 0) else s
              let s := acquire (if k = .tag then s else popHead s i) s.cur
              .ok (addRead s o e (if k = .tag then x.tag.setWidth 4096 else x.val) 0)
          | .fin =>
            let s := acquire (s.setChan i { ch with state := 3, rblk := false }) s.cur
            .ok (addRead s o e (if k = .tag then BitVec.ofNat 4096 (2 ^ 64 - 1) else 0) 2)
          | .empty =>
            if k = .try && s.me.replay.isNone then
              .ok (addRead (logInput s e o.p (inputPayload 0 1 ch.e)) o e 0 1)
            else .error (.wait (.channel o.p.toNat))

/-- The routing of a channel read. -/
def chReadRouting (o : ChRead) : Routing :=
  { dest := if o.v then [o.x] else [o.d, o.x], comps := if o.v then [.receive] else [] }

/-- CHRD. -/
def actChrd (o : ChRead) (e : Entry) (s : State) : Res := chReadOp o .rd e s
def execChrd (o : ChRead) (s : State) : Host.Outcome State Fault Refusal :=
  finish s (.chrd o) (routeTo s (.chrd o) .l (chReadRouting o) (actChrd o))
/-- CHTRY. -/
def actChtry (o : ChRead) (e : Entry) (s : State) : Res := chReadOp o .try e s
def execChtry (o : ChRead) (s : State) : Host.Outcome State Fault Refusal :=
  finish s (.chtry o) (routeTo s (.chtry o) .l (chReadRouting o) (actChtry o))
/-- CHTAG. -/
def actChtag (o : ChRead) (e : Entry) (s : State) : Res := chReadOp o .tag e s
def execChtag (o : ChRead) (s : State) : Host.Outcome State Fault Refusal :=
  finish s (.chtag o) (routeTo s (.chtag o) .l (chReadRouting o) (actChtag o))

/-! ### CHSTAT (R119) -/

/-- Elements present in the ring and in the Silt, pending ones at their tail left out. (DEDUCED: log entry 56.) -/
def presentCount (ch : Chan) : Nat :=
  let first := ch.held - ch.marked.length
  let here (k : Nat) : Bool := decide (k < ch.ring) || decide (ch.ring + ch.refills.length ≤ k)
  ch.ring + ch.silt - (((List.range ch.marked.length).zip ch.marked).filter fun x => x.2.pend.isSome && here (first + x.1)).length

/-- The state word. -/
def chanWord (ch : Chan) : Word :=
  0#51 ++ ch.grown ++ (if ch.pendingAll = 0 then 0#1 else 1#1) ++ (if ch.spilling then 1#1 else 0#1) ++ ch.state

/-- The snapshot that a selector names (R119). Before any credit has come back from another device selector 1 reads 0. (DESIGN CHOICE: log entry 126.) -/
def chanStat (s : State) (ch : Chan) (p : Port) (sel : Nat) : Word :=
  let away := p.write && foreign s ch.reader
  match sel with
  | 0 => BitVec.ofNat 64 (if p.write then p.credits else presentCount ch)
  | 1 => if away then zx ch.rword else chanWord ch
  | 2 => if p.write then ch.wcount else ch.rcount
  | _ => BitVec.ofNat 64 (ch.n + ch.c)

/-- CHSTAT: a port of either direction; neither a wait nor an acquire. -/
def actChstat (_h : Hdr) (d : BitVec 6) (p : BitVec 5) (sel : BitVec 4) (e : Entry) (s : State) : Res :=
  let x := s.me.port[p.toFin]
  match x.chan with
  | none => .error (portFault 0)
  | some n =>
    let r (s : State) (w : Word) : State := addLoad s { newLoad e .l (.s d) with val := w.setWidth 4096 }
    match replayed s e p 2 with
    | some a => .ok (r (consume s a) (BitVec.ofNat 64 (s.rawNat (a + 48) 8)))
    | none =>
      let ch := s.chan ⟨s.me.pid, n⟩
      let w := chanStat s ch x sel.toNat
      .ok (r (logInput s e p (inputPayload 0 2 ch.e w)) w)
def execChstat (h : Hdr) (d : BitVec 6) (p : BitVec 5) (sel : BitVec 4) (s : State) : Host.Outcome State Fault Refusal :=
  finish s (.chstat h d p sel) (routeTo s (.chstat h d p sel) .l { dest := [d] } (actChstat h d p sel))

/-! ### The channel unit's events (R105 to R108, R125) -/

/-- A Silt access that fails translation stops the reader, or for a write with no resident reader the writer, whether it is resident or saved, and
reports the channel (R107). Where the writer has left its port, or lies on another device, no context of this one is left to stop: the element is
dropped without a report. (DESIGN CHOICE: log entry 112.) -/
def siltFail (s : State) (i : ChanId) (va : Word) (f : WalkFail) (write : Bool) : State :=
  let ch := s.chan i
  let who := if write && !ch.served then ch.writer else ch.reader
  match who, walkFault va f with
  | some w, .fatal code info =>
    let c : CtxId := ⟨w.cell, w.slot⟩
    let info := { info with aux := BitVec.ofNat 16 i.chan }
    if w.dev != s.dev.devNum then s
    else if s.resident c && (s.cx c).pid == i.pid && w.chanOf (s.cx c) i then fatalStop s c (s.cx c).pc 0 code info
    else match s.saved.find? fun v => v.1 == c && v.2.ctx.pid == i.pid && w.chanOf v.2.ctx i with
      | some (_, v) => stopSaved s c v code info
      | none => s
  | _, _ => s

/-- An arriving element has somewhere to go: a ring slot outside spill mode, or a Silt slot. One that finds neither, because the reader left while it
was on its way, stays in transit until there is room. (DESIGN CHOICE: log entry 111.) -/
def hasRoom (ch : Chan) : Bool :=
  (!ch.spilling && decide (ch.ring + ch.refills.length < ch.n)) || decide (ch.silt < ch.c)

/-- The push of one element or marker, or its failure. -/
def pushElem (s : State) (i : ChanId) (x : Elem) : State :=
  match arrive s i x with
  | .ok s => s
  | .error (va, f) => siltFail s i va f true

/-- An element or close marker that comes over the fabric: its tag, then its bytes; bit 0 of the event's `grp` says that it is poisoned, bit 1 that its tag
is (R350), bit 2 that it is pending, with the instant in `m`, and bit 3 that CHWR.I wrote it (R109, R125). -/
def fabricElem (s : State) : Elem :=
  let g := s.ev.grp
  let pend : Option Word := if g.getLsbD 2 then some (BitVec.ofNat 64 s.ev.m) else none
  match s.ev.fab with
  | .write tag bs =>
    { val := BitVec.ofNat 4096 (leNat bs), tag := BitVec.ofNat 64 tag, close := s.ev.flag, bad := g.getLsbD 0, badTag := g.getLsbD 1, pend := pend,
      own := g.getLsbD 3 }
  | .read _ _ => { close := s.ev.flag, pend := pend }

/-- What a writer on another device says of its pending elements instead: a fabric read of length 1 stands for the commit of the instant `m`, one of length
2 for abandonment (R109). -/
def fabricCommit (s : State) (i : ChanId) : Option State :=
  match s.ev.fab with
  | .read _ 1 => some (commitChan s i (BitVec.ofNat 64 s.ev.m))
  | .read _ 2 => some (abandonChan s i)
  | _ => none

/-- A push in this cycle of the reader's cell (R105). -/
def pushed (s : State) (i : ChanId) : State := s.setChan i { s.chan i with step := 2 }

/-- CHANNEL_PUSH (R105, R106): the oldest element in transit of the event's channel arrives once it is released; from a writer on
another device the event brings it. An element for a reader on another device leaves this one. -/
def execChannelPush (s : State) : Host.Outcome State Fault Refusal :=
  let i := s.ev.chan
  let ch := s.chan i
  if (find? s.chans i).isNone then .next s
  else match ch.transit with
    | x :: rest =>
      if !released s i x then .next s
      else
        let s' := s.setChan i { ch with transit := rest }
        if foreign s ch.reader then
          .next (dropIdle (s'.setChan i { s'.chan i with away := ch.away ++ (if x.pend.isSome then [x] else []) }) i)
        else if x.close || hasRoom ch then .next (dropIdle (pushed (pushElem s' i x) i) i)
        else .next s
    | [] =>
      let x := fabricElem s
      if !foreign s ch.writer then .next s
      else match fabricCommit s i with
        | some s => .next s
        | none =>
          if x.close || hasRoom ch then
            .next (pushed (pushElem (s.setChan i { ch with wcount := ch.wcount + (if x.close then 0 else 1) }) i x) i)
          else .next s

/-- A refill read can start (R107). -/
def canRefill (ch : Chan) : Bool := ch.served && decide (0 < ch.silt) && decide (ch.refills.length < ch.n - ch.ring)

/-- REFILL_START (R107): the oldest Silt element is read; SHEAD passes it. -/
def execRefillStart (s : State) : Host.Outcome State Fault Refusal :=
  let i := s.ev.chan
  let ch := s.chan i
  if !canRefill ch then .next s
  else match siltRead s i (ch.shead.toNat % max ch.c 1) with
    | .error (va, f) => .next (siltFail s i va f false)
    | .ok (x, s) => .next (s.setChan i { s.chan i with shead := ch.shead + 1, refills := ch.refills ++ [x] })

/-- REFILL_LANDING (R105, R107): the oldest refill enters the ring, in a cycle of the unit that no push has followed; spill mode ends with the last
one (R106). -/
def execRefillLanding (s : State) : Host.Outcome State Fault Refusal :=
  let i := s.ev.chan
  let ch := s.chan i
  match ch.refills, ch.reader with
  | x :: rest, some r =>
    if r.resident && ch.step < 2 then
      .next (settleSpill (ringPush (s.setChan i { ch with refills := rest, step := 1 }) i r.cell x) i)
    else .next s
  | _, _ => .next s

/-- CREDIT_RETURN (R104): credits on their way reach the writer's port; from another device the event brings `n` of them with the state
word and the reader's capacity (R119, R125). -/
def execCreditReturn (s : State) : Host.Outcome State Fault Refusal :=
  let i := s.ev.chan
  let ch := s.chan i
  if (find? s.chans i).isNone then .next s
  else if foreign s ch.reader then
    let s' := s.setChan i { ch with rword := fld s.ev.val 0 13, slog := s.ev.m % 32 }
    .next (updWriter s' i fun p => { p with credits := p.credits + s.ev.n })
  else
    .next (updWriter (s.setChan i { ch with returning := 0 }) i fun p => { p with credits := p.credits + ch.returning })

end Sys2Proof.Machine
end

