-- ==== Sys2Proof/Machine/Queues.lean ====
section
/-! DEFINITION. The heads of the queues: what an instruction does when it issues, companion entries and markers (R160 to R162), the word
that is no instruction (R229 to R231), the delivery of loads (R38), the performance of stores (R143), the rotation of delay registers
(R183) and the commit of an instant (R175, R371 to R373). -/

namespace Sys2Proof.Machine

/-! ### Issue -/

/-- What an instruction of a queue does when it issues. The instructions that the sequencer executes, events and words that are no
instruction have nothing to do there. -/
def issueAct (i : Instr) (e : Entry) (s : State) : Res :=
  match i with
  | .lds o => actLds o e s
  | .sts o => actSts o e s
  | .ldv o => actLdv o e s
  | .stv o => actStv o e s
  | .ldvx o => actLdvx o e s
  | .stvx o => actStvx o e s
  | .ldt h d rb adv => actLdt h d rb adv e s
  | .vperm h ty d sv us x ux => actVperm h ty d sv us x ux e s
  | .aset o ln => actAset o ln e s
  | .asetV o ln => actAsetV o ln e s
  | .asetx o dim => actAsetx o dim e s
  | .aadv o => actAadv o e s
  | .aadvAbs o => actAadvAbs o e s
  | .abnd h d rb ub x ux => actAbnd h d rb ub x ux e s
  | .xcopyIn o => actXcopyIn o e s
  | .xcopyInStrided o => actXcopyInStrided o e s
  | .xcopyd o => actXcopyd o e s
  | .xaddw o => actXaddw o e s
  | .xaddwStrided o => actXaddwStrided o e s
  | .xbcast o => actXbcast o e s
  | .xbcastStrided o => actXbcastStrided o e s
  | .xcopyOut o => actXcopyOut o e s
  | .xcopyOutStrided o => actXcopyOutStrided o e s
  | .chwr o => actChwr o e s
  | .chwrI o => actChwrI o e s
  | .chclose h p => actChclose h p e s
  | .chrd o => actChrd o e s
  | .chtry o => actChtry o e s
  | .chtag o => actChtag o e s
  | .chstat h d p sel => actChstat h d p sel e s
  | .vadd o => actVadd o e s
  | .vsub o => actVsub o e s
  | .vmul o => actVmul o e s
  | .vmin o => actVmin o e s
  | .vmax o => actVmax o e s
  | .vabs o => actVabs o e s
  | .vneg o => actVneg o e s
  | .vdiv o => actVdiv o e s
  | .vmulh o => actVmulh o e s
  | .vfma o => actVfma o e s
  | .vfms o => actVfms o e s
  | .vfnma o => actVfnma o e s
  | .vand o => actVand o e s
  | .vor o => actVor o e s
  | .vxor o => actVxor o e s
  | .vandn o => actVandn o e s
  | .vnot o => actVnot o e s
  | .vsll o => actVsll o e s
  | .vsrl o => actVsrl o e s
  | .vsra o => actVsra o e s
  | .vrotl o => actVrotl o e s
  | .vcmp cc o => actVcmp cc o e s
  | .vsel o => actVsel o e s
  | .vmov o => actVmov o e s
  | .vaddImm o => actVaddImm o e s
  | .vsubImm o => actVsubImm o e s
  | .vmulImm o => actVmulImm o e s
  | .vminImm o => actVminImm o e s
  | .vmaxImm o => actVmaxImm o e s
  | .vandImm o => actVandImm o e s
  | .vorImm o => actVorImm o e s
  | .vxorImm o => actVxorImm o e s
  | .vandnImm o => actVandnImm o e s
  | .vsllImm o => actVsllImm o e s
  | .vsrlImm o => actVsrlImm o e s
  | .vsraImm o => actVsraImm o e s
  | .vrotlImm o => actVrotlImm o e s
  | .vcmpImm cc o => actVcmpImm cc o e s
  | .vmovi o => actVmovi o e s
  | .vcvt dst o => actVcvt dst o e s
  | .vrsum np o => actVrsum np o e s
  | .vrmax o => actVrmax o e s
  | .vrmin o => actVrmin o e s
  | .vscan np o => actVscan np o e s
  | .vrcp o => actVrcp o e s
  | .vsqrt o => actVsqrt o e s
  | .vrsqrt o => actVrsqrt o e s
  | .vexp o => actVexp o e s
  | .vexp2 o => actVexp2 o e s
  | .vlog2 o => actVlog2 o e s
  | .vtanh o => actVtanh o e s
  | .vsigm o => actVsigm o e s
  | .vcompress o => actVcompress o e s
  | .vexpand o => actVexpand o e s
  | .vhist o => actVhist o e s
  | .vdigit o => actVdigit o e s
  | .vordkey o => actVordkey o e s
  | .vtopk k o => actVtopk k o e s
  | .vcbdec cb o => actVcbdec cb o e s
  | .vcbenc cb o => actVcbenc cb o e s
  | .cbld cb o => actCbld cb o e s
  | .mand o => actMand o e s
  | .mor o => actMor o e s
  | .mxor o => actMxor o e s
  | .mandn o => actMandn o e s
  | .mnot o => actMnot o e s
  | .mset o => actMset o e s
  | .mclr o => actMclr o e s
  | .mcnt o => actMcnt o e s
  | .mfirst o => actMfirst o e s
  | .mtov o => actMtov o e s
  | .vtom o => actVtom o e s
  | .vextr o => actVextr o e s
  | .vins o => actVins o e s
  | .vsplat o => actVsplat o e s
  | .whenVector o => actWhenVector o e s
  | .mergeVector o => actMergeVector o e s
  | .unionVector p o => actUnionVector p o e s
  | .preVector o => actPreVector o e s
  | .fbyVector o => actFbyVector o e s
  | .currentVector o => actCurrentVector o e s
  | .tcfg h t ty rows rlen => actTcfg h t ty rows rlen e s
  | .mma o => actMma o e s
  | .mcfgLoop o => actMcfgLoop o e s
  | .mcfgStep o => actMcfgStep o e s
  | .mcfgGstep o => actMcfgGstep o e s
  | .mcfgBase o => actMcfgBase o e s
  | .mcfgPitch o => actMcfgPitch o e s
  | .mcfgOper o => actMcfgOper o e s
  | .mcfgAcc o => actMcfgAcc o e s
  | .mgo h d np => actMgo h d np e s
  | .accrd o => actAccrd o e s
  | .accwr o => actAccwr o e s
  | .accz o => actAccz o e s
  | .gset h d kind rows cols scale => actGset h d kind rows cols scale e s
  | .gkey o => actGkey o e s
  | .gkeyOff o => actGkeyOff o e s
  | .gkeyParam o => actGkeyParam o e s
  | .gctr o => actGctr o e s
  | .gadv o => actGadv o e s
  | .gdraw h d a rb ub => actGdraw h d a rb ub e s
  | .gdrawAdv h d a rb ub => actGdrawAdv h d a rb ub e s
  | .gscope h d scope => actGscope h d scope e s
  | .gsave h d a => actGsave h d a e s
  | .gload h d a ua => actGload h d a ua e s
  | .b _ | .br _ _ _ _ _ _ | .call _ | .ret | .jmpr _ _ | .callr _ _ | .loopRegister _ | .loopImmediate _ | .ibegin
  | .iend | .launch _ | .launchi _ | .succgo | .waitpred | .retire | .qpoint | .kdefEvery _ _ _ _ | .kdefOn _ _ _
  | .kdefOnnot _ _ _ | .kdefUnion _ _ _ | .whenScalar _ | .mergeScalar _ | .unionScalar _ _ | .preScalar _
  | .fbyScalar _ | .currentScalar _ | .add _ | .sub _ | .and _ | .or _ | .xor _ | .andn _ | .sll _ | .srl _ | .sra _
  | .rotl _ | .slt _ | .sltu _ | .seq _ | .min _ | .max _ | .minu _ | .maxu _ | .mul _ | .mulh _ | .mulhu _ | .div _
  | .divu _ | .rem _ | .remu _ | .addi _ | .andi _ | .ori _ | .xori _ | .slti _ | .sltiu _ | .slli _ | .srli _
  | .srai _ | .rotli _ | .movhi _ _ _ | .clz _ | .ctz _ | .popc _ | .sextb _ | .sexth _ | .sextw _ | .zextb _
  | .zexth _ | .zextw _ | .movlc _ _ _ | .shadd _ _ | .sel _ _ | .csrr _ _ _ | .csrw _ _ _ _ | .csrwIscope _ _ _
  | .csrwBndTags _ _ _ | .csrwTcfg _ _ _ _ | .csrwCtxStatus _ _ _ | .csrwPmc _ _ _ _ | .csrwTrapScr _ _ _ _ | .trap _ _
  | .bkpt _ _ | .tret | .trig _ | .barInit _ _ _ _ _ _ | .barArrive _ _ _ | .barWait _ _ _ _ | .dump _ _ _ | .ldh _
  | .sth _ | .probe _ _ _ _ _ _ _ | .amold _ | .amost _ | .amoswap _ | .amocas _ | .amoadd _ | .amoand _ | .amoor _
  | .amoxor _ | .amomin _ | .amomax _ | .fence _ _ | .syncls _ | .invalidWord _ | .delayRotation | .commit
  | .copyCompletion | .loadDelivery | .storePerform | .channelPush | .refillStart | .refillLanding | .creditReturn
  | .deadlockDetectorFire | .checksumMismatch | .nestIteration | .retirementTrackerFree | .launchiCountRead
  | .groupAdmission | .scratchImageLoaded | .launchAgeing | .preemptionTake | .preemptBoundExpiry | .contextResume
  | .preciseStop | .invalidationWatchdogExpiry | .replayWatchdogExpiry | .triggerLatch | .sampleRecord | .fabricAccess
  | .cmdLaunch | .cmdTable | .cmdTrigger | .cmdRecord | .cmdReplay | .cmdPreempt | .cmdResume | .cmdStop | .cmdDiscard
  | .cmdReset | .cmdClass | .cmdDump | .cmdConfig | .cmdLoess | .cmdAttest | .powerOn | .currentClamp | .thermalClamp
  | .thermalShutdown | .cellCycle | .timeBaseTick | .scalarAccessReturn | .softError | .slotTableWrite
  | .lockGroupFrequencyChange | .firmwarePreemptionRequest | .clampRelease | .powerLoss => actNone e s

/-- The tile or vector write of a load whose data has landed; a tile that a product is reading waits (R160, R161, R287). -/
def receive (e : Entry) (s : State) : Res :=
  match s.me.loads.find? (·.id == e.id) with
  | none => .error (.wait (.operand 1))
  | some l =>
    if !l.landed then .error (.wait (.operand 1))
    else
      let done (c : Ctx) : Ctx := deliverS { c with loads := c.loads.filter (·.id != e.id) } l
      match l.dest with
      | .s _ => .ok (s.setMe (done s.me))
      | .v r =>
        if s.me.v[r.toFin].pend then .error (.wait (.operand 1))
        else .ok (s.setMe (done (writeV s.me r l.val l.tag l.hand l.bad)))
      | .t t =>
        if tileInUse s t then .error (.wait (.operand 1))
        else
          let s := s.write l.cells l.badCells
          .ok (s.setMe (done (tagTile s.me t l.tag l.hand)))

/-- The S marker of a SYNCLS has reached the head of its queue, and every S entry before it has performed (R150). -/
def syncReady (s : State) (id : Nat) : Bool :=
  let x := s.me
  x.qS.all (fun e => decide (id ≤ e.id)) &&
  x.stores.all (id ≤ ·.id) &&
  s.copies.all fun k => k.ctx != s.cur || k.orphan || k.kind != .xout || id ≤ k.eid

/-- The markers of SYNCLS: the S marker issues at its head, the L marker after it (R150). (DEDUCED: log entry 65.) -/
def syncMarker (q : Queue) (e : Entry) (s : State) : Res :=
  if q != .l || syncReady s e.id then .ok s else .error (.wait (.sync 2))

/-- An entry that issues is read: a poisoned one raises UNCORRECTED (R350, R351). -/
def readEntry (e : Entry) (r : Res) : Res :=
  match r with
  | .ok s => if e.dataBad then .error entryBad else .ok s
  | .error x => .error x

/-- The issue of an entry of queue `q` of the executing context. The markers of IEND issue at DELAY_ROTATION and COMMIT. -/
def issueEntry (q : Queue) (e : Entry) (s : State) : Res :=
  match e.kind with
  | .instr => issueWith q (issueAct e.i) e s
  | .receive => readEntry e (receive e s)
  | .storeData | .source => passData s e
  | .sync => readEntry e (syncMarker q e s)
  | .cMark | .sMark => .error (.wait (.sync 2))

/-- What the head of a queue does. -/
inductive HeadTry where
  | empty
  | issued (s : State)
  | waits (w : WaitClass)
  | raises (s : State)
  deriving DecidableEq, Repr

/-- Runs an operation for another context. -/
def asCtx (s : State) (c : CtxId) (f : State → State) : State := { f { s with cur := c } with cur := s.cur }

/-- The marker of an IEND that has left its queue is poisoned (R351). -/
def markFails (s : State) (c : CtxId) (e : Entry) : State :=
  asCtx s c fun s => raised s c e.pc (wordOf e.i) entryBad (some e.iter)

/-- Tries the head of a queue of the executing context. A fault or an EMULATION trap takes the entry out of its queue (R230). -/
def headTry (q : Queue) (s : State) : HeadTry :=
  match s.me.queue q with
  | [] => .empty
  | e :: rest =>
    let s' := s.setMe (s.me.setQueue q rest)
    match issueEntry q e s' with
    | .ok t => .issued t
    | .error (.wait w) => .waits w
    | .error r => .raises (raised (unAdvance s' e) s.cur e.pc (wordOf e.i) r (some e.iter))

/-! ### Words that are no instruction -/

/-- The fault of a word (R229, R231). -/
def wordFault (s : State) (w : Word) : Raise :=
  match decode w with
  | .error .reservedField => .fatal .reservedField {}
  | .error .emulation => .trap .emulation {}
  | .error (.extension n) => if s.dev.extl.getLsbD n.toNat then .trap .emulation {} else .fatal .illegalOpcode {}
  | _ => .fatal .illegalOpcode {}

/-- The queue of a word (R158). -/
def queueOfWord (w : Word) : Option Queue :=
  match (fld w 51 2 : BitVec 2).toNat with
  | 0 => none
  | 1 => some .l
  | 2 => some .c
  | _ => some .s

/-- EMULATION carries whether the word's clock is present (R335); the other faults are raised whatever the clock. -/
def withPresence (r : Raise) (p : Bool) : Raise :=
  match r with
  | .trap .emulation _ => .trap .emulation { sub := if p then 1 else 0 }
  | r => r

/-- Presence of the clock of a word that is no instruction: one whose evaluation would fault counts as absent, and one that waits waits (R177, R230). -/
def wordPresence (c : Ctx) (k : Tag) : Except Raise (Bool × Ctx) :=
  match presence c k with
  | .error (.wait w) => .error (.wait w)
  | .error _ => .ok (false, c)
  | .ok x => .ok x

/-- INVALID_WORD (R230): it raises its fault at routing, or at the head of its queue; nothing later routes. The PC stays at a word that
stands in a queue. A condition that cannot be evaluated takes nothing from the word's own fault. (DEDUCED: log entry 17.) -/
def execInvalidWord (w : Word) (s : State) : Host.Outcome State Fault Refusal :=
  let i : Instr := .invalidWord w
  let r := wordFault s w
  match queueOfWord w with
  | none => finish s i (.error r)
  | some q =>
    match if r == .trap .emulation {} then wordPresence s.me (fld w 53 7) else .ok (true, s.me) with
    | .error e => finish s i (.error e)
    | .ok (p, c) =>
      let s := s.setMe c
      if c.queue q = [] then finish s i (.error (withPresence r p))
      else if 32 ≤ (c.queue q).length then finish s i (.error (.wait (.full q.num)))
      else
        let e : Entry := { i := i, pc := c.pc, id := c.nextId, err := some (withPresence r p), stop := true }
        finish s i (.ok (enqueue (s.setMe { c with nextId := c.nextId + 1 }) q e))

/-! ### LOAD_DELIVERY and STORE_PERFORM -/

/-- The oldest load of a context lands: a scalar is written; a receive entry at the head of the C queue takes the data in the same cycle
(R161, R163). -/
def landLoad (s : State) (c : CtxId) : State :=
  let x := s.cx c
  match x.loads.find? (!·.landed) with
  | none => s
  | some l => match l.dest with
    | .s _ => s.setCx c (deliverS { x with loads := x.loads.filter (·.id != l.id) } l)
    | _ =>
      let s := s.setCx c { x with loads := x.loads.map fun k => if k.id = l.id then { k with landed := true } else k }
      match x.qC with
      | e :: _ =>
        if e.kind == .receive && e.id == l.id then
          asCtx s c fun s => match headTry .c s with
            | .issued t => countIssue t .c
            | _ => s
        else s
      | [] => s

/-- LOAD_DELIVERY (R38): the event's `ctx`. -/
def execLoadDelivery (s : State) : Host.Outcome State Fault Refusal := .next (landLoad s s.ev.ctx)

/-- STORE_PERFORM (R143): the oldest store of the event's `ctx`. -/
def execStorePerform (s : State) : Host.Outcome State Fault Refusal :=
  let c := s.ev.ctx
  let x := s.cx c
  match x.stores with
  | st :: rest =>
    let s := perform s st.cells
    .next (s.setCx c (pushFor { x with stores := rest } st.id st.push))
  | [] => .next s

/-! ### DELAY_ROTATION -/

/-- Rotates one delay register (R183). -/
def DReg.rotate (d : DReg) : DReg :=
  if d.valid then { d with held := d.next, heldTag := d.nextTag, f := d.nextF, valid := false } else d

/-- The C marker at the head of a context's C queue issues: the delay registers rotate, and the generators' counters are recorded for
the S marker of the same IEND (R183, R310). -/
def rotateDelays (x : Ctx) : Option Ctx :=
  match x.qC with
  | e :: rest =>
    if e.kind == .cMark then
      let ctrs := x.g.toList.map (·.ctr)
      let mark (m : Entry) : Entry := if m.kind == .sMark && m.id == e.id then { m with ctrs := ctrs } else m
      let kept := x.badRegs.filter fun r => r.1 != .d || !(x.d.toList.getD r.2 {}).valid
      some { x with qC := rest, d := x.d.map DReg.rotate, badRegs := kept, qS := x.qS.map mark }
    else none
  | [] => none

/-- DELAY_ROTATION (R183): the event's `ctx`. -/
def execDelayRotation (s : State) : Host.Outcome State Fault Refusal :=
  let c := s.ev.ctx
  match rotateDelays (s.cx c), (s.cx c).qC with
  | some x, e :: _ =>
    .next (if e.dataBad then markFails (s.setCx c { s.cx c with qC := x.qC }) c e else asCtx (s.setCx c x) c (countIssue · .c))
  | _, _ => .next s

/-! ### COMMIT -/

/-- The elements that CHWR.I wrote in an instant, still pending on a channel, in write order (R372). -/
def instantElems (s : State) (i : ChanId) (m : Word) : List Elem :=
  let ch := s.chan i
  let l := ch.marked
  let first := ch.held - l.length
  (ch.away.filter fun x => x.pend == some m && x.own && !x.close) ++
    (((List.range l.length).zip l).filter fun x => x.2.pend == some m && x.2.own).map fun x => heldElem s i (first + x.1)

/-- A 128-bit value from its four words, the first lowest (R304). -/
def words4 (a b c d : BitVec 32) : BitVec 128 := d ++ c ++ b ++ a

/-- The 16-byte units of some bytes, the last padded with zeros. -/
def unitsOf16 (bs : List Byte) : List (BitVec 128) :=
  (List.range ((bs.length + 15) / 16)).map fun i => BitVec.ofNat 128 (leNat ((bs.drop (16 * i)).take 16))

/-- The mask bits of the sixteen bytes from byte `o` of a span: the bytes that a store wrote. -/
def maskBits (p : Span) (o : Nat) : BitVec 32 :=
  BitVec.ofNat 32 (((List.range 16).map fun j => if (fld p.msk (8 * (o + j)) 8 : Byte) = 0 then 0 else 2 ^ j).sum)

/-- Spans in rising address order. -/
def insertSpan (p : Span) : List Span → List Span
  | [] => [p]
  | q :: l => if p.addr < q.addr then p :: q :: l else q :: insertSpan p l

/-- The entries of the commit buffer of one instant, from the spans of its stores in their order (R174): a later store of a byte over an earlier. -/
def mergeSpans (l : List Span) : List Span :=
  l.foldl (fun acc p =>
    if acc.any (·.addr == p.addr) then
      acc.map fun q => if q.addr = p.addr then { q with msk := q.msk ||| p.msk, data := (q.data &&& ~~~p.msk) ||| (p.data &&& p.msk), id := p.id } else q
    else acc ++ [p]) []

/-- The digest of a commit (R372). (DEDUCED: log entry 93.) -/
def commitDigest (m : Word) (spans : List Span) (ports : List (Nat × Nat × List Elem)) : BitVec 128 :=
  let h := words4 (fld m 0 32) (fld m 32 32) 0 0
  let h := (spans.foldl (fun l p => insertSpan p l) []).foldl (fun h p =>
    (List.range 32).foldl (fun h u =>
      let k := maskBits p (16 * u)
      if k = 0 then h
      else mix (mix h (words4 (BitVec.ofNat 32 (p.addr + 16 * u)) 0 0 k)) (fld (p.data &&& p.msk) (128 * u) 128)) h) h
  ports.foldl (fun h (port, e, l) => l.foldl (fun h x =>
    (unitsOf16 (Elem.bytes x e)).foldl mix
      (mix h (words4 (fld x.tag 0 32) (fld x.tag 32 32) (BitVec.ofNat 32 port) (BitVec.ofNat 32 e)))) h) h

/-- The bytes of a span by flat key, with the bits of each. -/
def spanCells (cell : Nat) (p : Span) : List (Nat × Byte × Byte) :=
  (List.range 512).filterMap fun i =>
    let m : Byte := fld p.msk (8 * i) 8
    if m = 0 then none else some ((scratchAddr cell (p.addr + i)).getD 0, fld p.data (8 * i) 8, m)

/-- Compares a commit's digest with the logged one (R373): the first COMMIT record of the context's log is consumed, and a mismatch
stops the partition at the next instant boundary of every context. -/
def replayCommit (s : State) (c : CtxId) (m : Word) (digest : BitVec 128) : State :=
  let x := s.cx c
  match x.replay with
  | none => s
  | some l => match l.find? fun a => s.rawNat a 1 % 16 == 2 with
    | none => s
    | some a =>
      let s := s.setCx c { x with replay := some (l.filter (· != a)) }
      if s.rawNat (a + 32) 16 = digest.toNat then s
      else
        let p := s.part x.pid
        let s := if p.diverged.isNone then s.setPart x.pid { p with diverged := some (c.cell, c.slot, m) } else s
        { s with ctxs := s.ctxs.map fun (i, y) => (i, if y.pid = x.pid then { y with stopReq := true } else y),
                 saved := s.saved.map fun (i, v) => (i, if v.ctx.pid = x.pid then { v with ctx := { v.ctx with stopReq := true } } else v) }

/-- The write ports of a context with their numbers and channels. -/
def writePorts (x : Ctx) : List (Nat × Nat) :=
  ((List.range 32).zip x.port.toList).filterMap fun (n, p) => if p.write then p.chan.map (n, ·) else none

/-- The commit of instant `m` (R139, R175): the buffered bytes and the pending elements become visible together. -/
def commitOp (s : State) (c : CtxId) (e : Entry) : State :=
  let x := s.cx c
  let m := e.inst
  let mine := mergeSpans (x.commits.filter (·.inst == m))
  let ports := (writePorts x).map fun (n, k) =>
    let i : ChanId := ⟨x.pid, k⟩
    (n, (s.chan i).e, instantElems s i m)
  let digest := commitDigest m mine ports
  let elems := ((writePorts x).map fun p =>
    let ch := s.chan ⟨x.pid, p.2⟩
    ((ch.marked.map (·.pend)) ++ (ch.away.filter (!·.close)).map (·.pend)).countP (· == some m)).sum
  let s := perform s (mine.flatMap (spanCells c.cell))
  let s := (writePorts x).foldl (fun s p => commitChan s ⟨x.pid, p.2⟩ m) s
  let left (p : Port) : Port := match p.chan with
    | some k => if p.write then { p with pending := (s.chan ⟨x.pid, k⟩).pendingAll } else p
    | none => p
  let g := Vector.ofFn fun (i : Fin 16) => { x.g[i] with cctr := e.ctrs.getD i.val x.g[i].cctr }
  let s := s.setCx c { x with
    commits := x.commits.filter (·.inst != m), instants := x.instants.filter (· != m), port := x.port.map left, g := g }
  let s := countCell s c.cell c.slot 3
  let pay : BitVec 256 := 0#64 ++ BitVec.ofNat 32 elems ++ BitVec.ofNat 32 mine.length ++ digest
  let s := logRecord (trace s c 2 e.iter 0 e.pc pay) c 2 e.iter 0 e.pc pay
  replayCommit s c m digest

/-- The instant has something that its commit releases: buffered bytes, pending elements or close markers. -/
def hasWrites (s : State) (x : Ctx) (m : Word) : Bool :=
  x.commits.any (·.inst == m) || (writePorts x).any fun p =>
    let ch := s.chan ⟨x.pid, p.2⟩
    ch.marks.any (·.pend == some m) || (ch.transit ++ ch.away).any (·.pend == some m)

/-- The S marker may issue: the C marker of its IEND has issued, no pending element of its instant is in transit (R175), and, where the instant has
writes, every earlier access has performed: the commit is their release (R111, R118, R129, R139). -/
def commitReady (s : State) (c : CtxId) (e : Entry) : Bool :=
  let x := s.cx c
  x.qC.all (fun m => m.kind != .cMark || m.id != e.id) &&
    (writePorts x).all (fun p => (s.chan ⟨x.pid, p.2⟩).transit.all (·.pend != some e.inst)) &&
    (!hasWrites s x e.inst || earlierDone s c e.id)

/-- COMMIT (R175): the S marker at the head of the S queue of the event's `ctx` issues; the IEND of a filling iteration commits
nothing (R180). -/
def execCommit (s : State) : Host.Outcome State Fault Refusal :=
  let c := s.ev.ctx
  let x := s.cx c
  match x.qS with
  | e :: rest =>
    if e.kind == .sMark && commitReady s c e then
      let s := s.setCx c { x with qS := rest }
      if e.dataBad then .next (markFails s c e)
      else
        let s := asCtx s c (countIssue · .s)
        .next (if e.opened then commitOp s c e else s)
    else .next s
  | [] => .next s

end Sys2Proof.Machine
end

