-- ==== Sys2Proof/Machine/Checksum.lean ====
section
/-! DEFINITION. The checksum lane of the matrix unit: the sums that it computes beside a product and their comparison with what the array delivered
(R300), and the re-execution of a product that mismatches (R301). -/

namespace Sys2Proof.Machine

/-! ### The sums of R300 -/

/-- A pattern of a profile's format as FP32, which holds every value of it. -/
def widen (t : ElemType) (w : Nat) : Nat := (flOf t w).encode fp32

/-- A sum in FP32, one rounding for each addition, in the order of the list. -/
def laneAdd (l : List Nat) : Nat := l.foldl (addBits fp32) 0

/-- Σ x × (Σ of the matching row of `m`), in FP32 with one rounding for each operation. -/
def laneSum (x : List Nat) (m : List (List Nat)) : Nat :=
  (x.zip m).foldl (fun s (a, r) => addBits fp32 s (mulBits fp32 a (laneAdd r))) 0

/-- 2⁻¹⁰ × Σ |x| × Σ |m|, exactly. -/
def laneBound (x : List Nat) (m : List (List Nat)) : Fl :=
  let zero : Fl := .fin false 0 0
  let mag (w : Nat) : Fl := (Fl.decode fp32 w).abs
  let total := (x.zip m).foldl (fun s (a, r) => s.add ((mag a).mul (r.foldl (fun s w => s.add (mag w)) zero))) zero
  total.mul (.fin false 1 (-10))

/-- A delivered FP32 sum agrees with the lane's. -/
def floatAgrees (x : List Nat) (m : List (List Nat)) (sum : Nat) : Bool :=
  let lane := laneSum x m
  let d := ((Fl.decode fp32 sum).add (Fl.decode fp32 lane).neg).abs
  sum == lane || (match d with
    | .fin _ _ _ => d.cmp (laneBound x m) != .gt
    | _ => false)

/-- A delivered sum of NP3 or NP4 agrees with the exact one modulo 2³². -/
def intAgrees (t : ElemType) (x : List Nat) (m : List (List Nat)) (sum : Nat) : Bool :=
  wrapInt .int32 (((x.zip m).map fun (a, r) => intOf t a * (r.map (intOf t)).sum).sum) == sum

/-- A pattern is finite. -/
def isFinite (t : ElemType) (w : Nat) : Bool := match flOf t w with
  | .fin _ _ _ => true
  | _ => false

/-- Row `ix` of a product, or column `ix`, as the lane takes it: the vector, and the matrix whose rows are summed. -/
def laneOperands (ws : List RowWork) (col : Bool) (ix : Nat) : List Nat × List (List Nat) :=
  match ws with
  | [] => ([], [])
  | w :: _ =>
    let k := w.ra.length
    if col then (w.cb.getD ix [], (List.range k).map fun j => ws.map (·.ra.getD j 0))
    else ((ws.map (·.ra)).getD ix [], (List.range k).map fun j => w.cb.map (·.getD j 0))

/-- THE COMPARISON FAILS (R300): the array delivered `sum` for row or column `ix` of a product; a row or column with a non-finite operand is not
checked. -/
def laneFails (ws : List RowWork) (col : Bool) (ix : Nat) (sum : Nat) : Bool :=
  match ws with
  | [] => false
  | w :: _ =>
    let t := profileType w.np
    let (x, m) := laneOperands ws col ix
    if (if col then w.cb.length else ws.length) ≤ ix then false
    else if w.np = 3 ∨ w.np = 4 then !intAgrees t x m sum
    else if (x ++ m.flatten).all (isFinite t) then !floatAgrees (x.map (widen t)) (m.map (·.map (widen t))) sum
    else false

/-! ### Re-execution (R301) -/

/-- The work of a product. -/
def EngCmd.workOf (k : EngCmd) (r : Product) : List RowWork := k.work.filter (·.run == r.no)

/-- A command whose product `r` is executed again: its row work and that of every later iteration move 4 + T cycles; `bad` says that the
second execution mismatches too, so that its region is poisoned. (DEDUCED: log entry 74.) -/
def EngCmd.redo (k : EngCmd) (r : Product) (bad : Bool) : EngCmd :=
  let d := 4 + k.t
  let move (w : RowWork) : RowWork :=
    if r.no ≤ w.run then { w with rd := w.rd.map (· + d), wr := w.wr.map (· + d), bad := w.bad || (bad && w.run == r.no) } else w
  { k with
    compute := k.compute + d, doneAt := k.doneAt + d, held := true, work := k.work.map move,
    runs := (k.runs.filter (·.no != r.no)).map fun x => if r.no < x.no then { x with chk := x.chk + d } else x }

/-- CHECKSUM_MISMATCH (R300, R301): a soft error strikes the product of the command `m` of the event's `ctx` whose comparison falls in this cycle:
the array delivers `sum` for row `n`, or with bit 0 of `grp` for column `n`. Where the comparison fails the product is executed again; `flag`
says that the re-execution mismatches too. -/
def execChecksumMismatch (s : State) : Host.Outcome State Fault Refusal :=
  let c := s.ev.ctx
  let q := s.cell c.cell
  match q.engine.find? fun k => k.slot == c.slot && k.id == s.ev.m with
  | none => .next s
  | some k => match k.runs.find? (·.chk == q.cyc.toNat) with
    | none => .next s
    | some r =>
      if !laneFails (k.workOf r) (s.ev.grp.getLsbD 0) s.ev.n s.ev.sum.toNat then .next s
      else
        let d := 4 + k.t
        let later (n : NestRun) : NestRun := if k.isNest then { n with load := n.load + d, ready := n.ready + d } else n
        let s := s.setCell c.cell { q with
          engine := q.engine.map (fun x => if x = k then k.redo r s.ev.flag else x), nest := q.nest.map later }
        .next (annot (countCell (corrected s c true 2) c.cell c.slot 5 0 0 true) c 3 k.pc 0 k.iter)

end Sys2Proof.Machine
end

