-- ==== Sys2Proof/Machine/Cycle.lean ====
section
/-! DEFINITION. Time: the iterations of a matrix nest (R295 to R298), the row reads and writes of the matrix unit (R291 to R293), a cycle of a cell
(R41, R162, R356), the trigger latch (R358) and samples (R361). -/

namespace Sys2Proof.Machine

/-! ### The matrix nest -/

/-- Loads the rows of a tile operand for iteration `k` from the local window (R295); a poisoned word raises UNCORRECTED (R350). The tile that is written is
live (R215). -/
def loadTile (s : State) (c : CtxId) (n : NestCfg) (o : MOp) (base pitch : BitVec 32) (step : NestLevel → Int)
    (k : Nat) : Res :=
  let cell := c.cell
  let x := s.cx c
  if o.gen.isSome then .ok s
  else
    let w := tileCfg x o.t
    let org := ((base.toNat : Int) + nestSum step n.lvl.toList k).toNat
    let len := tcfgLen w
    let src (r : Nat) : Nat := org + r * pitch.toNat
    let bad := (List.range (tcfgRows w)).flatMap fun r =>
      (List.range len).filterMap fun i => if s.bad (scratchKey cell (src r + i)) then some (src r + i) else none
    match bad with
    | a :: _ => .error (scratchBad a)
    | [] => .ok ((s.write ((List.range (tcfgRows w)).flatMap fun r =>
        State.at' (tileKey cell (16384 * o.t.toNat + 256 * r)) (s.raw (scratchKey cell (src r)) len))).setCx c
          { x with t := x.t.set o.t.toFin { x.t[o.t.toFin] with dead := false } o.t.toFin.isLt })

/-- A generator operand of iteration `k`: its offsets move by the steps, mod 2³² (R295). -/
def nestGen (n : NestCfg) (o : MOp) (k : Nat) : MOp :=
  { o with gen := o.gen.map fun g => { g with
      roff := g.roff + BitVec.ofInt 32 (nestSum (·.sgr.toInt) n.lvl.toList k),
      coff := g.coff + BitVec.ofInt 32 (nestSum (·.sgc.toInt) n.lvl.toList k) } }

/-- What iteration `next` of a nest, computing from cycle `at0` on, loads into its tiles and does to its rows of accumulator memory. -/
def nestProduct (s : State) (c : CtxId) (run : NestRun) (at0 : Nat) : Except Raise (State × EngCmd) :=
  let x := s.cx c
  let n := run.cfg
  let a := descOp run.gen n.aoper
  let b := descOp run.gen n.boper
  match loadTile s c n a n.abase n.apitch (·.sa.toInt) run.next with
  | .error r => .error r
  | .ok s => match loadTile s c n b n.bbase n.bpitch (·.sb.toInt) run.next with
    | .error r => .error r
    | .ok s =>
      let org := ((run.acc : Int) + n.cbase.toNat + nestSum (·.sc.toInt) n.lvl.toList run.next).toNat
      let (m, k) := a.dims x
      let w := (b.dims x).2
      let t := computeCycles run.np m k w
      (product s c.cell x run.ent run.np run.steps (nestGen n a run.next) (nestGen n b run.next) org (at0 + t) run.next).map
        fun work => (s, { t := t, compute := at0 + t, doneAt := at0 + t + 7 + m, work := work,
                          runs := [{ no := run.next, chk := at0 + t + 4, base := org, m := m, n := w }] })

/-- The stop of a dying context goes on once the last command that it has issued has ended (R336). -/
def stopGoesOn (s : State) (c : CtxId) : State :=
  match (s.cx c).stopped with
  | some r => if s.resident c && !engineBusy s c then finishStop s c r else s
  | none => s

/-- A command of the matrix unit fails (R350): its work ends, and its context stops; the stop of a dying context goes on (R336). (DEDUCED: log entry 73.) -/
def engineFail (s : State) (cell : Nat) (k : EngCmd) (r : Raise) : State :=
  let c : CtxId := ⟨cell, k.slot⟩
  let q := s.cell cell
  let s := s.setCell cell { q with
    engine := q.engine.filter fun x => x.slot != k.slot || x.id != k.id, nest := if k.isNest then none else q.nest }
  if !s.resident c then s
  else if (s.cx c).stopped.isSome then stopGoesOn s c
  else raised s c k.pc (wordOf k.i) r (some k.iter)

/-- An iteration of the nest of a cell, in the first granted cycle in which it may compute (R297); none begins once its context's save waits (R298). -/
def nestStep (s : State) (cell : Nat) : State :=
  let q := s.cell cell
  match q.nest, q.engine.find? (·.isNest) with
  | some run, some cmd =>
    let c : CtxId := ⟨cell, run.slot⟩
    let now := q.cyc.toNat
    if run.total ≤ run.next || now < run.ready || (s.cx c).saveNow || !granted s cell run.slot now || q.engine.any fun k => decide (now < k.compute) then s
    else match nestProduct s c run now with
      | .error r => engineFail s cell cmd r
      | .ok (s, p) =>
        let load := max (run.load + nestLoad run.cfg (s.cx c) run.next) now
        let ready := max (load + nestLoad run.cfg (s.cx c) (run.next + 1) + 6) p.compute
        let upd (e : EngCmd) : EngCmd :=
          if e.isNest then
            { e with t := p.t, compute := p.compute, doneAt := if run.total ≤ run.next + 1 then p.doneAt else e.doneAt,
                     work := e.work ++ p.work, runs := e.runs ++ p.runs }
          else e
        let q := s.cell cell
        s.setCell cell { q with nest := some { run with next := run.next + 1, load := load, ready := ready }, engine := q.engine.map upd }
  | _, _ => s

/-- NEST_ITERATION (R296, R297): the event's `n` is the cell. -/
def execNestIteration (s : State) : Host.Outcome State Fault Refusal := .next (nestStep s s.ev.n)

/-- A nest that a resumption has to reissue does so in the first aligned cycle in which an MGO could issue (R297, R298), unless its context is to be saved
again. -/
def reissueNest (s : State) : State :=
  let q := s.cell s.cur.cell
  let now := q.cyc.toNat
  match s.me.reissue with
  | none => s
  | some (run, cmd) =>
    if !arrayFree s || now % 4 != 0 || beatsHeld s || s.me.saveNow then s
    else
      let run := { run with slot := s.cur.slot, load := now, ready := now + nestLoad run.cfg s.me run.next + 6 }
      let cmd := { cmd with slot := s.cur.slot, compute := now }
      (s.setCell s.cur.cell { q with nest := some run, engine := q.engine ++ [cmd] }).setMe { s.me with reissue := none }

/-! ### The rows of the matrix unit -/

/-- The row reads of a cycle (R291, R292): a poisoned word raises UNCORRECTED in the context of its command. -/
def engineReads (s : State) (cell now : Nat) : State :=
  let q := s.cell cell
  let bad := q.engine.filter fun k => k.work.any fun w => w.rd == some now && w.poisoned s cell
  let read (k : EngCmd) : EngCmd := { k with work := k.work.map fun w => if w.rd == some now then w.read s cell else w }
  bad.foldl (fun s k => engineFail s cell k (.fatal .uncorrected { sub := 2 })) (s.setCell cell { q with engine := q.engine.map read })

/-- The row writes of a cycle (R293): the banks that they reach are busy (R42). -/
def engineWrites (s : State) (cell now : Nat) : State :=
  let q := s.cell cell
  let due := (q.engine.flatMap (·.work)).filter (·.wr == some now)
  let left (k : EngCmd) : EngCmd :=
    { k with work := k.work.filter (·.wr != some now), runs := k.runs.filter fun r => decide (now ≤ r.chk) }
  due.foldl (fun s w => w.write s cell) (s.setCell cell { q with
    engine := q.engine.map left, rowsNow := due.map fun w => (w.a, w.n) })

/-- Completes a command: its destination and its tokens (R163, R292), a nest's tiles (R295). -/
def completeCmd (s : State) (cell : Nat) (run : Option NestRun) (k : EngCmd) : State :=
  let c : CtxId := ⟨cell, k.slot⟩
  if !s.resident c then s
  else if k.isNest then
    match run with
    | some r => s.setCx c (nestDone (s.cx c) r k.push)
    | none => s
  else s.setCx c (engineDone (s.cx c) k)

/-- Completes the commands of the matrix unit that are due in a cycle (R163, R291, R297), and with the last of them the stop of a context that waited for
them (R336). -/
def completeEngine (s : State) (cell now : Nat) : State :=
  let q := s.cell cell
  let due := q.engine.filter fun k => k.doneAt ≤ now
  let s := s.setCell cell { q with
    engine := q.engine.filter (fun k => !decide (k.doneAt ≤ now)), nest := if due.any (·.isNest) then none else q.nest,
    addHold := if due.any (·.held) then now else q.addHold }
  let s := due.foldl (fun s k => completeCmd s cell q.nest k) s
  stopGoesOn (stopGoesOn s ⟨cell, 0⟩) ⟨cell, 1⟩

/-- What the matrix unit does in a cycle. -/
def engineStep (s : State) (cell now : Nat) : State :=
  nestStep (completeEngine (engineWrites (engineReads s cell now) cell now) cell now) cell

/-! ### A cycle of a cell -/

/-- Class and index of a wait (R356). -/
def WaitClass.code : WaitClass → Nat × Nat
  | .token i => (1, i) | .channel p => (2, p) | .score => (3, 0) | .engine i => (4, i) | .sync i => (6, i)
  | .neighbour i => (7, i) | .operand i => (8, i) | .full i => (9, i)

/-- Issues up to `n` entries of a queue of the executing context (R162) and tells what its head then does: none where an entry issued
in this cycle. -/
def runQueue : Nat → Queue → State → Bool → State × Option HeadTry
  | 0, _, s, _ => (s, none)
  | n + 1, q, s, did =>
    match headTry q s with
    | .issued t =>
      runQueue n q (countIssue t q) true
    | .raises t => (t, none)
    | h => (s, if did then none else some h)

/-- Class and index of a head (R356). -/
def tryCode (acted : Bool) (h : Option HeadTry) : Nat × Nat :=
  if acted then (0, 0)
  else match h with
    | some .empty => (5, 0)
    | some (.waits w) => WaitClass.code w
    | _ => (0, 0)

/-- Class of the sequencer's head (R356): a cycle in a resident routine counts as one of issue (R335); a scratch image that is still being copied keeps the
copy engine busy (R322); a head that waits for nothing stands while the sequencer routes for the other context, or for its fetch. -/
def seqCode (s : State) (c : CtxId) : Nat × Nat :=
  let x := s.cx c
  if x.acted.getLsbD 0 || x.trap.emu then (0, 0)
  else if x.phase == .image then (4, 0)
  else match x.waiting with
    | some w => WaitClass.code w
    | none => (4, if (s.cx ⟨c.cell, 1 - c.slot⟩).routed = 0 then 5 else 7)

/-- A wait on a channel whose other endpoint lies on this device, on BAR.WAIT or on WAITPRED (R120). (DEDUCED: log entry 62.) -/
def hardWait (s : State) (x : Ctx) (h : Nat × Nat) : Bool :=
  (h.1 == 6 && h.2 < 2) ||
    (h.1 == 2 && match (x.port.toList.getD h.2 {}).chan with
      | some n =>
        let ch := s.chan ⟨x.pid, n⟩
        !(if (x.port.toList.getD h.2 {}).write then foreign s ch.reader else foreign s ch.writer)
      | none => false)

/-- A context is blocked in the cycle (R120): a receive entry that waits for the channel read at the head of the L queue waits with it. -/
def isBlocked (s : State) (x : Ctx) (q l c st : Nat × Nat) : Bool :=
  let c := match x.qC, x.qL with
    | e :: _, f :: _ => if e.kind == .receive && e.id == f.id then l else c
    | _, _ => c
  let hard (h : Nat × Nat) : Bool := hardWait s x h
  let soft (h : Nat × Nat) : Bool := h.1 == 5 || h.1 == 1 || hard h
  q.1 != 0 && soft l && soft c && soft st && (hard q || hard l || hard c || hard st)

/-- Sets the flag of a channel at which a head waits (R98). -/
def markBlocked (s : State) (x : Ctx) (h : Nat × Nat) : State :=
  if h.1 = 2 then
    let p := x.port.toList.getD h.2 {}
    match p.chan with
    | some n =>
      let i : ChanId := ⟨x.pid, n⟩
      s.setChan i (if p.write then { s.chan i with wblk := true } else { s.chan i with rblk := true })
    | none => s
  else s

/-- Four classes as a SAMPLE record holds them (R364). -/
def classWord (l : List (Nat × Nat)) : Word :=
  l.foldr (fun h w => (w <<< 16) ||| BitVec.ofNat 64 (h.1 + 16 * h.2)) 0

/-- The SAMPLE record of a context in a cycle that its cell's TRC.CTL samples, once in the cycle (R361, R364). -/
def sampleHeads (s : State) (c : CtxId) (heads : List (Nat × Nat)) : State :=
  let q := s.cell c.cell
  let per := 2 ^ (8 + (fld q.trcCtl 8 4 : BitVec 4).toNat)
  if q.cyc.toNat % per == 0 && !q.sampled.contains c.slot then
    trace (s.setCell c.cell { q with sampled := q.sampled ++ [c.slot] }) c 1 (nextIteration s c) 0 (s.cx c).pc (0#128 ++ (s.cx c).slip ++ classWord heads)
  else s

/-- The part of a context in a cycle of its cell: its queues issue, its heads are classed and counted, CTX.SLIP counts (R166), and its
blocked count moves (R120). -/
def slotCycle (s : State) (c : CtxId) : State :=
  if !s.resident c then s
  else asCtx s c fun s =>
    let s := reissueNest (s.setMe { s.me with qS := s.me.qS.map nameRange })
    let (s, l) := runQueue 2 .l s false
    if !s.resident c then s
    else
      let (s, k) := runQueue 2 .c s false
      if !s.resident c then s
      else
        let (s, t) := runQueue 2 .s s false
        if !s.resident c then s
        else
          let x := s.me
          let hq := seqCode s c
          let hl := tryCode (x.acted.getLsbD 1) l
          let hc := tryCode (x.acted.getLsbD 2) k
          let hs := tryCode (x.acted.getLsbD 3) t
          let s := [(0, hq), (1, hl), (2, hc), (3, hs)].foldl (fun s (q, h) =>
            markBlocked (countCell s c.cell c.slot (0x10 + h.1) q h.2) x h) s
          let slips := hc.1 == 7 && 4 ≤ hc.2
          let s := if slips then countCell s c.cell c.slot 0x0A else s
          let s := s.setMe { s.me with slip := if slips then satInc x.slip else x.slip }
          let s := sampleHeads s c [hq, hl, hc, hs]
          s.setMe { s.me with
            acted := 0, waiting := none,
            blocked := if isBlocked s x hq hl hc hs then x.blocked + 1 else 0 }

/-- A cycle begins for the channels that are read on a cell: pops come first (R105). -/
def openUnits (s : State) (cell : Nat) : State :=
  let here (r : Option Endpoint) : Bool := match r with
    | some r => r.resident && r.cell == cell && r.dev == s.dev.devNum
    | none => false
  { s with chans := s.chans.map fun (i, ch) => (i, if here ch.reader then { ch with step := 0 } else ch) }

/-- The next cycle of a cell begins: the tokens of the last one are seen (R163), records leave the trace queue at a rate that is a free value (R365), and
the counters that a CSRW wrote count again (R354), and what they hold at its end is what a latch takes (R358). -/
def nextCycle (s : State) (cell turn : Nat) : State :=
  let see (s : State) (k : Nat) : State := if s.resident ⟨cell, k⟩ then s.setCx ⟨cell, k⟩ { seeTokens (s.cx ⟨cell, k⟩) with routed := 0 } else s
  let s := see (see s 0) 1
  let q := s.cell cell
  s.setCell cell { q with
    cyc := q.cyc + 1, turn := turn, pmcEnd := q.pmc, wrote := [], sampled := [], traceN := min q.traceN (Config.freeTrace (s.free cell)) }

/-- A cycle of a cell (R41, R162): both contexts' queues issue, the one whose turn it is first, the counters count, and what is due
in the new cycle happens. (DESIGN CHOICE: log entry 9.) -/
def cycleOp (s : State) (cell : Nat) : State :=
  let turn := (s.cell cell).turn
  let s := openUnits s cell
  let s := slotCycle (slotCycle s ⟨cell, turn⟩) ⟨cell, 1 - turn⟩
  let s := nextCycle (countCell s cell 0 0 0 0 true) cell (1 - turn)
  engineStep s cell (s.cell cell).cyc.toNat

/-- CELL_CYCLE (R41): the event's `n` is the cell. -/
def execCellCycle (s : State) : Host.Outcome State Fault Refusal := .next (cycleOp s s.ev.n)

/-! ### The time base, the trigger and samples -/

/-- CTX.SLIP of a slot, 0 for an empty one. -/
def slipOf (s : State) (c : CtxId) : Word := if s.resident c then (s.cx c).slip else 0

/-- The latch at time T (R358): every counter into its shadow, and a TRIGGER record from every die. TRG.NUM counts on from the latches since device reset,
also after a partition reset. (DESIGN CHOICE: log entry 124.) -/
def latch (s : State) : State :=
  let t := s.dev.trgT
  let num := s.dev.trgNum + 1
  let cells := s.cells.map fun (n, q) =>
    (n, { q with pmh := q.pmcEnd, slipH := #v[slipOf s ⟨n, 0⟩, slipOf s ⟨n, 1⟩] })
  let dies := s.dies.map fun (n, d) => (n, { d with pmh := d.pmd })
  let s := { s with cells := cells, dies := dies, dev := { s.dev with latchDue := false, trgLast := t, trgNum := num, trgClear := false } }
  (List.range Config.dies).foldl (fun s d =>
    countDie (dieRecord s d (recordWord 6 {} ⟨Config.cellsPerDie * d, 0⟩ 0 0 t 0 (0#128 ++ (zx num : Word) ++ t))) d 0x0A) s

/-- TRIGGER_LATCH (R358): at the latch time. (DEDUCED: log entry 75.) -/
def execTriggerLatch (s : State) : Host.Outcome State Fault Refusal :=
  .next (if s.dev.latchDue && decide (s.dev.trgT.toNat ≤ s.dev.time.toNat) then latch s else s)

/-- Class of a queue's head, from what it would do now. -/
def peekCode (s : State) (c : CtxId) (q : Queue) : Nat × Nat :=
  tryCode ((s.cx c).acted.getLsbD q.num) (some (headTry q { s with cur := c }))

/-- SAMPLE_RECORD (R361): the event's `ctx`, in a cycle that its cell's TRC.CTL samples and that has not sampled it yet. -/
def execSampleRecord (s : State) : Host.Outcome State Fault Refusal :=
  let c := s.ev.ctx
  .next (if s.resident c then sampleHeads s c [seqCode s c, peekCode s c .l, peekCode s c .c, peekCode s c .s] else s)

end Sys2Proof.Machine
end

