-- ==== Sys2Proof/Machine/Launch.lean ====
section
/-! DEFINITION. Launches: LAUNCH and LAUNCHI (R238, R239), acceptance (R312 to R317), eligibility (R318, R319), admission (R320 to R324),
refusal (R323), ageing (R325), the scratch image (R322), and the retirement tracker (R187). -/

namespace Sys2Proof.Machine

/-! ### What the controller reads (R312 to R315) -/

/-- A read by a controller: a fresh walk for the partition (R315). -/
def ctrlRead (s : State) (pid : Nat) (va : Word) (n : Nat) : Except WalkFail (List (Byte × Bool)) :=
  if outOfRange va n then .error ⟨5, 0, 0, 0⟩
  else
    let r : Except WalkFail (List (Leaf × Nat)) := (piecesOf va n).foldr (fun (a, k) acc =>
      match walk s pid a .read with
      | .error f => .error f
      | .ok l => acc.map ((l, k) :: ·)) (.ok [])
    match r with
    | .error f => .error f
    | .ok ls => match farError s ls va with
      | some (_, l) => .error ⟨6, l.level, l.entry.serial, 0⟩
      | none => .ok (readLeaves s ls)

/-- The number that some read bytes hold. -/
def readNat (l : List (Byte × Bool)) : Nat := leNat (l.map (·.1))

namespace Rec

/-- Fields of a launch record (R312). -/
def w (r : BitVec 512) : Nat := (fld r 0 4 : BitVec 4).toNat
def cls (r : BitVec 512) : Nat := (fld r 4 2 : BitVec 2).toNat
def khdr (r : BitVec 512) : Word := zx ((fld r 6 50 : BitVec 50) ++ 0#6)
def h (r : BitVec 512) : Nat := (fld r 56 4 : BitVec 4).toNat
def d (r : BitVec 512) : Nat := (fld r 60 3 : BitVec 3).toNat
def er (r : BitVec 512) : Bool := r.getLsbD 63
def param (r : BitVec 512) : Word := fld r 64 64
def det (r : BitVec 512) : Bool := r.getLsbD 128
def chk (r : BitVec 512) : Bool := r.getLsbD 129
def npred (r : BitVec 512) : Nat := (fld r 130 3 : BitVec 3).toNat
def layout (r : BitVec 512) : Word := zx ((fld r 134 50 : BitVec 50) ++ 0#6)
def bind (r : BitVec 512) : Word := zx ((fld r 198 50 : BitVec 50) ++ 0#6)
def basei (r : BitVec 512) : Word := fld r 256 64
def pred (r : BitVec 512) (p : Nat) : Nat := (fld r (320 + 48 * p) 48 : BitVec 48).toNat
/-- The predecessors that the record names. -/
def preds (r : BitVec 512) : List Nat := (List.range (min 4 (npred r))).map (pred r)

/-- Every field is in range and no reserved bit is set. -/
def ok (r : BitVec 512) : Bool :=
  decide (1 ≤ w r) && decide (w r ≤ 12) && decide (1 ≤ h r) && decide (h r ≤ 12) && decide (1 ≤ d r) && decide (d r ≤ 4) &&
    decide (npred r ≤ 4) && !r.getLsbD 133 && (fld r 184 14 : BitVec 14) == 0 && (fld r 248 8 : BitVec 8) == 0 &&
    ((List.range 4).filter (npred r ≤ ·)).all fun p => pred r p == 0

end Rec

namespace Hdr'

/-- Fields of a kernel header (R313). -/
def entry (w : BitVec 512) : Word := fld w 0 64
def lt (w : BitVec 512) (k : Nat) : BitVec 8 := fld w (64 + 8 * k) 8
def simg (w : BitVec 512) : Word := fld w 128 64
def slen (w : BitVec 512) : Nat := (fld w 192 32 : BitVec 32).toNat
def soff (w : BitVec 512) : Nat := (fld w 224 32 : BitVec 32).toNat
def kind (w : BitVec 512) (k : Nat) : Nat := (fld (lt w k) 0 3 : BitVec 3).toNat
def rct (w : BitVec 512) (k : Nat) : Bool := (lt w k).getLsbD 3
def stg (w : BitVec 512) (k : Nat) : Nat := (fld (lt w k) 4 4 : BitVec 4).toNat
/-- A level of KIND 3. -/
def hasDies (w : BitVec 512) : Bool := (List.range 6).any fun k => kind w k == 3

/-- The loop table passes R169. -/
def tableOk (w : BitVec 512) : Bool :=
  let lv := List.range 6
  lv.all (fun k => kind w k < 4) && decide ((lv.filter (rct w)).length ≤ 1) &&
    lv.all (fun k => !rct w k || kind w k == 0) && lv.all (fun k => stg w k == 0 || rct w k) &&
    [1, 2, 3].all fun n => decide ((lv.filter fun k => kind w k == n).length ≤ 1)

/-- The header passes R313. -/
def ok (w : BitVec 512) : Bool :=
  (fld w 112 16 : BitVec 16) == 0 && (fld w 256 256 : BitVec 256) == 0 && (entry w).toNat % 8 == 0 &&
    decide (soff w + slen w ≤ Config.localBytes) && tableOk w

end Hdr'

namespace PortEntry

/-- Fields of a port entry (R314). -/
def chan (e : BitVec 32) : Nat := (fld e 0 16 : BitVec 16).toNat
def port (e : BitVec 32) : BitVec 5 := fld e 16 5
def write (e : BitVec 32) : Bool := e.getLsbD 21
def needr (e : BitVec 32) : Bool := e.getLsbD 22

/-- The entries pass R314: no reserved bit, NEEDR on write ports alone, every port named once. -/
def ok (l : List (BitVec 32)) : Bool :=
  l.all (fun e => (fld e 23 9 : BitVec 9) == 0 && (!needr e || write e)) && (l.map port).eraseDups.length == l.length

end PortEntry

/-- The binding block: BARS and its port entries, none when R314 refuses it; the error is a cause of R323. -/
def readBlock (s : State) (pid : Nat) (va : Word) : Except Nat (Option (BitVec 16 × List (BitVec 32))) :=
  let fail (f : WalkFail) : Nat := if f.cause = 255 then 8 else 6
  if va = 0 then .ok (some (0, []))
  else match ctrlRead s pid va 8 with
    | .error f => .error (fail f)
    | .ok b =>
      if b.any (·.2) then .error 8
      else
        let h := readNat b
        let n := h / 2 ^ 16 % 256
        if h / 2 ^ 24 ≠ 0 ∨ 32 < n then .ok none
        else match if pastTop va 8 (4 * n) then .error ⟨5, 0, 0, 0⟩ else ctrlRead s pid (va + 8) (4 * n) with
          | .error f => .error (fail f)
          | .ok b =>
            if b.any (·.2) then .error 8
            else
              let x := readNat b
              let es := (List.range n).map fun p => BitVec.ofNat 32 (x / 2 ^ (32 * p))
              .ok (if PortEntry.ok es then some (BitVec.ofNat 16 h, es) else none)

/-- The kernel header, or a cause of R323. -/
def readHeader (s : State) (pid : Nat) (va : Word) : Except Nat (BitVec 512) :=
  match ctrlRead s pid va 64 with
  | .error f => .error (if f.cause = 255 then 8 else 6)
  | .ok b => if b.any (·.2) then .error 8 else .ok (BitVec.ofNat 512 (readNat b))

/-- What the controller decides about a record (R312 to R316): the launch without its number, or the cause of its refusal. A launch
whose loop table has a level of KIND 3 goes to the distributor, number 4. (DEDUCED: log entry 82.) -/
def examine (s : State) (pid ctrl : Nat) (r : BitVec 512) (countAt : Option Word) : Launch × Option Nat :=
  let l : Launch := { pid := pid, ctrl := ctrl, order := s.dev.nextOrder, cls := Rec.cls r, record := r, countAt := countAt,
                      groups := if countAt.isNone then some 1 else none }
  if !Rec.ok r then (l, some 1)
  else match readHeader s pid (Rec.khdr r) with
    | .error c => (l, some c)
    | .ok hd =>
      let l := { l with hdr := hd }
      if !Hdr'.ok hd then (l, some 2)
      else if 1 < Rec.d r && !Hdr'.hasDies hd then (l, some 1)
      else
        let l := if Hdr'.hasDies hd then { l with ctrl := 4 } else l
        match readBlock s pid (Rec.bind r) with
        | .error c => (l, some c)
        | .ok none => (l, some 3)
        | .ok (some (bars, ports)) =>
          if !ports.isEmpty && 1 < Rec.w r * Rec.h r * Rec.d r then (l, some 3)
          else ({ l with bars := bars, ports := ports }, none)

/-! ### Acceptance and refusal -/

/-- Refuses a launch (R323): it counts as retired, admission for the partition halts, and the host is told. -/
def refuse (s : State) (l : Launch) (cause : Nat) : State :=
  let s := { s with launches := (s.launches.filter fun (x : Launch) => x.pid != l.pid || x.seq != l.seq) ++
    [{ l with phase := LaunchPhase.retired }] }
  let s := s.setPart l.pid { s.part l.pid with halted := true }
  let s := countDie s (if l.ctrl < 4 then l.ctrl else 0) 5
  hostEvent s l.pid 2 (BitVec.ofNat 8 cause) 0 0 l.seq

/-- Pending entries of a controller (R316). -/
def pendingCount (s : State) (ctrl : Nat) : Nat := (s.launches.filter fun l => l.ctrl == ctrl && l.phase == .pending).length

/-- A controller accepts a launch (R315, R316): its sequence number and the new state; none while the entries are full. -/
def accept (s : State) (pid ctrl : Nat) (r : BitVec 512) (countAt : Option Word) : Option (Nat × State) :=
  let (l, cause) := examine s pid ctrl r countAt
  if (if l.ctrl = 4 then 64 else 256) ≤ pendingCount s l.ctrl then none
  else
    let p := s.part pid
    let n := p.nextSeq
    let l := { l with seq := n }
    let cause := match cause with
      | some c => some c
      | none => if 2 ^ 48 ≤ n then some 5
        else if (Rec.preds r).any fun k => k = 0 || n ≤ k then some 4 else none
    let s := { s with dev := { s.dev with nextOrder := s.dev.nextOrder + 1 } }
    let s := s.setPart pid { p with nextSeq := if n < 2 ^ 48 then n + 1 else n }
    match cause with
    | some c => some (n, refuse s l c)
    | none => some (n, { s with launches := s.launches ++ [l] })

/-- LAUNCH and LAUNCHI (R238, R239): a release at .DV, a read of the record through the context's translation, then acceptance. -/
def launchOp (s : State) (k : Tag) (d : BitVec 6) (src : List (BitVec 6 × Bool)) : Res :=
  lateBad s.me (src.map (·.1)) <| alsoWaits (!accessesDone s s.cur) (.sync 2) <| match checkTagsS s.me k (src.map (·.1)) with
  | .error e => .error e
  | .ok _ => match checkDest s.me d with
    | .error e => .error e
    | .ok _ =>
      let l := src.map fun x => readS s s.me x.1
      let a := l.getD 0 0
      let cnt := l[1]?
      if a &&& 63 != 0 then .error (boundsAt (va56 a))
      else if (cnt.getD 0) &&& 3 != 0 then .error (boundsAt (va56 (cnt.getD 0)))
      else if !accessesDone s s.cur then .error (.wait (.sync 2))
      else match readVirt s s.cur .read a 64 with
        | .error e => .error e
        | .ok b => match hbmBad a b with
          | some e => .error e
          | none =>
            match accept (useRange s s.cur .read a 64) s.me.pid (dieOf s.cur.cell) (BitVec.ofNat 512 (readNat b)) cnt with
            | none => .error (.wait (.sync 3))
            | some (n, s) => .ok (setS (s.setMe (killS s.me src)) d (zx (BitVec.ofNat 48 n)) k)

/-- LAUNCH (R238). -/
def execLaunch (o : SUn) (s : State) : Host.Outcome State Fault Refusal :=
  finish s (.launch o) (onClock s o.clk fun s => launchOp s o.clk o.d [(o.a, o.ua)])
/-- LAUNCHI (R239). -/
def execLaunchi (o : SRR) (s : State) : Host.Outcome State Fault Refusal :=
  finish s (.launchi o) (onClock s o.clk fun s => launchOp s o.clk o.d [(o.a, o.ua), (o.b, o.ub)])

/-! ### Eligibility (R318, R319, R327) -/

/-- A launch has signalled SUCCGO: all its groups are placed, and every context of it has executed SUCCGO or retired (R240). -/
def signalled (s : State) (pid seq : Nat) : Bool :=
  (s.launches.any fun l => l.pid == pid && l.seq == seq && l.phase != .pending) &&
    s.ctxs.all (fun x => x.2.pid != pid || x.2.seq != seq || x.2.succgo) &&
    s.saved.all fun x => x.2.ctx.pid != pid || x.2.ctx.seq != seq || x.2.ctx.succgo

/-- Every condition of eligibility but the count of a LAUNCHI. -/
def readyButCount (s : State) (l : Launch) : Bool :=
  l.phase == .pending && !(s.part l.pid).halted &&
    (Rec.preds l.record).all fun p => hasRetired s l.pid p || (Rec.er l.record && signalled s l.pid p)

/-- The launch is eligible (R318). -/
def eligible (s : State) (l : Launch) : Bool := readyButCount s l && l.groups.isSome

/-- Replaces a launch. -/
def setLaunch (s : State) (l : Launch) : State :=
  { s with launches := s.launches.map fun x => if x.pid = l.pid ∧ x.seq = l.seq then l else x }

/-- LAUNCHI_COUNT_READ (R319): the event's `n` and `m` are the partition and the sequence number. -/
def execLaunchiCountRead (s : State) : Host.Outcome State Fault Refusal :=
  match s.launches.find? fun l => l.pid == s.ev.n && l.seq == s.ev.m with
  | none => .next s
  | some l => match l.countAt with
    | none => .next s
    | some a =>
      if l.groups.isSome || !readyButCount s l then .next s
      else match ctrlRead s l.pid a 4 with
        | .error _ => .next (refuse s l 7)
        | .ok b =>
          let g := readNat b
          if b.any (·.2) || (1 < g && !l.ports.isEmpty) then .next (refuse s l 7)
          else if g = 0 then .next (setLaunch s { l with groups := some 0, phase := .retired })
          else .next (setLaunch s { l with groups := some g })

/-- When each launch that is not bound became eligible in its class (R325). (DEDUCED: log entry 83.) -/
def noteEligible (s : State) : State :=
  { s with launches := s.launches.map fun l =>
      if eligible s l && l.placed == 0 then (if l.since.isSome then l else { l with since := some s.dev.time })
      else if l.since.isSome then { l with since := none } else l }

/-- LAUNCH_AGEING (R325): the event's `n` and `m` are the partition and the sequence number. -/
def execLaunchAgeing (s : State) : Host.Outcome State Fault Refusal :=
  match s.launches.find? fun l => l.pid == s.ev.n && l.seq == s.ev.m with
  | none => .next s
  | some l =>
    let t := if l.cls = 2 then s.dev.ageing2 else if l.cls = 3 then s.dev.ageing3 else 0
    match l.since with
    | none => .next s
    | some t0 =>
      if eligible s l && t != 0 && decide (1000 * t ≤ (s.dev.time - t0).toNat) then
        .next (setLaunch s { l with cls := l.cls - 1, since := some s.dev.time })
      else .next s

/-- TIME_BASE_TICK (R33, R357, R358): the die counters count the tick and what has happened since the last one, a walk from here on reads what the tables
now hold, and a latch takes its values as the time base reaches its time. -/
def execTimeBaseTick (s : State) : Host.Outcome State Fault Refusal :=
  let s := (List.range Config.dies).foldl (fun s d => countDie s d 0) s
  let s := { s with dies := s.dies.map fun (d : Nat × Die) => (d.1, d.2.tick) }
  let s := noteEligible { s with tableOld := [], dev := { s.dev with time := s.dev.time + 1 } }
  .next (if s.dev.latchDue && decide (s.dev.trgT.toNat ≤ s.dev.time.toNat) then latch s else s)

/-! ### Admissibility (R320) -/

/-- A rectangle: die, slot, origin row and column. -/
structure Place where
  die : Nat := 0
  slot : Nat := 0
  row : Nat := 0
  col : Nat := 0
  deriving DecidableEq, Repr

/-- Cells of a rectangle, by rows. -/
def placeCells (w h : Nat) (p : Place) : List Nat :=
  (List.range h).flatMap fun y => (List.range w).map fun x => cellAt p.die (p.row + y) (p.col + x)

/-- The lock group of a cell. -/
def groupOf (s : State) (cell : Nat) : BitVec 4 := (s.island (islandOf cell)).group

/-- A slot can take a context: it holds none, and no pinned one left it (R342). -/
def slotFree (s : State) (c : CtxId) : Bool :=
  !s.resident c && s.saved.all fun v => v.1 != c || !v.2.pinned

/-- A rectangle fits, in one lock group. -/
def fits (s : State) (w h : Nat) (p : Place) : Bool :=
  let l := placeCells w h p
  l.all (fun c => slotFree s ⟨c, p.slot⟩) && match l with
    | c :: rest => rest.all fun x => groupOf s x == groupOf s c
    | [] => false

/-- The places of a die in the order of R321. (DEDUCED: log entry 84.) -/
def placesOf (die w h : Nat) : List Place :=
  (List.range (13 - h)).flatMap fun r => (List.range (13 - w)).flatMap fun c =>
    [⟨die, 0, r, c⟩, ⟨die, 1, r, c⟩]

/-- The lock group of a place. -/
def placeGroup (s : State) (p : Place) : BitVec 4 := groupOf s (cellAt p.die p.row p.col)

/-- The first place of a die that fits, in a given lock group if one is given. -/
def findPlace (s : State) (die w h : Nat) (g : Option (BitVec 4)) : Option Place :=
  (placesOf die w h).find? fun p => (g.isNone || g == some (placeGroup s p)) && fits s w h p

/-- The first of two lists of numbers, by the first that differs. -/
def before : List Nat → List Nat → Bool
  | a :: l, b :: m => decide (a < b) || (a == b && before l m)
  | _, _ => false

/-- The earlier of two placements of the distributor: the lower dies, then, on the same dies, the lower origins, die by die (R321). -/
def earlier (a b : List Place) : Bool :=
  before (a.map (·.die) ++ a.flatMap fun p => [p.row, p.col, p.slot]) (b.map (·.die) ++ b.flatMap fun p => [p.row, p.col, p.slot])

/-- The places of a launch's next group (R320, R321). -/
def placement (s : State) (l : Launch) : Option (List Place) :=
  let w := Rec.w l.record
  let h := Rec.h l.record
  let d := Rec.d l.record
  if l.ctrl < 4 then (findPlace s l.ctrl w h none).map ([·])
  else
    let inGroup (g : Nat) : List Place :=
      ((List.range Config.dies).filterMap fun die => findPlace s die w h (some (BitVec.ofNat 4 g))).take d
    let all := ((List.range 16).map inGroup).filter (·.length == d)
    all.foldl (fun best x => match best with
      | none => some x
      | some b => if earlier x b then some x else some b) none

/-- Barriers that a launch uses on some cells. -/
def barKeys (l : Launch) (cells : List Nat) : List (Nat × Nat) :=
  (cells.map clusterOf).eraseDups.flatMap fun cl =>
    ((List.range 16).filter fun b => l.bars.getLsbD b).map fun b => (cl, b)

/-- The barrier is free, or granted to the partition (R320). -/
def barAvailable (s : State) (k : Nat × Nat) (pid : Nat) : Bool := (s.bar k).users.isEmpty || (s.bar k).owner == some pid

/-- What a check of admission answers. -/
inductive Verdict where
  | ok | waits | refused
  deriving DecidableEq, Repr

/-- Reserved bits of a descriptor, and its RW fields but STATE (R98). -/
def descReserved : BitVec 1024 :=
  [(32, 32), (96, 32), (142, 18), (182, 10), (192, 12), (248, 8), (261, 27), (551, 1), (592, 432)].foldl
    (fun m r => m ||| BitVec.ofNat 1024 ((2 ^ r.2 - 1) * 2 ^ r.1)) 0
def descLive : BitVec 1024 :=
  [(0, 32), (64, 32), (192, 56), (256, 5), (288, 256), (547, 4), (552, 40)].foldl
    (fun m r => m ||| BitVec.ofNat 1024 ((2 ^ r.2 - 1) * 2 ^ r.1)) 0

/-- A descriptor as it stands in HBM. -/
def descWord (s : State) (i : ChanId) : BitVec 1024 := BitVec.ofNat 1024 (s.hbmNat (descAddr (s.part i.pid) i.chan) 128)

/-- An endpoint field that names another device: the other side of a channel across devices (R125). A field of zeros names port ch0 of slot 0 of cell 0
of device 0 where something tells that it was written (`set`); the host's own zeros name nothing (R98). -/
def farEnd (s : State) (f : BitVec 32) (set : Bool := false) : Option Endpoint :=
  if (set || f != 0) && (fld f 0 16 : BitVec 16) != s.dev.devNum then
    some { dev := fld f 0 16, cell := (fld f 16 10 : BitVec 10).toNat, slot := (fld f 26 1 : BitVec 1).toNat,
           port := (fld f 27 5 : BitVec 5).toNat }
  else none

/-- The channel units take up the endpoints on other devices that the descriptors now name, after a fabric write of `n` bytes from `off` on: one that
covers an endpoint field has written it (R125). (DEDUCED: log entry 115.) -/
def learnEnds (s : State) (off n : Nat) : State :=
  { s with chans := s.chans.map fun (i, c) =>
      let w := descWord s i
      let a := descAddr (s.part i.pid) i.chan
      let set (k : Nat) : Bool := decide (off ≤ a + k) && decide (a + k + 4 ≤ off + n)
      (i, if c.scope == 4 then
        { c with writer := c.writer.orElse fun _ => farEnd s (fld w 0 32) (set 0), reader := c.reader.orElse fun _ => farEnd s (fld w 64 32) (set 8) }
      else c) }

/-- The channel as its unit holds it, or as its descriptor gives it to a context that binds it for writing or for reading. In a channel across devices that
is no longer UNBOUND and whose endpoint fields are both zero, the other endpoint is that of device 0 (R100, R125). -/
def chanNow (s : State) (i : ChanId) (write : Bool) : Chan :=
  match find? s.chans i with
  | some c => c
  | none =>
    let w := descWord s i
    let c := chanOf w
    let zero := c.scope == 4 && (fld w 0 32 : BitVec 32) == 0 && (fld w 64 32 : BitVec 32) == 0
    if c.state = 0 then c
    else { c with writer := farEnd s (fld w 0 32) (zero && !write), reader := farEnd s (fld w 64 32) (zero && write) }

/-- A scope holds both cells of one device (R126). -/
def scopeHolds (scope a b : Nat) : Bool :=
  match scope with
  | 0 => a == b
  | 1 => clusterOf a == clusterOf b
  | 2 => dieOf a == dieOf b
  | _ => true

/-- The checks of R22, R100 and NEEDR on one port entry for a context on `cell`. (DEDUCED: log entry 61.) -/
def chanCheck (s : State) (pid : Nat) (e : BitVec 32) (cell : Nat) : Verdict :=
  let i : ChanId := ⟨pid, PortEntry.chan e⟩
  let w := descWord s i
  let c := chanNow s i (PortEntry.write e)
  let live := (find? s.chans i).isSome
  let mine := if PortEntry.write e then c.writer else c.reader
  let other := if PortEntry.write e then c.reader else c.writer
  if (s.part pid).chanLimit.toNat ≤ i.chan then .refused
  else if (w &&& descReserved) != 0 || c.esz < 2 || 9 < c.esz || c.rsz < 1 || 12 < c.rsz || 4 < c.scope ||
      4 ≤ c.state.toNat || 24 < c.slog || Config.localBytes < c.rbase + c.n * (c.e + 8) then .refused
  else if c.state = 3 || (!live && c.state = 0 && (w &&& descLive) != 0) then .refused
  else if mine.isSome then .refused
  else if (match other with
    | some o => if o.dev != s.dev.devNum then c.scope != 4 else !scopeHolds c.scope cell o.cell
    | none => false) then .refused
  else if PortEntry.needr e && !c.served then .waits
  else .ok

/-- Ring areas of the read ports lie apart from each other and from the scratch image (R320). -/
def ringsOk (s : State) (l : Launch) : Bool :=
  let rings := (l.ports.filter (!PortEntry.write ·)).map fun e =>
    let c := chanNow s ⟨l.pid, PortEntry.chan e⟩ false
    (c.rbase, c.rbase + c.n * (c.e + 8))
  let img := (Hdr'.soff l.hdr, Hdr'.soff l.hdr + Hdr'.slen l.hdr)
  let rec apart : List (Nat × Nat) → Bool
    | [] => true
    | r :: rest => (Hdr'.slen l.hdr == 0 || !meets r img) && rest.all (!meets r ·) && apart rest
  apart rings

/-- Two entries of one launch name one direction of one channel. -/
def twice (l : Launch) : Bool :=
  let ks := l.ports.map fun e => (PortEntry.chan e, PortEntry.write e)
  ks.eraseDups.length != ks.length

/-- Whether a launch's next group is admissible at a placement (R320). -/
def admissible (s : State) (l : Launch) (ps : List Place) : Verdict :=
  let cells := ps.flatMap (placeCells (Rec.w l.record) (Rec.h l.record))
  let chans := l.ports.map fun e => chanCheck s l.pid e (cells.headD 0)
  if (barKeys l cells).any fun k => !barAvailable s k l.pid then .waits
  else if chans.contains .refused || twice l || !ringsOk s l then .refused
  else if chans.contains .waits then .waits else .ok

/-! ### Admission (R322) -/

/-- Grants a barrier to a launch: another partition's state is cleared first (R151). -/
def grantBar (s : State) (k : Nat × Nat) (pid seq : Nat) : State :=
  let b := s.bar k
  let b := if b.owner = some pid then b else { owner := some pid }
  s.setBar k { b with users := if b.users.contains seq then b.users else b.users ++ [seq] }

/-- Binds a port entry of a context (R100, R101, R104, R106). -/
def bindPort (s : State) (c : CtxId) (pid : Nat) (e : BitVec 32) : State :=
  let i : ChanId := ⟨pid, PortEntry.chan e⟩
  let ch := chanNow s i (PortEntry.write e)
  let here : Endpoint := { dev := s.dev.devNum, cell := c.cell, slot := c.slot, port := (PortEntry.port e).toNat }
  let state : BitVec 3 := if ch.state = 0 then 1 else ch.state
  let ch := if PortEntry.write e then
      { ch with writer := some here, state := state, wblk := false, returning := 0 }
    else { ch with reader := some here, state := state, spill := decide (0 < ch.silt), rblk := false }
  let onWay := (ch.transit.filter (!·.close)).length
  let p : Port := { chan := some i.chan, write := PortEntry.write e,
                    credits := if PortEntry.write e then ch.n + ch.c - ch.held - onWay else 0,
                    closed := PortEntry.write e && 2 ≤ ch.state.toNat }
  let x := s.cx c
  let n := PortEntry.port e
  writeBack ((s.setChan i ch).setCx c { x with port := x.port.set n.toFin p n.toFin.isLt }) i

/-- The register state of a context at admission (R322 steps 1, 2 and 5): every other register at its launch value. -/
def freshCtx (l : Launch) (c : CtxId) (area : Word) (x y z : Nat) (dies : List Nat) : Ctx :=
  let r := l.record
  let w := Rec.w r
  let h := Rec.h r
  let s0 : Vector SReg 64 := .replicate 64 {}
  let s1 := s0.set 1 { val := Rec.param r }
  let s2 := s1.set 2 { val := BitVec.ofNat 64 (x + w * y + w * h * z) }
  { pid := l.pid, seq := l.seq, phase := .image, pc := Hdr'.entry l.hdr, entry := Hdr'.entry l.hdr,
    s := s2.set 3 { val := BitVec.ofNat 64 l.placed }, basei := Rec.basei r, chk := Rec.chk r, det := Rec.det r,
    layoutBase := Rec.layout r, looptab := Vector.ofFn fun k : Fin 6 => zx (Hdr'.lt l.hdr k.val),
    x := x, y := y, z := z, width := w, height := h, depth := Rec.d r, zdies := dies,
    preArea := (area + BitVec.ofNat 64 (0x800000 * (2 * c.cell + c.slot))) &&& bitMask 55 23,
    preds := Rec.preds r }

/-- Admits one context: its registers, and the cell's instruction cache emptied (R322, R398). -/
def admitCtx (s : State) (l : Launch) (c : CtxId) (x y z : Nat) (dies : List Nat) : State :=
  (emptyIcache s c.cell).setCx c (freshCtx l c (s.part l.pid).areaBase x y z dies)

/-- Binds the next group of a launch (R322, R324). -/
def admitGroup (s : State) (l : Launch) (ps : List Place) : State :=
  let w := Rec.w l.record
  let h := Rec.h l.record
  let cells := ps.flatMap (placeCells w h)
  let dies := ps.map (·.die)
  let s := (barKeys l cells).foldl (fun s k => grantBar s k l.pid l.seq) s
  let s := ((List.range ps.length).zip ps).foldl (fun s (z, p) =>
    (List.range h).foldl (fun s y => (List.range w).foldl (fun s x =>
      admitCtx s l ⟨cellAt p.die (p.row + y) (p.col + x), p.slot⟩ x y z dies) s) s) s
  let s := match ps, cells with
    | p :: _, c :: _ => l.ports.foldl (fun s e => bindPort s ⟨c, p.slot⟩ l.pid e) s
    | _, _ => s
  let s := dies.foldl (fun s d => countDie s d 4) s
  setLaunch s { l with placed := l.placed + 1, since := none, phase := if l.groups = some (l.placed + 1) then .running else .pending }

/-- Launches of a controller in the order of selection (R324): by class, then by acceptance. -/
def insertLaunch (l : Launch) : List Launch → List Launch
  | [] => [l]
  | x :: r => if l.cls < x.cls ∨ (l.cls = x.cls ∧ l.order < x.order) then l :: x :: r else x :: insertLaunch l r

/-- The selection of a controller: the first admissible launch binds its next group; one that a condition can never hold for is
refused. -/
def selectFrom (s : State) : List Launch → State
  | [] => s
  | l :: rest =>
    match placement s l with
    | none => selectFrom s rest
    | some ps => match admissible s l ps with
      | .ok => admitGroup s l ps
      | .refused => refuse s l 3
      | .waits => selectFrom s rest

/-- The candidates of a controller. -/
def candidates (s : State) (ctrl : Nat) : List Launch :=
  (s.launches.filter fun l => l.ctrl == ctrl && eligible s l).foldl (fun acc l => insertLaunch l acc) []

/-- GROUP_ADMISSION (R322, R324): the event's `n` is the controller, 4 for the distributor. -/
def execGroupAdmission (s : State) : Host.Outcome State Fault Refusal := .next (selectFrom s (candidates s s.ev.n))

/-- The copy of a context's scratch image (R322 step 4). (DEDUCED: log entry 85.) -/
def imageCopy (s : State) (c : CtxId) (l : Launch) : CopyOp :=
  { ctx := c, pid := l.pid, seq := l.seq, kind := .xin, va := Hdr'.simg l.hdr, near := Hdr'.soff l.hdr, len := Hdr'.slen l.hdr,
    pc := (s.cx c).entry }

/-- SCRATCH_IMAGE_LOADED (R322): the image of the event's `ctx` has been copied and its first instruction routes next; a translation
failure stops the context. -/
def execScratchImageLoaded (s : State) : Host.Outcome State Fault Refusal :=
  let c := s.ev.ctx
  let x := s.cx c
  if !s.resident c || x.phase != .image then .next s
  else match s.launches.find? fun l => l.pid == x.pid && l.seq == x.seq with
    | none => .next (s.setCx c { x with phase := .running })
    | some l => match copyOutOfRange (imageCopy s c l) with
      | some a => .next (raised s c x.entry 0 (rangeFault a))
      | none => match moveBytes s (imageCopy s c l) (Hdr'.slen l.hdr) with
        | .error (r, s) => .next (raised s c x.entry 0 r)
        | .ok s => .next (s.setCx c { s.cx c with phase := .running })

/-! ### The retirement tracker -/

/-- A tracker entry that frees: stores, or a copy whose completion has been seen. -/
def Track.frees (s : State) : Track → Bool
  | .stores _ _ _ _ _ => true
  | .copy id _ _ => !s.copies.any (·.id == id)

/-- A store of a retired context's sequencer that another device refuses is reported as a copy's fault is (R187). (DEDUCED: log entry 52.) -/
def tellScalar (pid seq cell slot : Nat) (s : State) (r : ScalarRet) : State :=
  if r.remote && Config.freeRemoteFails (s.free r.addr.toNat) then hostEvent s pid 1 Code.fatalTranslation.num cell slot seq else s

/-- RETIREMENT_TRACKER_FREE (R187): the stores of a retired context on the cell `n` perform, or a copy whose completion has been seen
leaves; the entry frees, and a launch that has drained retires. -/
def execRetirementTrackerFree (s : State) : Host.Outcome State Fault Refusal :=
  match (s.cell s.ev.n).tracker.find? (Track.frees s) with
  | none => .next (retireLaunches s)
  | some t =>
    let s := match t with
      | .stores p k sl l r => r.foldl (tellScalar p k s.ev.n sl) (l.foldl (fun s (st : Store) => perform s st.cells) s)
      | .copy _ _ _ => s
    let q := s.cell s.ev.n
    .next (retireLaunches (s.setCell s.ev.n { q with tracker := q.tracker.erase t }))

end Sys2Proof.Machine
end

