-- ==== Sys2Proof/Machine/Preempt.lean ====
section
/-! DEFINITION. Pre-emption (R339 to R343), precise stops (R367), the watchdogs of invalidation and replay (R348, R373), and the deadlock
detector with the growth of a Silt extent (R120 to R123). -/

namespace Sys2Proof.Machine

/-! ### Pre-emption -/

/-- A pre-emption of the context has begun: its hook runs, or its save is next. -/
def Ctx.saving (x : Ctx) : Bool := x.saveNow || x.trap.preh

/-- Changes every resident context of a partition. -/
def mapPart (s : State) (pid : Nat) (f : CtxId → Ctx → Ctx) : State :=
  { s with ctxs := s.ctxs.map fun (i, x) => (i, if x.pid = pid then f i x else x) }

/-- A pre-emption request (R339): PRE.CTL.PEND in every context of the partition that is not already saving. -/
def requestPreempt (s : State) (pid : Nat) : State :=
  mapPart s pid fun _ x => if x.saving then x else { x with trap := { x.trap with pend := true } }

/-- FIRMWARE_PREEMPTION_REQUEST (R339): the event's `n` is the partition. -/
def execFirmwarePreemptionRequest (s : State) : Host.Outcome State Fault Refusal := .next (requestPreempt s s.ev.n)

/-- A routing boundary at which no instant is open and no handler runs: a pre-emption point of the first two kinds of R339. A context
that has routed RETIRE, or whose image is still being copied, has none. (DEDUCED: log entry 27.) -/
def atBoundary (x : Ctx) : Bool := x.phase == .running && !x.iopen && !x.handler && !x.saving

/-- A pre-emption point: such a boundary, or the one after a handler's TRET (R339). -/
def atPoint (x : Ctx) : Bool := x.phase == .running && (!x.iopen || x.afterTret) && !x.handler && !x.saving

/-- A running hook stops: its entries stand behind those that were set aside before it (R334, R340). -/
def stopHook (x : Ctx) : Ctx :=
  { x with saveNow := true, aside := (x.aside.1 ++ x.qL, x.aside.2.1 ++ x.qC, x.aside.2.2 ++ x.qS), qL := [], qC := [], qS := [], waiting := none }

/-- PREEMPTION_TAKE (R339, R340): the event's `ctx` takes its pre-emption, or its save goes on once its hook's entries have issued (R334) and what has
issued stands. -/
def execPreemptionTake (s : State) : Host.Outcome State Fault Refusal :=
  let c := s.ev.ctx
  let x := s.cx c
  .next (if !s.resident c || x.phase != .running then s
    else if x.saveNow then (if queuesEmpty x then saveWhenStill s c else s)
    else if x.trap.pend && atPoint x then beginPreempt s c (if x.iopen then 1 else 0)
    else s)

/-- PREEMPT_BOUND_EXPIRY (R339): a forced pre-emption of the event's `ctx`; a running hook, or one whose entries have not issued, is
stopped and saved (R334, R340). -/
def execPreemptBoundExpiry (s : State) : Host.Outcome State Fault Refusal :=
  let c := s.ev.ctx
  let x := s.cx c
  .next (if !s.resident c || x.phase != .running then s
    else if x.saving then saveWhenStill (s.setCx c (stopHook x)) c
    else if x.trap.pend then beginPreempt s c 1
    else s)

/-- CONTEXT_RESUME (R343): a saved context of the slot of the event's `ctx` resumes, if it has been told to and its cell is free for it. -/
def execContextResume (s : State) : Host.Outcome State Fault Refusal := .next (resumeCtx s s.ev.ctx)

/-- A precise stop is due: it was requested, or the context's replay log is exhausted (R367, R373). -/
def stopDue (x : Ctx) : Bool := x.stopReq || x.replay == some []

/-- PRECISE_STOP (R367): the event's `ctx` is saved without the hook at its next instant boundary. -/
def execPreciseStop (s : State) : Host.Outcome State Fault Refusal :=
  let c := s.ev.ctx
  let x := s.cx c
  .next (if s.resident c && stopDue x && atBoundary x then
      beginPreempt (s.setCx c { x with stopReq := false, replay := none }) c 0 false false true
    else s)

/-- INVALIDATION_WATCHDOG_EXPIRY (R348): a context that has not acknowledged is saved without the hook, and resumes as soon as the save has
completed. -/
def execInvalidationWatchdogExpiry (s : State) : Host.Outcome State Fault Refusal :=
  let c := s.ev.ctx
  let x := s.cx c
  .next (if !s.resident c || x.pendCount == 0 || x.phase != .running then s
    else if x.saving then saveWhenStill (s.setCx c { stopHook x with forced := true }) c
    else beginPreempt s c 1 false true)

/-! ### The deadlock detector -/

/-- The identifiers of a partition's channels at their unit. -/
def partChans (s : State) (pid : Nat) : List ChanId := (s.chans.map (·.1)).filter (·.pid == pid)

/-- The detector of a partition fires (R120). -/
def detectorFires (s : State) (pid : Nat) : Bool :=
  s.ctxs.any (fun x => x.2.pid == pid) && s.ctxs.all (fun x => x.2.pid != pid || decide (4096 ≤ x.2.blocked)) &&
    s.saved.all (fun v => v.2.ctx.pid != pid) && s.copies.all (fun k => k.pid != pid) &&
    (partChans s pid).all (fun i => (s.chan i).transit.isEmpty && (s.chan i).refills.isEmpty) &&
    s.launches.all fun l => l.pid != pid || !eligible s l

/-- The port of a context that the head of its S queue waits to write. -/
def fullPort (s : State) (c : CtxId) : Option Nat :=
  match headTry .s { s with cur := c } with
  | .waits (.channel p) => some p
  | _ => none

/-- The channels of a partition at which a writer is blocked because they are full (R121). -/
def fullChans (s : State) (pid : Nat) : List ChanId :=
  s.ctxs.filterMap fun (c, x) =>
    if x.pid != pid then none
    else match fullPort s c with
      | none => none
      | some p =>
        let q := x.port.toList.getD p {}
        match q.chan with
        | some n => if q.write && !foreign s (s.chan ⟨pid, n⟩).reader then some ⟨pid, n⟩ else none
        | none => none

/-- The smallest of some full channels by n + C, then by identifier (R121). -/
def smallest (s : State) : List ChanId → Option ChanId
  | [] => none
  | i :: l =>
    let size (i : ChanId) : Nat := (s.chan i).n + (s.chan i).c
    match smallest s l with
    | none => some i
    | some j => if size i < size j ∨ (size i = size j ∧ i.chan < j.chan) then some i else some j

/-- CHANNEL_DEADLOCK (R122): every bound channel is written back, the host is told, and every context stops. (DEDUCED: log entry 63.) -/
def channelDeadlock (s : State) (pid cause : Nat) (ch : Option ChanId) : State :=
  let n := (ch.map (·.chan)).getD 0
  let s := (partChans s pid).foldl writeBack s
  let s := hostEvent s pid 3 (BitVec.ofNat 8 cause) 0 0 n
  let mine := (s.ctxs.filter fun x => x.2.pid == pid).map (·.1)
  mine.foldl (fun s c => fatalStop s c (s.cx c).pc 0 .channelDeadlock { sub := BitVec.ofNat 8 cause, aux := BitVec.ofNat 16 n }) s

/-- Bytes of an extent of `c` slots, in whole pages (R121). -/
def extentBytes (ch : Chan) (c : Nat) : Nat := (c * (ch.e + 8) + 4095) / 4096 * 4096

/-- Ranges of a partition's Silt space that are taken: extents of its growths, and of its channels. -/
def siltTaken (s : State) (pid : Nat) : List (Nat × Nat) :=
  (s.part pid).siltUsed ++ (partChans s pid).filterMap fun i =>
    let ch := s.chan i
    if ch.slog = 0 then none else some ((va56 ch.sbase).toNat, (va56 ch.sbase).toNat + extentBytes ch ch.c)

/-- The lowest free range of some bytes in the Silt pool (R121, R123). -/
def freeRange (s : State) (pid bytes : Nat) : Option Nat :=
  let p := s.part pid
  let lo := (p.siltPool &&& bitMask 55 12).toNat
  let hi := lo + 4096 * (fld p.siltLim 0 32 : BitVec 32).toNat
  let taken := siltTaken s pid
  let starts := lo :: taken.map fun r => (r.2 + 4095) / 4096 * 4096
  let ok (a : Nat) : Bool := decide (lo ≤ a) && decide (a + bytes ≤ hi) && taken.all fun r => !meets r (a, a + bytes)
  (starts.filter ok).foldl (fun best a => match best with
    | none => some a
    | some b => some (min a b)) none

/-- The live Silt elements in order, from slot `j` on, and what their reads leave in the caches. -/
def siltAll (i : ChanId) : Nat → Nat → State → Except Unit (List Elem × State)
  | 0, _, s => .ok ([], s)
  | n + 1, j, s => match siltRead s i (j % max (s.chan i).c 1) with
    | .error _ => .error ()
    | .ok (x, s) => (siltAll i n (j + 1) s).map fun (l, s) => (x :: l, s)

/-- Writes elements into the slots of the new extent. -/
def siltFill (i : ChanId) : List Elem → Nat → State → Except Unit State
  | [], _, s => .ok s
  | x :: l, j, s => match siltWrite s i j x with
    | .ok s => siltFill i l (j + 1) s
    | .error _ => .error ()

/-- Grows the Silt extent of a channel (R121), or raises CHANNEL_DEADLOCK. (DEDUCED: log entry 64.) -/
def growSilt (s : State) (i : ChanId) : State :=
  let ch := s.chan i
  let c' := max (2 * ch.c) ch.n
  let bytes := extentBytes ch c'
  let p := s.part i.pid
  if 2 ^ 24 < c' ∨ 4096 * (fld p.siltLim 32 32 : BitVec 32).toNat < bytes then channelDeadlock s i.pid 1 (some i)
  else match freeRange s i.pid bytes with
    | none => channelDeadlock s i.pid 2 (some i)
    | some a =>
      let grown : Chan := { ch with
        sbase := BitVec.ofNat 64 a, slog := Nat.log2 c', shead := 0, stail := BitVec.ofNat 32 ch.silt,
        grown := if ch.grown = 255 then 255 else ch.grown + 1 }
      match siltAll i ch.silt ch.shead.toNat s with
      | .error _ => channelDeadlock s i.pid 3 (some i)
      | .ok (l, s) => match siltFill i l 0 (s.setChan i { grown with tlb := (s.chan i).tlb }) with
        | .error _ => channelDeadlock s i.pid 3 (some i)
        | .ok s =>
          let old := ((va56 ch.sbase).toNat, (va56 ch.sbase).toNat + extentBytes ch ch.c)
          let s := s.setPart i.pid { p with siltUsed := p.siltUsed.filter (· != old) ++ [(a, a + bytes)] }
          let s := updWriter s i fun q => { q with credits := q.credits + (c' - ch.c) }
          let s := mapPart (writeBack s i) i.pid fun _ x => { x with blocked := 0 }
          countDie s (dieOf ((ch.reader.map (·.cell)).getD 0)) 6

/-- DEADLOCK_DETECTOR_FIRE (R120 to R122): the event's `n` is the partition. -/
def execDeadlockDetectorFire (s : State) : Host.Outcome State Fault Refusal :=
  let pid := s.ev.n
  .next (if detectorFires s pid then
      match smallest s (fullChans s pid) with
      | some i => growSilt s i
      | none => channelDeadlock s pid 0 none
    else s)

end Sys2Proof.Machine
end

