-- ==== Sys2Proof/Machine/Host.lean ====
section
/-! DEFINITION. The host: the control region and fabric accesses (R16, R17, R374), the command port, the commands in their order and
their completion (R375 to R377, R379), a partition reset, and the discarding of saved contexts (R338). -/

namespace Sys2Proof.Machine

/-! ### Fields of a command (R375) -/

namespace Cmd

/-- `n` bytes of a command from byte `i`. -/
def field (c : Command) (i n : Nat) : Nat := c.toNat / 256 ^ i % 256 ^ n
def op (c : Command) : Nat := field c 0 1
def pid (c : Command) : Nat := field c 2 2
def tag (c : Command) : Nat := field c 4 4
def completion (c : Command) : Word := BitVec.ofNat 64 (field c 8 8)
/-- A 64-bit operand. -/
def word (c : Command) (i : Nat) : Word := BitVec.ofNat 64 (field c i 8)

/-- The operand bytes of a command: first byte and number. -/
def operands : Nat → List (Nat × Nat)
  | 1 => [(16, 1), (24, 8)]
  | 2 => [(16, 2), (24, 8), (32, 4), (40, 8), (48, 8)]
  | 3 => [(16, 8)]
  | 4 => [(16, 1), (24, 8), (32, 8)]
  | 5 => [(16, 2), (24, 8), (32, 8)]
  | 8 => [(16, 2), (18, 1)]
  | 9 => [(16, 2), (18, 1)]
  | 11 => [(16, 6), (22, 1)]
  | 12 => [(16, 2), (18, 1), (24, 8)]
  | 13 => [(24, 8), (32, 8), (40, 4)]
  | 14 => [(16, 1), (24, 8)]
  | 15 => [(16, 32), (48, 8)]
  | _ => []

/-- Every byte that the command does not name is zero (R375). -/
def reservedZero (c : Command) : Bool :=
  let named (i : Nat) : Bool := i == 0 || (decide (2 ≤ i) && decide (i < 16)) || (operands (op c)).any fun r => r.1 ≤ i && i < r.1 + r.2
  (List.range 64).all fun i => named i || field c i 1 == 0

/-- Commands that stand outside the sequence of their partition (R377). -/
def atOnce (c : Command) : Bool := [3, 6, 8, 10].contains (op c)

/-- A command with another operation code: the event of a command names its operation. -/
def withOp (c : Command) (n : Nat) : Command := ((fld c 8 504 : BitVec 504) ++ BitVec.ofNat 8 n)

end Cmd

/-- Status byte values (R376). -/
inductive Status where
  | ok | full | badCmd | equal | diverged | replayBroken | replayStaleTable | exhausted
  deriving DecidableEq, Repr

/-- The number of a status. -/
def Status.num : Status → Nat
  | .ok => 0 | .full => 1 | .badCmd => 2 | .equal => 3 | .diverged => 4 | .replayBroken => 5 | .replayStaleTable => 6 | .exhausted => 7

/-- Writes a completion record (R375). -/
def complete (s : State) (c : Command) (st : Status) (result : Word) : State :=
  fabWrite s (Cmd.completion c) (leBytes 4 (Cmd.tag c) ++ [BitVec.ofNat 8 st.num, 0, 0, 0] ++ leBytes 8 result.toNat)

/-- What starting a command gives: it is done, or it goes on with a datum. -/
inductive Begun where
  | done (st : Status) (result : Word)
  | goes (datum : Nat)
  deriving DecidableEq, Repr

/-- A command that is refused. -/
def badCmd (s : State) (result : Word := 0) : State × Begun := (s, .done .badCmd result)
/-- A command that is done. -/
def okCmd (s : State) (result : Word := 0) : State × Begun := (s, .done .ok result)

/-! ### LAUNCH -/

/-- LAUNCH (R315, R317, R379). (DEDUCED: log entry 87.) -/
def startLaunch (s : State) (c : Command) : State × Begun :=
  let pid := Cmd.pid c
  let die := Cmd.field c 16 1
  let a := Cmd.word c 24
  if !(s.part pid).configured || !(decide (die < 4) || die == 7) || a &&& 63 != 0 then badCmd s
  else match ctrlRead s pid a 64 with
    | .error f => badCmd s (if f.cause = 255 then 2 else 1 + 256 * zx f.cause)
    | .ok b =>
      if b.any (·.2) then badCmd s 2
      else match accept s pid (if die = 7 then 4 else die) (BitVec.ofNat 512 (readNat b)) none with
        | none => (s, .done .full 0)
        | some (n, s) => okCmd s (zx (BitVec.ofNat 48 n))

/-! ### TABLE -/

/-- The register that a write-list target names, with the bits that it holds (R25, R375). -/
def tableTarget (t : Word) : Option Nat :=
  let n := (fld t 0 12 : BitVec 12).toNat
  if (fld t 12 51 : BitVec 51) = 0 && [0x100, 0x101, 0x108, 0x109].contains n then some n else none

/-- A write-list target that can be written. -/
def targetOk (t : Word) : Bool :=
  if t.getLsbD 63 then (tableTarget t).isSome else t.toNat % 8 == 0 && decide (t.toNat + 8 ≤ Config.hbmEnd)

/-- Performs one entry of a write list. -/
def tableWrite (s : State) (pid : Nat) (t v : Word) : State :=
  if t.getLsbD 63 then
    let p := s.part pid
    s.setPart pid (match tableTarget t with
      | some 0x100 => { p with root := v &&& rangesMask [(39, 14), (0, 0)] }
      | some 0x101 => { p with rdt := v &&& bitMask 39 12 }
      | some 0x108 => { p with chanBase := v &&& bitMask 39 12 }
      | some 0x109 => { p with chanLimit := v &&& bitMask 16 0 }
      | _ => p)
  else s.writeRaw t.toNat (leBytes 8 v.toNat)

/-- Performs one entry of a write list; what it replaces in memory a walk may still read until the walkers have observed the write (R33). -/
def listWrite (s : State) (pid : Nat) (e : Word × Word) : State :=
  let s := if e.1.getLsbD 63 then s else { s with tableOld := State.at' e.1.toNat ((List.range 8).map fun i => s.hbmByte (e.1.toNat + i)) :: s.tableOld }
  tableWrite s pid e.1 e.2

/-- The range that a TABLE command invalidates: none for length 0, the whole space for a length of all ones (R375). -/
def tableRange (c : Command) : Option (Nat × Nat) :=
  let n := Cmd.field c 48 8
  if n = 0 then none else if n = 2 ^ 64 - 1 then some (0, 2 ^ 56) else some (Cmd.field c 40 8 % 2 ^ 56, n)

/-- TABLE (R346 step 1): the writes. (DEDUCED: log entry 88.) -/
def startTable (s : State) (c : Command) : State × Begun :=
  let pid := Cmd.pid c
  let a := Cmd.field c 24 8
  let n := Cmd.field c 32 4
  if n != 0 && (a % 8 != 0 || decide (Config.hbmEnd < a + 16 * n)) then badCmd s
  else
    let entries := (List.range n).map fun i => (BitVec.ofNat 64 (s.rawNat (a + 16 * i) 8), BitVec.ofNat 64 (s.rawNat (a + 16 * i + 8) 8))
    if entries.any fun e => !targetOk e.1 then badCmd s
    else (entries.foldl (fun s e => listWrite s pid e) s, .goes 0)

/-- Drops the covered entries of a partition from every cell and die TLB. -/
def dropShared (s : State) (pid : Nat) (r : Nat × Nat) : State :=
  let keep (e : Nat × TlbEntry) : Bool := e.1 != pid || e.2.outside [r]
  { s with cells := s.cells.map fun (i, q) => (i, { q with tlb := q.tlb.filter keep }),
           dies := s.dies.map fun (i, d) => (i, { d with tlb := d.tlb.filter keep }) }

/-- Drops the covered entries of the refill engines whose reader is not resident, and acknowledges no more (R346). -/
def dropUnread (s : State) (pid : Nat) (r : Nat × Nat) : State :=
  { s with chans := s.chans.map fun (i, ch) =>
      (i, if i.pid == pid && !ch.served then { ch with tlb := ch.tlb.filter (·.outside [r]) } else ch) }

/-- TABLE goes on once the walkers observe its writes (R346 steps 2 to 4): the die and cell TLBs drop what it covers, the serial is set, and the
invalidation is posted to every resident context; a saved one acknowledges at once. (DEDUCED: log entry 88.) -/
def tablePost (s : State) (c : Command) : State :=
  let pid := Cmd.pid c
  let serial : BitVec 16 := BitVec.ofNat 16 (Cmd.field c 16 2)
  let s := s.setPart pid { s.part pid with serial := serial }
  match tableRange c with
  | none => s
  | some r =>
    let s := mapPart (dropUnread (dropShared s pid r) pid r) pid fun _ x =>
      { x with pendSerial := serial, pendCount := if x.pendCount = -1 then x.pendCount else x.pendCount + 1, inval := x.inval ++ [r] }
    { s with saved := s.saved.map fun (i, v) =>
        (i, if v.ctx.pid = pid then { v with ctx := { v.ctx with pendSerial := serial } } else v) }

/-- Every context has acknowledged (R346, R348). -/
def tableDone (s : State) (pid : Nat) : Bool :=
  s.ctxs.all (fun x => x.2.pid != pid || x.2.pendCount == 0) && s.saved.all fun v => v.2.ctx.pid != pid || !v.2.forWatchdog

/-! ### TRIGGER, RECORD, REPLAY -/

/-- TRIGGER (R358). -/
def startTrigger (s : State) (c : Command) : State × Begun :=
  let own := Cmd.word c 16
  let s := assertTrigger s s.dev.time (if own = 0 then s.dev.time + 1000 else own)
  (s, .goes s.dev.trgT.toNat)

/-- A log region lies in HBM. -/
def logOk (c : Command) : Bool := decide (Cmd.field c 24 8 + Cmd.field c 32 8 ≤ Config.hbmEnd)

/-- RECORD (R371). (DEDUCED: log entry 92.) -/
def startRecord (s : State) (c : Command) : State × Begun :=
  let on := Cmd.field c 16 1
  let p := s.part (Cmd.pid c)
  if 1 < on || (on == 1 && !logOk c) then badCmd s
  else okCmd (s.setPart (Cmd.pid c) { p with
    record := if on = 1 then some { base := Cmd.field c 24 8, cap := Cmd.field c 32 8 } else none })

/-- The addresses of the records of a replay log, in order; an element follows its INPUT record of kind 0 (R371). -/
def logRecords (s : State) : Nat → Nat → Nat → List Nat
  | 0, _, _ => []
  | f + 1, a, fin =>
    if fin < a + 64 then []
    else
      let t := s.rawNat a 1 % 16
      if t = 0 then []
      else
        let body := if t = 11 ∧ s.rawNat (a + 40) 1 = 0 then (s.rawNat (a + 44) 4 + 63) / 64 * 64 else 0
        a :: logRecords s f (a + 64 + body) fin

/-- The logged reads and commits of a context (R373). -/
def recordsOf (s : State) (l : List Nat) (c : CtxId) (seq : Nat) : List Nat :=
  l.filter fun a =>
    let w := s.rawNat a 8
    (w % 16 == 11 || w % 16 == 2) && w / 2 ^ 12 % 1024 == c.cell && w / 2 ^ 22 % 2 == c.slot && w / 2 ^ 32 == seq % 2 ^ 32

/-- A table serial has been reached (R26). -/
def serialReached (s : State) (pid : Nat) (n : BitVec 16) : Bool := decide (((s.part pid).serial - n).toNat < 2 ^ 15)

/-- REPLAY resumes the contexts of the checkpoint, those not saved by a forced pre-emption, in replay mode once its serial has been reached (R373). -/
def replayResume (s : State) (c : Command) : State :=
  let pid := Cmd.pid c
  let l := logRecords s (Cmd.field c 32 8 / 64) (Cmd.field c 24 8) (Cmd.field c 24 8 + Cmd.field c 32 8)
  let s := s.setPart pid { s.part pid with replaying := true, diverged := none, broken := false }
  { s with saved := s.saved.map fun (i, v) => (i, if v.ctx.pid = pid ∧ v.ctx.forcedSub = 0 then
      { v with resume := true, ctx := { v.ctx with stopReq := false, replay := some (recordsOf s l i v.ctx.seq) } } else v) }

/-- Every context of a partition has stopped; one that a pre-emption has saved in the course of its replay has not (R373). -/
def allStopped (s : State) (pid : Nat) : Bool :=
  s.ctxs.all (fun x => x.2.pid != pid) && s.saved.all fun v => v.2.ctx.pid != pid || (!v.2.resume && v.2.ctx.replay.isNone)

/-- Ends the replay of a partition. -/
def endReplay (s : State) (pid : Nat) : State :=
  s.setPart pid { s.part pid with replaying := false, diverged := none, broken := false }

/-! ### PREEMPT, RESUME, STOP, DISCARD -/

/-- RESUME (R323, R343). -/
def startResume (s : State) (pid : Nat) : State × Begun :=
  let s := s.setPart pid { s.part pid with halted := false }
  ({ s with saved := s.saved.map fun (i, v) => (i, if v.ctx.pid = pid then { v with resume := true } else v) }, .goes 0)

/-- The contexts that STOP, DISCARD and DUMP name: none for a bad operand. -/
def named (c : Command) : Option (CtxId → Bool) :=
  let cell := Cmd.field c 16 2
  let slot := Cmd.field c 18 1
  if cell = 0xFFFF ∧ slot = 0xFF then some fun _ => true
  else if cell < Config.cells ∧ slot < 2 then some fun i => i == ⟨cell, slot⟩ else none

/-- STOP (R367): a context that a precise stop is saving, or has saved, is stopping already. (DEDUCED: log entry 89.) -/
def startStop (s : State) (c : Command) : State × Begun :=
  match named c with
  | none => badCmd s
  | some f =>
    let s := mapPart s (Cmd.pid c) fun i x => if f i && !(x.saveNow && x.stopSave) then { x with stopReq := true } else x
    ({ s with saved := s.saved.map fun (i, v) => (i, if v.ctx.pid = Cmd.pid c ∧ f i ∧ !v.ctx.stopSave then
        { v with ctx := { v.ctx with stopReq := true } } else v) }, .goes 0)

/-- The named contexts have stopped; a request on one that a pre-emption has saved stays (R367). -/
def stopDone (s : State) (c : Command) : Bool :=
  match named c with
  | none => true
  | some f => s.ctxs.all (fun x => x.2.pid != Cmd.pid c || !f x.1 || !(x.2.stopReq || (x.2.saveNow && x.2.stopSave))) &&
    s.saved.all fun v => v.2.ctx.pid != Cmd.pid c || !f v.1 || !v.2.ctx.stopReq

/-- DISCARD (R338). -/
def startDiscard (s : State) (c : Command) : State × Begun :=
  match named c with
  | none => badCmd s
  | some f =>
    let mine := s.saved.filter fun v => v.2.ctx.pid == Cmd.pid c && f v.1
    okCmd (mine.foldl (fun s v => discard s v.1 v.2) s)

/-! ### RESET -/

/-- The commands of a matrix unit that a context leaves behind write their rows in the cycles of their schedule (R42) and complete for nobody: slot 2 holds
no context. -/
def leaveEngine (q : Cell) (slot : Nat) : Cell :=
  let left (k : EngCmd) : EngCmd :=
    { k with slot := 2, isNest := false, gen := false, dest := none, push := [],
             doneAt := if k.isNest then (k.work.filterMap (·.wr)).foldl max 0 else k.doneAt }
  { q with nest := q.nest.filter (·.slot != slot), engine := q.engine.map fun k => if k.slot == slot then left k else k }

/-- A context of a partition that is reset leaves its slot (R338): what it has issued performs, its copies end, its instants are abandoned and its ports
unbound. -/
def evict (s : State) (c : CtxId) : State :=
  let s := flushStores (settle s c) c
  let s := abandon s c
  let s := s.setCell c.cell (leaveEngine (s.cell c.cell) c.slot)
  let s := { s with copies := s.copies.filter fun k => k.ctx != c || k.orphan }
  removeCtx (unbindAll s c) c

/-- The cell registers at their reset values (R5, R299), with the partition's translations gone; the cell cycle count stays (R353). -/
def resetCell (pid : Nat) (q : Cell) : Cell :=
  { q with
    pmc := .replicate 8 0, pms := .replicate 8 0, pmh := .replicate 8 0, pmcEnd := .replicate 8 0, slipH := .replicate 2 0, trcCtl := 0, bp := .replicate 2 0,
    bpi := .replicate 2 0, slots := .replicate 16 2, tlb := q.tlb.filter (·.1 != pid) }

/-- The die registers at their reset values (R5, R357, R360). -/
def resetDie (pid : Nat) (d : Die) : Die := { tlb := d.tlb.filter (·.1 != pid) }

/-- A partition reset (R5, R25, R101, R151, R299, R316, R323, R338, R379). (DEDUCED: log entry 86.) -/
def resetPart (s : State) (pid : Nat) : State :=
  let here := (s.ctxs.filter fun x => x.2.pid == pid).map (·.1)
  let away := s.saved.filter fun v => v.2.ctx.pid == pid
  let s := here.foldl evict s
  let s := away.foldl (fun s v => discard s v.1 v.2) s
  let s := { s with copies := s.copies.filter (·.pid != pid) }
  let mine (t : Track) : Bool := match t with
    | .copy _ p _ => p == pid
    | .stores p _ _ _ _ => p == pid
  let s := { s with cells := s.cells.map fun (i, q) => (i, { q with tracker := q.tracker.filter (!mine ·) }) }
  let s := (partChans s pid).foldl (fun s i =>
    let ch := s.chan i
    let lost := (ch.transit.filter (!·.close)).length
    let s := writeBack (s.setChan i { ch with transit := [], wcount := ch.wcount - BitVec.ofNat 64 lost }) i
    { s with chans := drop s.chans i }) s
  let s := { s with
    launches := s.launches.filter (·.pid != pid),
    bars := s.bars.map fun (x : (Nat × Nat) × Barrier) => (x.1, if x.2.owner = some pid then { owner := some pid } else x.2) }
  let s := { s with
    cells := s.cells.map fun (i, q) => (i, resetCell pid q), dies := s.dies.map fun (i, d) => (i, resetDie pid d),
    dev := { s.dev with trgClear := true } }
  let p := s.part pid
  s.setPart pid { p with
    root := 0, rdt := 0, serial := 0, chanBase := 0, chanLimit := 0, siltPool := 0, siltLim := 0, siltUsed := [], nextSeq := 1,
    halted := false, replaying := false, diverged := none, broken := false }

/-! ### CLASS, DUMP, CONFIG, LOESS, ATTEST -/

/-- CLASS (R326): a pending launch gets another class. -/
def startClass (s : State) (c : Command) : State × Begun :=
  let k := Cmd.field c 22 1
  if 3 < k then badCmd s
  else okCmd { s with launches := s.launches.map fun l =>
    if l.pid = Cmd.pid c ∧ l.seq = Cmd.field c 16 6 ∧ l.phase = .pending ∧ l.cls ≠ k then { l with cls := k, since := none } else l }

/-- A fabric write of the dump of a context; false where it completes with an error status (R370). -/
def fabPut (base : Word) (s : State) (off : Nat) (b : List (Byte × Bool)) : State × Bool :=
  let a := base + BitVec.ofNat 64 off
  let o := (fld a 0 48 : BitVec 48).toNat
  if (fld a 48 16 : BitVec 16) != s.dev.devNum then (s, !Config.freeRemoteFails (s.free a.toNat))
  else if Config.hbmEnd < o + b.length then (s, false)
  else
    let badKeys := ((List.range b.length).zip b).filterMap fun (i, x) => if x.2 then some (o + i) else none
    (s.write (State.at' o (b.map (·.1))) badKeys, true)

/-- The first 16 bytes of a buffer at a fabric address. -/
def fabHead (s : State) (a : Word) : Option Nat :=
  let o := (fld a 0 48 : BitVec 48).toNat
  if (fld a 48 16 : BitVec 16) != s.dev.devNum then
    some (leNat ((List.range 16).map fun i => (Config.freeRemote (s.free (a.toNat + i))).setWidth 8))
  else if Config.hbmEnd < o + 16 then none else some (s.rawNat o 16)

/-- The bytes of a saved context's dump stand in the cell, or in the image that was saved with it. -/
def withImage (s : State) (c : CtxId) (v : Saved) : State :=
  if v.pinned then s
  else match s.saved.find? fun w => w.1.cell == c.cell && !w.2.pinned && w.2.batch == v.batch && w.2.image with
    | some w => putImage s c.cell w.2.img w.2.imgBad
    | none => s

/-- DUMP of a stopped or saved context (R370). (DEDUCED: log entry 90.) -/
def startDump (s : State) (c : Command) : State × Begun :=
  let a := Cmd.word c 24
  match named c with
  | none => badCmd s
  | some f => match s.saved.filter fun v => v.2.ctx.pid == Cmd.pid c && f v.1 with
    | [(i, v)] =>
      if a &&& 63 != 0 then badCmd s
      else match fabHead s a with
        | none => badCmd s
        | some h =>
          let cap := max 64 (h % 2 ^ 64)
          let all := dumpRecords (h / 2 ^ 64)
          let req := 64 + (all.map fun r => 16 + r.2.2).sum
          let (rs, _) := dumpFit cap all 64
          let src := withImage s i v
          let put (s : State) (off : Nat) (b : List (Byte × Bool)) : State × Bool := fabPut a s off b
          let rec go : List (Nat × Nat × Nat) → Nat → State → State × Nat × Bool
            | [], e, s => (s, e, false)
            | r :: l, e, s =>
              let b := dumpRecord src i v.ctx r
              let (s', ok) := put s e b
              if ok then go l (e + b.length) s' else (s', e, true)
          let (s, len, faulted) := go rs 64 s
          let (s, ok) := put s 16 ((dumpHeader req len (cap < req) faulted 0 {}).map (·, false))
          okCmd (if ok then s else traceOf s i v.ctx.seq 7 {} 4 0 0)
    | _ => badCmd s

/-- A power of two. -/
def powerOfTwo (n : Nat) : Bool := n != 0 && n &&& (n - 1) == 0

/-- CONFIG (R379). (DEDUCED: log entry 91.) -/
def startConfig (s : State) (c : Command) : State × Begun :=
  let area := Cmd.word c 24
  let cap := Cmd.field c 40 4
  if area.toNat % 0x800000 != 0 || !powerOfTwo cap then badCmd s
  else
    let p := s.part (Cmd.pid c)
    okCmd (s.setPart (Cmd.pid c) { p with
      configured := true, areaBase := area, evBase := Cmd.word c 32, evCap := cap, evNum := 0 })

/-- LOESS (R360). -/
def startLoess (s : State) (c : Command) : State × Begun :=
  let die := Cmd.field c 16 1
  let w := Cmd.word c 24 &&& rangesMask [(39, 16), (6, 6), (5, 0)]
  let size := (fld w 0 6 : BitVec 6).toNat
  let base := (fld w 16 24 : BitVec 24).toNat * 65536
  if 4 ≤ die || size < 16 || 34 < size || base % 2 ^ size != 0 || decide (Config.hbmEnd < base + 2 ^ size) then badCmd s
  else
    let d := s.die die
    let starts := w.getLsbD 6 && !d.loess.getLsbD 6
    okCmd (s.setDie die { d with loess := w, wptr := if starts then 0 else d.wptr, lost := if starts then 0 else d.lost })

/-- ATTEST (R388): the next leaf is committed before it signs. -/
def startAttest (s : State) (c : Command) : State × Begun :=
  let i := s.dev.leaf
  if 2 ^ 20 ≤ i then (s, .done .exhausted 0)
  else
    let s := { s with dev := { s.dev with leaf := i + 1 } }
    okCmd (fabWrite s (Cmd.word c 48) (Config.quoteBytes i (BitVec.ofNat 256 (Cmd.field c 16 32)) s.dev.log))

/-! ### Starting and completing -/

/-- Starts a command (R375, R376). -/
def startCmd (s : State) (c : Command) : State × Begun :=
  let pid := Cmd.pid c
  if !Cmd.reservedZero c then badCmd s
  else match Cmd.op c with
    | 1 => startLaunch s c
    | 2 => startTable s c
    | 3 => startTrigger s c
    | 4 => startRecord s c
    | 5 => if logOk c then (s, .goes s.dev.time.toNat) else badCmd s
    | 6 => (requestPreempt s pid, .goes 0)
    | 7 => startResume s pid
    | 8 => startStop s c
    | 9 => startDiscard s c
    | 10 => okCmd (resetPart s pid)
    | 11 => startClass s c
    | 12 => startDump s c
    | 13 => startConfig s c
    | 14 => startLoess s c
    | 15 => startAttest s c
    | _ => badCmd s

/-- Moves a command on that has started, and tells its status once it is done. -/
def advanceCmd (s : State) (r : CmdRun) : State × CmdRun × Option (Status × Word) :=
  let c := r.cmd
  let pid := Cmd.pid c
  let fin (b : Bool) : State × CmdRun × Option (Status × Word) := (s, r, if b then some (.ok, 0) else none)
  match Cmd.op c with
  | 2 =>
    if !r.resumed && !s.tableOld.isEmpty then (s, r, none)
    else
      let s := if r.resumed then s else tablePost s c
      (s, { r with resumed := true }, if tableDone s pid then some (.ok, 0) else none)
  | 3 => fin (!s.dev.latchDue || s.dev.trgT.toNat != r.datum)
  | 5 =>
    if !r.resumed then
      if serialReached s pid (BitVec.ofNat 16 (Cmd.field c 16 2)) then (replayResume s c, { r with resumed := true }, none)
      else (s, r, none)
    else
      let p := s.part pid
      if p.broken then (endReplay s pid, r, some (.replayBroken, 0))
      else if !allStopped s pid then (s, r, none)
      else match p.diverged with
        | some (cell, slot, m) => (endReplay s pid, r, some (.diverged, Config.divergedResult cell slot m))
        | none => (endReplay s pid, r, some (.equal, 0))
  | 6 => fin (s.ctxs.all fun x => x.2.pid != pid || (!x.2.trap.pend && !x.2.saving))
  | 7 => fin (s.saved.all fun v => v.2.ctx.pid != pid || !v.2.resume)
  | 8 => fin (stopDone s c)
  | _ => fin true

/-- Starts a command and completes it if it is done; what remains of it. -/
def beginCmd (s : State) (c : Command) : State × Option CmdRun :=
  match startCmd s c with
  | (s, .done st res) => (complete s c st res, none)
  | (s, .goes d) =>
    let r : CmdRun := { cmd := c, started := true, datum := d }
    match advanceCmd s r with
    | (s, _, some (st, res)) => (complete s c st res, none)
    | (s, r, none) => (s, some r)

/-- Runs the ordered commands of a partition: each starts when the one before it has completed (R377). -/
def runOrdered : Nat → Nat → State → State
  | 0, _, s => s
  | f + 1, pid, s =>
    match (s.part pid).ordered with
    | [] => s
    | r :: rest =>
      let next (s : State) : State := runOrdered f pid (s.setPart pid { s.part pid with ordered := rest })
      let keep (s : State) (r : CmdRun) : State := s.setPart pid { s.part pid with ordered := r :: rest }
      if !r.started then
        match beginCmd s r.cmd with
        | (s, none) => next s
        | (s, some r) => keep s r
      else match advanceCmd s r with
        | (s, _, some (st, res)) => next (complete s r.cmd st res)
        | (s, r, none) => keep s r

/-- Moves the commands of a partition on. -/
def runCmds (s : State) (pid : Nat) : State :=
  let step (acc : State × List CmdRun) (r : CmdRun) : State × List CmdRun :=
    match advanceCmd acc.1 r with
    | (s, _, some (st, res)) => (complete s r.cmd st res, acc.2)
    | (s, r, none) => (s, acc.2 ++ [r])
  let (s, l) := (s.part pid).unordered.foldl step (s, [])
  let s := s.setPart pid { s.part pid with unordered := l }
  runOrdered ((s.part pid).ordered.length + 1) pid s

/-- A command arrives at the port (R377). -/
def arriveCmd (s : State) (c : Command) : State :=
  let pid := Cmd.pid c
  let s := if Cmd.atOnce c then
      match beginCmd s c with
      | (s, none) => s
      | (s, some r) => s.setPart pid { s.part pid with unordered := (s.part pid).unordered ++ [r] }
    else s.setPart pid { s.part pid with ordered := (s.part pid).ordered ++ [{ cmd := c }] }
  runCmds s pid

/-- The event of a command: with `flag` clear the command of the event arrives, with `flag` set the commands of partition `n` move on. -/
def cmdEvent (op : Nat) (s : State) : Host.Outcome State Fault Refusal :=
  .next (if s.ev.flag then runCmds s s.ev.n else arriveCmd s (Cmd.withOp s.ev.cmd op))

/-- CMD_LAUNCH (R315, R317, R375). -/
def execCmdLaunch (s : State) : Host.Outcome State Fault Refusal := cmdEvent 1 s
/-- CMD_TABLE (R346, R375). -/
def execCmdTable (s : State) : Host.Outcome State Fault Refusal := cmdEvent 2 s
/-- CMD_TRIGGER (R358, R375). -/
def execCmdTrigger (s : State) : Host.Outcome State Fault Refusal := cmdEvent 3 s
/-- CMD_RECORD (R371, R375). -/
def execCmdRecord (s : State) : Host.Outcome State Fault Refusal := cmdEvent 4 s
/-- CMD_REPLAY (R373, R375). -/
def execCmdReplay (s : State) : Host.Outcome State Fault Refusal := cmdEvent 5 s
/-- CMD_PREEMPT (R339, R375). -/
def execCmdPreempt (s : State) : Host.Outcome State Fault Refusal := cmdEvent 6 s
/-- CMD_RESUME (R323, R343, R375). -/
def execCmdResume (s : State) : Host.Outcome State Fault Refusal := cmdEvent 7 s
/-- CMD_STOP (R367, R375). -/
def execCmdStop (s : State) : Host.Outcome State Fault Refusal := cmdEvent 8 s
/-- CMD_DISCARD (R338, R375). -/
def execCmdDiscard (s : State) : Host.Outcome State Fault Refusal := cmdEvent 9 s
/-- CMD_RESET (R375). -/
def execCmdReset (s : State) : Host.Outcome State Fault Refusal := cmdEvent 10 s
/-- CMD_CLASS (R326, R375). -/
def execCmdClass (s : State) : Host.Outcome State Fault Refusal := cmdEvent 11 s
/-- CMD_DUMP (R370, R375). -/
def execCmdDump (s : State) : Host.Outcome State Fault Refusal := cmdEvent 12 s
/-- CMD_CONFIG (R375, R379). -/
def execCmdConfig (s : State) : Host.Outcome State Fault Refusal := cmdEvent 13 s
/-- CMD_LOESS (R360, R375). -/
def execCmdLoess (s : State) : Host.Outcome State Fault Refusal := cmdEvent 14 s
/-- CMD_ATTEST (R375, R388). -/
def execCmdAttest (s : State) : Host.Outcome State Fault Refusal := cmdEvent 15 s

/-- REPLAY_WATCHDOG_EXPIRY (R373): the event's `n` is the partition, whose replay has waited for its serial as long as firmware allows. -/
def execReplayWatchdogExpiry (s : State) : Host.Outcome State Fault Refusal :=
  let pid := s.ev.n
  match (s.part pid).ordered with
  | r :: rest =>
    if r.started && Cmd.op r.cmd == 5 && !r.resumed && decide (r.datum + 1000 * s.dev.replayBound ≤ s.dev.time.toNat) then
      let s := s.setPart pid { s.part pid with ordered := rest }
      .next (runCmds (complete s r.cmd .replayStaleTable 0) pid)
    else .next s
  | [] => .next s

/-! ### Fabric accesses (R16, R17, R374) -/

/-- First offset of the control regions. -/
def ctlBase : Nat := 0x800000000000

/-- A byte of the device-scope registers, none for an unassigned number. (DEDUCED: log entry 95.) -/
def regByte (s : State) (o : Nat) : Option Byte :=
  let n := 0x400 + o / 8
  if n = 0x400 ∨ n = 0x410 ∨ n = 0x411 ∨ n = 0x412 ∨ (0x480 ≤ n ∧ n < 0x4A0) then
    some (fld (outerCsr s ⟨0, 0⟩ 0 n) (8 * (o % 8)) 8)
  else none

/-- A byte that a fabric read finds with its poison, none where the offset is reserved or cannot be read. -/
def fabByte (s : State) (off : Nat) : Option (Byte × Bool) :=
  if off < Config.hbmEnd then some (s.byte off, s.bad off)
  else if ctlBase + 0x10000 ≤ off ∧ off < ctlBase + 0x20000 then
    let o := off - (ctlBase + 0x10000)
    match s.dev.log[o / 64]? with
    | some e => some (fld e (8 * (o % 64)) 8, false)
    | none => some (Config.freeFabricByte (s.free o), false)
  else if ctlBase + 0x20000 ≤ off ∧ off < ctlBase + 0x20800 then
    (regByte s (off - (ctlBase + 0x20000))).map (·, false)
  else none

/-- All of some optional values. -/
def allSome {α : Type} : List (Option α) → Option (List α)
  | [] => some []
  | none :: _ => none
  | some a :: l => (allSome l).map (a :: ·)

/-- An access completes with status ERR and does nothing else (R374). -/
def fabErr (s : State) : State := { s with dev := { s.dev with fabErr := true, fabResult := [], fabBad := false } }

/-- FABRIC_ACCESS (R16, R17, R374): the event's `fab`. A walk may still read what a write replaces (R33), and a descriptor may name a new endpoint
(R125). -/
def execFabricAccess (s : State) : Host.Outcome State Fault Refusal :=
  match s.ev.fab with
  | .read off len =>
    let inOne := decide (off + len ≤ Config.hbmEnd) || (decide (ctlBase ≤ off) && off / 0x10000 == (off + len - 1) / 0x10000)
    match if inOne then allSome ((List.range len).map fun i => fabByte s (off + i)) else none with
    | none => .next (fabErr s)
    | some l => .next { s with dev := { s.dev with fabErr := false, fabResult := l.map (·.1), fabBad := l.any (·.2) } }
  | .write off data =>
    let done (s : State) : State := { s with dev := { s.dev with fabErr := false, fabResult := [], fabBad := false } }
    if off + data.length ≤ Config.hbmEnd then
      let old := State.at' off ((List.range data.length).map fun i => s.hbmByte (off + i))
      .next (done (learnEnds ({ s with tableOld := old :: s.tableOld }.writeRaw off data) off data.length))
    else if off = ctlBase ∧ data.length = 64 then .next (done (arriveCmd s (BitVec.ofNat 512 (leNat data))))
    else .next (fabErr s)

end Sys2Proof.Machine
end

