-- ==== Sys2Proof/Machine/Platform.lean ====
section
/-! DEFINITION. The platform: power and boot (R386 to R388), islands, lock groups and clamps (R383 to R385), the slot table (R299), and soft
errors (R40, R349 to R351). -/

namespace Sys2Proof.Machine

/-! ### Power and boot -/

/-- The device as power leaves it: the board flash keeps the attestation leaf and the minimum version (R386, R388); the pod's time base runs
on (R381). (DEDUCED: log entry 98.) -/
def unpowered (s : State) : State :=
  { fresh := s.fresh, agenda := s.agenda, ev := s.ev, dev := {
      devNum := s.dev.devNum, time := s.dev.time, powered := false, booted := false, leaf := s.dev.leaf,
      minVersion := s.dev.minVersion } }

/-- POWER_LOSS (R388). -/
def execPowerLoss (s : State) : Host.Outcome State Fault Refusal := .next (unpowered s)

/-- A configuration image that the hardware refuses: it sets a LIST bit of DISC.EXTL without the resident routine of that opcode (R231). -/
def unroutined (b : BootImage) : Bool :=
  (List.range 32).any fun n => b.extl.getLsbD n && (find? b.routines (BitVec.ofNat 8 (0xE0 + n))).isNone

/-- What firmware sets at boot from the configuration image: MEM.CMETA (R48), DISC.EXTL and the resident routines (R231, R335). -/
def configure (d : Dev) (b : BootImage) : Dev :=
  { d with cmeta := b.cmeta &&& bitMask 39 24, extl := zx b.extl, routines := b.routines, extDests := b.dests, region := b.region }

/-- POWER_ON (R386, R387): the event's `n` and `m` are the versions of the firmware and of the configuration image, `boot` what that image holds. An
image that fails its verification, is too old, or that the hardware refuses, leaves the device in recovery. (DEDUCED: log entry 98.) -/
def execPowerOn (s : State) : Host.Outcome State Fault Refusal :=
  let s := unpowered s
  let b := s.ev.boot
  let ok := s.dev.minVersion ≤ s.ev.n && s.dev.minVersion ≤ s.ev.m && Config.imageVerifies (s.free 0) && Config.imageVerifies (s.free 1) &&
    !unroutined b
  let third := if b.routines.isEmpty then [] else [logEntry (Config.imageDigest (s.free 2)) 3 2]
  let log := if ok then [logEntry (Config.imageDigest (s.free 0)) 1 0, logEntry (Config.imageDigest (s.free 1)) 2 1] ++ third else []
  let d := { s.dev with powered := true, booted := ok, log := log }
  .next { s with dev := if ok then configure d b else d }

/-! ### Islands -/

/-- The compute islands that share a lock group with island `n`; any other island stands alone (R384). -/
def groupMates (s : State) (n : Nat) : List Nat :=
  if n < 12 then (List.range 12).filter fun i => (s.island i).group == (s.island n).group else [n]

/-- Sets the frequency of islands. -/
def setFreq (s : State) (l : List Nat) (f : Island → BitVec 16) : State :=
  l.foldl (fun s i => s.setIsland i { s.island i with freq := f (s.island i) }) s

/-- The lower of a frequency and the event's, in the range of R383. (DEDUCED: log entry 96.) -/
def clampTo (v f : BitVec 16) : BitVec 16 := if f.toNat ≤ v.toNat then f else if v.toNat < 600 then 600 else v

/-- The SRAM islands under a compute island, and the compute islands above an SRAM island (R384). -/
def sramUnder (n : Nat) : List Nat := [12 + 2 * (n / 3), 13 + 2 * (n / 3)]
def computeOver (n : Nat) : List Nat := (List.range 3).map (3 * ((n - 12) / 2) + ·)

/-- Some island of a lock group is clamped. -/
def clamped (s : State) (l : List Nat) : Bool := l.any fun i => (s.island i).cli || (s.island i).clt

/-- The lower of two frequencies. -/
def lower (a b : BitVec 16) : BitVec 16 := if a.toNat ≤ b.toNat then a else b

/-- The highest frequency that the SRAM islands under some compute islands allow (R384). -/
def sramCap (s : State) (l : List Nat) : BitVec 16 := (l.flatMap sramUnder).foldl (fun f k => lower f (s.island k).freq) 2400

/-- Lowers the lock groups above an SRAM island to its frequency (R384). -/
def capAbove (s : State) (n : Nat) : State :=
  (computeOver n).foldl (fun s k => setFreq s (groupMates s k) fun i => lower i.freq (s.island n).freq) s

/-- Firmware's target takes effect on a lock group that is not clamped, as far as the SRAM islands under it allow (R384, R385). -/
def aim (s : State) (l : List Nat) : State :=
  if clamped s l then s else let cap := sramCap s l; setFreq s l fun i => lower i.target cap

/-- A clamp engages on island `n` (R385): the frequency falls to `v` for its whole lock group, no compute island outruns the SRAM under it (R384), and
the host is told. -/
def engage (s : State) (n : Nat) (thermal : Bool) (v : BitVec 16) : State :=
  if 32 ≤ n then s
  else
    let s := setFreq s (groupMates s n) fun i => clampTo v i.freq
    let s := if 12 ≤ n && n < 20 then capAbove s n else s
    let i := s.island n
    tellAll (s.setIsland n (if thermal then { i with clt := true } else { i with cli := true })) 6 (BitVec.ofNat 8 n)

/-- CURRENT_CLAMP (R385): the event's `n` is the island, `val` the frequency that the hardware takes. -/
def execCurrentClamp (s : State) : Host.Outcome State Fault Refusal := .next (engage s s.ev.n false s.ev.val)

/-- THERMAL_CLAMP (R385). -/
def execThermalClamp (s : State) : Host.Outcome State Fault Refusal := .next (engage s s.ev.n true s.ev.val)

/-- CLAMP_RELEASE (R385): the event's `n` is the island, `flag` the thermal clamp; firmware's target holds again once no island of the group
is clamped, and on the lock groups above an SRAM island that runs faster again. -/
def execClampRelease (s : State) : Host.Outcome State Fault Refusal :=
  let n := s.ev.n
  if 32 ≤ n then .next s
  else
    let i := s.island n
    let s := s.setIsland n (if s.ev.flag then { i with clt := false } else { i with cli := false })
    if n < 12 then .next (aim s (groupMates s n))
    else if clamped s [n] then .next s
    else
      let s := setFreq s [n] (·.target)
      .next (if n < 20 then (computeOver n).foldl (fun s k => aim s (groupMates s k)) s else s)

/-- THERMAL_SHUTDOWN (R385): every partition stops as RESET does, and power is to be removed. -/
def execThermalShutdown (s : State) : Host.Outcome State Fault Refusal :=
  let pids := (s.parts.map (·.1) ++ s.ctxs.map (·.2.pid) ++ s.saved.map (·.2.ctx.pid)).eraseDups
  let s := pids.foldl resetPart s
  .next { s with dev := { s.dev with powerOff := true } }

/-- A frequency target that firmware can set on some islands (R383, R384). -/
def targetFits (s : State) (l : List Nat) (v : BitVec 16) : Bool :=
  decide (600 ≤ v.toNat) && decide (v.toNat ≤ 2400) && l.all fun n =>
    if n < 12 then (sramUnder n).all fun k => decide (v.toNat ≤ (s.island k).freq.toNat)
    else if n < 20 then (computeOver n).all fun k => decide ((s.island k).freq.toNat ≤ v.toNat)
    else true

/-- No cell of an island holds a context (R384). -/
def islandIdle (s : State) (n : Nat) : Bool := s.ctxs.all fun x => islandOf x.1.cell != n

/-- A compute island joins a lock group: it takes the group's target; where it is clamped the whole group falls to its frequency, and it takes the
group's frequency where not (R384, R385). -/
def joinGroup (s : State) (n : Nat) (g : BitVec 4) : State :=
  let i := s.island n
  match (List.range 12).find? fun k => k != n && (s.island k).group == g with
  | none => s.setIsland n { i with group := g }
  | some k =>
    let s := s.setIsland n { i with group := g, target := (s.island k).target, freq := (s.island k).freq }
    if i.cli || i.clt then setFreq s (groupMates s n) fun x => lower x.freq i.freq else s

/-- A compute island can run at the frequency of the lock group that it joins (R384). -/
def joinFits (s : State) (n : Nat) (g : BitVec 4) : Bool :=
  match (List.range 12).find? fun k => k != n && (s.island k).group == g with
  | none => true
  | some k => (s.island k).freq.toNat ≤ (sramCap s [n]).toNat && (s.island k).target.toNat ≤ (sramCap s [n]).toNat

/-- LOCK_GROUP_FREQUENCY_CHANGE (R384): the event's `n` is the island. With `flag` a compute island moves to group `grp`; without it firmware
sets the frequency target `val` for the whole lock group. -/
def execLockGroupFrequencyChange (s : State) : Host.Outcome State Fault Refusal :=
  let n := s.ev.n
  if 32 ≤ n then .next s
  else if s.ev.flag then
    .next (if 12 ≤ n || 12 ≤ s.ev.grp.toNat || !islandIdle s n || !joinFits s n s.ev.grp then s else joinGroup s n s.ev.grp)
  else
    let l := groupMates s n
    if !targetFits s l s.ev.val then .next s
    else
      let s := l.foldl (fun s k => s.setIsland k { s.island k with target := s.ev.val }) s
      .next (if clamped s l then setFreq s l fun i => clampTo s.ev.val i.freq else setFreq s l fun _ => s.ev.val)

/-- SLOT_TABLE_WRITE (R299): entry `grp` of the slot table of cell `n` becomes `val`. -/
def execSlotTableWrite (s : State) : Host.Outcome State Fault Refusal :=
  let q := s.cell s.ev.n
  let e := s.ev.grp
  .next (s.setCell s.ev.n { q with slots := q.slots.set e.toFin (fld s.ev.val 0 2) e.toFin.isLt })

/-! ### Soft errors (R40, R349 to R351) -/

/-- The storage kind of R350. -/
def SoftSpace.kindOf : SoftSpace → Nat
  | .hbm => 0 | .scratch => 1 | .acc => 2 | .tile => 3 | .scalar | .vector | .file _ => 4 | .queue | .loads | .stores | .entries => 5 | .cache | .tlb => 6

/-- An error in storage that belongs to a cell, or in a register or queue of one of its contexts. -/
def onCell : SoftSpace → Bool
  | .hbm => false
  | _ => true

/-- Poisons what lies in a context: a word that was not poisoned counts (R357). (DEDUCED: log entry 80.) -/
def poisonCtx (s : State) (f : Ctx → Ctx) : State :=
  let x := s.cx s.ev.ctx
  if s.resident s.ev.ctx && f x != x then countDie (s.setCx s.ev.ctx (f x)) (dieOf s.ev.ctx.cell) 8 else s

/-- Word `n` of entry `k` of a neighbour queue is poisoned. -/
def poisonEntry (l : List NqEntry) (k n : Nat) : List NqEntry :=
  match l[k]? with
  | some e => l.set k { e with bad := e.bad ||| (1 <<< (n % 64)) }
  | none => l

/-- Word `n` of entry `k` of the load data queue is poisoned; a tile's word is delivered as it stands there. -/
def poisonLoad (l : List Load) (k n : Nat) : List Load :=
  match l[k]? with
  | some e =>
    let key := (e.cells.map (·.1))[8 * n]?
    l.set k (match key with
      | some a => { e with badCells := if e.badCells.contains a then e.badCells else e.badCells ++ [a] }
      | none => { e with bad := e.bad ||| (1 <<< (n % 64)) })
  | none => l

/-- Entry `k` of the store data queue is poisoned. -/
def poisonStore (l : List Entry) (k : Nat) : List Entry :=
  match (l.filter (·.passed))[k]? with
  | some e => l.map fun x => if x.kind == .instr && x.id == e.id then { x with dataBad := true } else x
  | none => l

/-- Entry `k` of the queue that `q` numbers (1 L, 2 C, 3 S) is poisoned. -/
def poisonQueue (x : Ctx) (q k : Nat) : Ctx :=
  let f (l : List Entry) : List Entry := match l[k]? with
    | some e => l.set k { e with dataBad := true }
    | none => l
  match q with
  | 1 => { x with qL := f x.qL }
  | 2 => { x with qC := f x.qC }
  | 3 => { x with qS := f x.qS }
  | _ => x

/-- A parity error discards the translations that cover address `n` from the TLBs of a context, its cell, its die and the channels that it
reads (R344, R351). -/
def dropCovering (s : State) (c : CtxId) (n : Nat) : State :=
  let keep (e : TlbEntry) : Bool := e.outside [(n, 1)]
  let q := s.cell c.cell
  let d := s.die (dieOf c.cell)
  let s := (s.setCell c.cell { q with tlb := q.tlb.filter fun e => keep e.2 }).setDie (dieOf c.cell) { d with tlb := d.tlb.filter fun e => keep e.2 }
  if s.resident c then
    let x := s.cx c
    let drop (k : ChanId × Chan) : ChanId × Chan := if readsChan x k.1 then (k.1, { k.2 with tlb := k.2.tlb.filter keep }) else k
    let s : State := { s with chans := s.chans.map drop }
    s.setCx c { x with tlb := x.tlb.filter keep, stlb := x.stlb.map (·.filter keep) }
  else s

/-- SOFT_ERROR (R349, R351): `flag` says that it is corrected. One that is not poisons the unit at the flat key `n` of HBM or of cell storage, or word
`n` of register `m` of the event's `ctx`, of entry `grp` of its neighbour queue `m`, of entry `m` of its load or store data queue, or of entry `m` of its queue `grp` (1 L, 2 C, 3 S). An error in a cache
or a TLB drops the line or entry and is corrected. -/
def execSoftError (s : State) : Host.Outcome State Fault Refusal :=
  let n := s.ev.n
  let m := s.ev.m
  let c := s.ev.ctx
  let fixed (s : State) : State := corrected s c (onCell s.ev.space) (SoftSpace.kindOf s.ev.space)
  .next (match s.ev.space with
    | .cache =>
      let q := s.cell c.cell
      fixed (s.setCell c.cell { q with
        dcache := q.dcache.filter (·.1 != n / 64 * 64), icache := q.icache.filter (·.1 != n / 8 * 8) })
    | .tlb => fixed (dropCovering s c n)
    | sp =>
      if s.ev.flag then fixed s
      else match sp with
        | .scalar => poisonCtx s fun x => poisonS x (BitVec.ofNat 6 m)
        | .vector => poisonCtx s fun x => if h : m < 32 then
            { x with v := x.v.set m { x.v[m] with bad := x.v[m].bad ||| (1 <<< (n % 64)) } h } else x
        | .file f => poisonCtx s fun x => { x with badRegs := if x.badRegs.contains (f, m) then x.badRegs else x.badRegs ++ [(f, m)] }
        | .queue => poisonCtx s fun x => if h : m < 4 then { x with nq := x.nq.set m (poisonEntry x.nq[m] s.ev.grp.toNat n) h } else x
        | .loads => poisonCtx s fun x => { x with loads := poisonLoad x.loads m n }
        | .stores => poisonCtx s fun x => { x with qS := poisonStore x.qS m }
        | .entries => poisonCtx s fun x => poisonQueue x s.ev.grp.toNat m
        | .hbm | .scratch | .acc | .tile | .cache | .tlb => s.poisonUnit n)

end Sys2Proof.Machine
end

