-- ==== Sys2Proof/Machine/Firmware.lean ====
section
/-! DEFINITION. What firmware sets through the control complex, which no instruction and no host command reaches. -/

namespace Sys2Proof.Machine

/-- SILT.POOL and SILT.LIM of a partition (R123), the ageing threshold of classes 2 and 3 (R325), the threshold of corrected errors (R349), and the bound
of the replay watchdog, which lies from 100 µs to 100 ms (R373). -/
def setFirmware (f : Firmware) (s : State) : State :=
  match f with
  | .siltPool pid w => s.setPart pid { s.part pid with siltPool := w &&& bitMask 55 12 }
  | .siltLim pid w => s.setPart pid { s.part pid with siltLim := w }
  | .ageing cls us =>
    if cls = 2 then { s with dev := { s.dev with ageing2 := us } } else if cls = 3 then { s with dev := { s.dev with ageing3 := us } } else s
  | .softLimit n => { s with dev := { s.dev with softLimit := n } }
  | .replayBound us => if 100 ≤ us ∧ us ≤ 100000 then { s with dev := { s.dev with replayBound := us } } else s

end Sys2Proof.Machine
end

