-- ==== Sys2Proof/Machine/Fetch.lean ====
section
/-! DEFINITION. Fetching an instruction (R24, R335, R398), which contexts may route (R129, R159, R230, R340), and what routing an instruction leaves
beside its effect: counts (R355), heads that acted (R356) and breakpoints (R366). -/

namespace Sys2Proof.Machine

/-! ### Fetch -/

/-- The words that a fetch of a physical address may return (R398): the one in memory, those that stood there since the cell's instruction cache was
emptied, and the one fetched since. -/
def fetchWords (s : State) (cell : Nat) (cmp : BitVec 2) (pa : Nat) : List Word :=
  let q := s.cell cell
  let at? (m : List Host.Cell) : Word := BitVec.ofNat 64 (leNat ((({ s with mem := m } : State).hbmRead cmp pa 8).map (·.1)))
  ((s.mem :: s.past.take (s.past.length - q.emptied)).map at? ++ (find? q.icache pa).toList).eraseDups

/-- A word of a physical address through the cell's instruction cache; a poisoned one raises UNCORRECTED of kind 6 (R350). (DEDUCED: log entry 42.) -/
def fetchAt (s : State) (cell : Nat) (cmp : BitVec 2) (va : Word) (pa : Nat) : Except Raise (Word × State) :=
  if (s.hbmRead cmp pa 8).any (·.2) then .error (.fatal .uncorrected { addr := va56 va, sub := 6 })
  else
    let w := match fetchWords s cell cmp pa with
      | [w] => w
      | l => l.getD (Config.freeFetch (s.free pa) % l.length) 0
    let q := s.cell cell
    .ok (w, s.setCell cell { q with icache := put q.icache pa w })

/-- The instruction word at the executing context's PC: through its translation, but for a resident routine, which stands at physical addresses
(R335). -/
def fetch (s : State) : Except Raise (Word × State) :=
  let x := s.me
  if x.trap.emu then fetchAt s s.cur.cell 0 x.pc x.pc.toNat
  else if outOfRange x.pc 8 then .error (rangeFault x.pc)
  else match translate s s.cur x.pc .fetch with
    | .error f => .error (match walkFault x.pc f with
      | .fatal .uncorrected i => .fatal .uncorrected { i with sub := 6 }
      | r => r)
    | .ok l => fetchAt (useOne s s.cur x.pid .seq .fetch x.pc) s.cur.cell l.entry.cmp x.pc l.pa

/-! ### Routing -/

/-- The entry is a channel read, an acquire once it returns (R111, R129). -/
def isAcquire : Instr → Bool
  | .chrd _ | .chtry _ | .chtag _ => true
  | _ => false

/-- The sequencer of a context may route: it runs, it has come to no point at which a pre-emption or a stop takes it, and no save waits for it (R339,
R340, R367), no entry has stopped routing (R181, R230), and no acquire is outstanding (R129). -/
def canRoute (x : Ctx) : Bool :=
  (x.phase == .running || x.phase == .retiring) && !x.saveNow && !(x.trap.pend && atPoint x) && !(stopDue x && atBoundary x) &&
    (x.qL ++ x.qC ++ x.qS).all (!·.stop) &&
    x.qL.all (fun e => e.kind != .instr || !isAcquire e.i) && x.loads.all fun l => l.landed || !isAcquire l.i

/-- A context may route in this cycle of its cell: the sequencer routes for one context, up to four instructions (R159). -/
def routesNow (s : State) (c : CtxId) : Bool :=
  canRoute (s.cx c) && decide ((s.cx c).routed < 4) && ((s.cx ⟨c.cell, 1 - c.slot⟩).routed == 0)

/-- Breakpoint `b` of the cell matches the instruction at the PC of the context (R366). -/
def breakMatches (s : State) (c : CtxId) (i : Instr) (b : Fin 2) : Bool :=
  let q := s.cell c.cell
  let x := s.cx c
  let w := q.bp[b]
  let it := iterationOf x (clkOf i)
  w.getLsbD 0 && (if w.getLsbD 1 then c.slot == 1 else c.slot == 0) && x.pc == (w &&& bitMask 55 3) &&
    (!w.getLsbD 2 || (it.loop == fld w 56 3 && it.pipe == w.getLsbD 59 && it.stg == fld w 60 4 && it.iter == q.bpi[b]))

/-- The record of a matching breakpoint (R364, R366). -/
def breakRecord (s : State) (c : CtxId) (i : Instr) (b : Fin 2) : State :=
  if breakMatches s c i b then
    let x := s.cx c
    traceOf s c x.seq 10 (iterationOf x (clkOf i)) (BitVec.ofNat 8 b.val) x.pc 0
  else s

/-- A matching breakpoint requests a precise stop (R366). -/
def breakHit (s t : State) (c : CtxId) (i : Instr) : State :=
  if (breakMatches s c i 0 || breakMatches s c i 1) && t.resident c then t.setCx c { t.cx c with stopReq := true } else t

/-- The queue that an instruction is routed to (R158). -/
def queueOf (i : Instr) : Option Queue :=
  match i with
  | .invalidWord w => queueOfWord w
  | _ => queueOfWord (wordOf i)

/-- The entry that routing `i` placed has issued in the same step. -/
def issuedNow (x y : Ctx) (i : Instr) (q : Queue) : Bool :=
  y.nextId != x.nextId && queueOf i == some q && (x.queue q).isEmpty && (y.queue q).all fun e => e.kind != .instr || e.id != x.nextId

/-- The clock of an instruction is found absent (R179). -/
def clockAbsent (x : Ctx) (i : Instr) : Bool :=
  match presence x (clkOf i) with
  | .ok (p, _) => !p
  | .error _ => false

/-- A branch was taken, wherever its target lies, or routing goes on elsewhere than at the next word, and not by a loop's back-edge (R159). -/
def tookBranch (s : State) (x y : Ctx) (i : Instr) : Bool :=
  match i with
  | .loopRegister _ | .loopImmediate _ => false
  | .b _ | .call _ | .ret | .jmpr _ _ | .callr _ _ => true
  | .br cond a _ b _ _ => Cond.holds cond (readS s x a) (readS s x b)
  | _ => y.pc != (fallThrough x (x.pc + 8)).pc

/-- The cell whose storage a flat key belongs to. -/
def keyCell (k : Nat) : Nat :=
  if k < accBase then (k - Config.hbmEnd) / (Config.localBytes + Config.shareBytes)
  else if k < tileBase then (k - accBase) / Config.accBytes else (k - tileBase) / Config.tileBytes

/-- The die that counts a poisoned unit. (DESIGN CHOICE: log entry 116.) -/
def keyDie (k : Nat) : Nat := if k < Config.hbmEnd then 0 else dieOf (keyCell k)

/-- The part of memory that is HBM. -/
def hbmPart (m : List Host.Cell) : List Host.Cell := m.takeWhile (·.1 < Config.hbmEnd)

/-- What every step from `s` leaves beside its effect in `t`: newly poisoned words are counted (R357), and an HBM that has changed is remembered for
instruction fetches (R398). -/
def settleStep (s t : State) : State :=
  let t := if t.poison = s.poison then t else (t.poison.filter (!s.poison.contains ·)).foldl (fun t k => countDie t (keyDie k) 8) t
  if hbmPart t.mem = hbmPart s.mem then t else { t with past := s.mem :: t.past }

/-- An instruction that led from `s` to `t` has been routed or discarded: one that waits has not, nor has one of the sequencer that stopped its context; one
of a queue that faults as it issues has, and a RETIRE that ended its context. -/
def wasRouted (s t : State) (c : CtxId) (i : Instr) : Bool :=
  match find? t.ctxs c with
  | some y => if y.phase == .dying then (queueOf i).isSome else y.waiting.isNone
  | none => (i == .retire && !(s.cx c).iopen && !(s.cx c).handler) || (queueOf i).isSome

/-- Runs an instruction at the PC of a context. The records of a breakpoint that matches it come before its own (R365, R366). -/
def withBreaks (s : State) (c : CtxId) (i : Instr) (run : State → Host.Outcome State Fault Refusal) : Host.Outcome State Fault Refusal :=
  match run s with
  | .next t =>
    if (breakMatches s c i 0 || breakMatches s c i 1) && wasRouted s t c i then run (breakRecord (breakRecord s c i 0) c i 1)
    else .next t
  | o => o

/-- Counts and marks after an instruction has been routed or discarded; `s` is the state it was routed in. -/
def routed (s t : State) (c : CtxId) (i : Instr) : State :=
  let x := s.cx c
  let gone : Bool := match find? t.ctxs c with
    | none => true
    | some y => y.phase == .dying
  if gone then
    if wasRouted s t c i then
      let t := countCell t c.cell c.slot 1
      breakHit s (if i == .retire then countCell t c.cell c.slot 2 0 else t) c i
    else t
  else
    let y := t.cx c
    if y.waiting.isSome then t.setCx c { y with routed := 4 }
    else
      let t := countCell t c.cell c.slot 1
      let t := if (queueOf i).isNone && !clockAbsent x i then countCell t c.cell c.slot 2 0 else t
      let t := [Queue.l, .c, .s].foldl (fun t q => if issuedNow x y i q then countCell t c.cell c.slot 2 q.num else t) t
      let bits := [Queue.l, .c, .s].foldl (fun (m : BitVec 4) q => if issuedNow x y i q then m ||| 1 <<< q.num else m) 1
      let t := t.setCx c { t.cx c with acted := (t.cx c).acted ||| bits, routed := if tookBranch s x y i then 4 else y.routed + 1 }
      breakHit s t c i

/-- What routing an instruction leaves beside its effect. -/
def afterRoute (s t : State) (c : CtxId) (i : Instr) : State := settleStep s (routed s t c i)

end Sys2Proof.Machine
end

