-- ==== Sys2Proof/Machine/Schedule.lean ====
section
/-! DEFINITION. The schedule that the step follows where the agenda names nothing: which event comes next, and which context routes. The
spec orders events only by their conditions; every event keeps its own condition, so that no choice made here gives it an effect that it
could not have (R154 to R157, R185). -/

namespace Sys2Proof.Machine

/-- An event and what it acts on. -/
abbrev Next := Option (Instr × EvArg)

/-- The first that is something. -/
def firstOf : List (Unit → Next) → Next
  | [] => none
  | f :: l => match f () with
    | some x => some x
    | none => firstOf l

/-- Work of a resident context that can be done now. -/
def ctxEvent (s : State) (c : CtxId) (x : Ctx) : Next :=
  let ev (i : Instr) : Next := some (i, { ctx := c })
  let commits : Bool := match x.qS with
    | e :: _ => e.kind == EntryKind.sMark && commitReady s c e
    | [] => false
  if x.phase == .image then ev .scratchImageLoaded
  else if !x.scalars.isEmpty then ev .scalarAccessReturn
  else if x.loads.any (!·.landed) then ev .loadDelivery
  else if !x.stores.isEmpty then ev .storePerform
  else if (rotateDelays x).isSome then ev .delayRotation
  else if commits then ev .commit
  else if x.phase == .running && (if x.saveNow then queuesEmpty x && still s c else x.trap.pend && atPoint x) then ev .preemptionTake
  else if stopDue x && atBoundary x then ev .preciseStop
  else none

/-- The first event of any resident context. -/
def ctxEvents (s : State) : List (CtxId × Ctx) → Next
  | [] => none
  | (c, x) :: l => match ctxEvent s c x with
    | some e => some e
    | none => ctxEvents s l

/-- A copy that can move or complete: the oldest of its queue, an add-on-write in a cycle of its slot (R42, R91). -/
def copyEvent (s : State) : Next :=
  let first (k : CopyOp) : Bool :=
    ((s.copies.filter fun x => x.ctx == k.ctx && x.orphan == k.orphan && x.kind.queue == k.kind.queue).head?.map (·.id)) == some k.id
  let ready (k : CopyOp) : Bool :=
    let q := s.cell k.ctx.cell
    let now := q.cyc.toNat
    k.kind != .xaddw || decide (k.len ≤ k.done) || (now % 4 == k.slot && k.last != some now && !addHeld q)
  (s.copies.find? fun k => first k && ready k && !copyStands s k).map fun k => (.copyCompletion, { n := k.id })

/-- Work of a channel unit. -/
def chanEvent (s : State) : List (ChanId × Chan) → Next
  | [] => none
  | (i, ch) :: l =>
    let push : Bool := match ch.transit with
      | x :: _ => released s i x && (foreign s ch.reader || x.close || hasRoom ch)
      | [] => false
    if !ch.refills.isEmpty && ch.served && decide (ch.step < 2) then some (.refillLanding, { chan := i })
    else if push then some (.channelPush, { chan := i })
    else if canRefill ch then some (.refillStart, { chan := i })
    else if 0 < ch.returning && ch.writer.isSome && !foreign s ch.writer && !foreign s ch.reader then some (.creditReturn, { chan := i })
    else chanEvent s l

/-- Work of a cell's matrix unit and retirement tracker. -/
def cellEvent (s : State) : List (Nat × Cell) → Next
  | [] => none
  | (n, q) :: l =>
    let now := q.cyc.toNat
    let nest : Bool := match q.nest with
      | some run => run.next < run.total && run.ready ≤ now && !(s.cx ⟨n, run.slot⟩).saveNow && granted s n run.slot now &&
          q.engine.all fun k => decide (k.compute ≤ now)
      | none => false
    let free : Bool := q.tracker.any (Track.frees s)
    if nest then some (.nestIteration, { n := n })
    else if free then some (.retirementTrackerFree, { n := n })
    else cellEvent s l

/-- A launch whose group count can be read (R319). -/
def countEvent (s : State) : Next :=
  (s.launches.find? fun l => l.countAt.isSome && l.groups.isNone && readyButCount s l).map fun l => (.launchiCountRead, { n := l.pid, m := l.seq })

/-- A controller that has a launch to bind or to refuse (R324). -/
def admitEvent (s : State) : Next :=
  ((List.range 5).find? fun k => (candidates s k).any fun l => match placement s l with
    | none => false
    | some ps => admissible s l ps != .waits).map fun k => (.groupAdmission, { n := k })

/-- The event of a command's operation. -/
def cmdInstr : Nat → Instr
  | 1 => .cmdLaunch | 2 => .cmdTable | 3 => .cmdTrigger | 4 => .cmdRecord | 5 => .cmdReplay | 6 => .cmdPreempt | 7 => .cmdResume
  | 8 => .cmdStop | 9 => .cmdDiscard | 10 => .cmdReset | 11 => .cmdClass | 12 => .cmdDump | 13 => .cmdConfig | 14 => .cmdLoess
  | _ => .cmdAttest

/-- A command in progress that can move on. -/
def cmdMoves (s : State) (r : CmdRun) : Bool :=
  !r.started || (advanceCmd s r).2.2.isSome ||
    (Cmd.op r.cmd == 2 && !r.resumed && s.tableOld.isEmpty) ||
    (Cmd.op r.cmd == 5 && !r.resumed && serialReached s (Cmd.pid r.cmd) (BitVec.ofNat 16 (Cmd.field r.cmd 16 2)))

/-- Host commands that can move on. -/
def cmdEvents (s : State) : List (Nat × Part) → Next
  | [] => none
  | (n, p) :: l => match ((p.ordered.take 1) ++ p.unordered).find? (cmdMoves s) with
    | some r => some (cmdInstr (Cmd.op r.cmd), { n := n, flag := true })
    | none => cmdEvents s l

/-- A saved context that resumes now. -/
def resumeEvent (s : State) : Next :=
  (s.saved.find? fun v => (v.2.resume || v.2.forWatchdog) && canResume s v.1 v.2).map fun v => (.contextResume, { ctx := v.1 })

/-- The event that comes before any routing. (DESIGN CHOICE: log entry 6.) -/
def eagerEvent (s : State) : Next :=
  firstOf [fun _ => ctxEvents s s.ctxs, fun _ => copyEvent s, fun _ => chanEvent s s.chans, fun _ => cellEvent s s.cells,
    fun _ => resumeEvent s, fun _ => cmdEvents s s.parts, fun _ => countEvent s, fun _ => admitEvent s,
    fun _ => if s.dev.latchDue && decide (s.dev.trgT.toNat ≤ s.dev.time.toNat) then some (.triggerLatch, {}) else none]

/-- The context that routes next: the current one where it can, another where not. -/
def nextCtx (s : State) : Option CtxId :=
  match find? s.ctxs s.cur with
  | some _ => if routesNow s s.cur then some s.cur else (s.ctxs.find? fun y => routesNow s y.1).map (·.1)
  | none => (s.ctxs.find? fun y => routesNow s y.1).map (·.1)

/-- The cells that have something to do: those with contexts, with copies and with a busy matrix unit. -/
def busyCells (s : State) : List Nat :=
  (s.ctxs.map (·.1.cell) ++ s.copies.map (·.ctx.cell) ++ (s.cells.filter fun q => !q.2.engine.isEmpty).map (·.1)).eraseDups

/-- What follows a cell in a list, the list's head after its last and where the cell is not in it. -/
def nextAfter (n : Nat) (l : List Nat) : Option Nat :=
  match (l.dropWhile (· != n)).drop 1 with
  | m :: _ => some m
  | [] => l.head?

/-- A partition whose deadlock detector fires. -/
def deadlocked (s : State) : Option Nat := (((s.ctxs.map (·.2.pid)).eraseDups).filter (detectorFires s)).head?

/-- The event when nothing can route: the deadlock detector, a cycle of the next cell in turn, or a tick of the time base, which keeps up with
that cell's cycles: 12 cycles last 5 ns (R381). -/
def idleEvent (s : State) : Instr × EvArg :=
  match deadlocked s with
  | some p => (.deadlockDetectorFire, { n := p })
  | none => match nextAfter s.cur.cell (busyCells s) with
    | none => (.timeBaseTick, {})
    | some n =>
      if s.dev.latchDue || decide (12 * (s.dev.time.toNat + 1) ≤ 5 * (s.cell n).cyc.toNat) then (.timeBaseTick, {})
      else (.cellCycle, { n := n, ctx := ⟨n, (s.cell n).turn⟩ })

/-- The context that the schedule attends to after an idle event: that of the cell whose turn it was. -/
def attends (s : State) (i : Instr) (a : EvArg) : CtxId := if i == .cellCycle then a.ctx else s.cur

end Sys2Proof.Machine
end

