-- ==== Sys2Proof/Machine/Dispatch.lean ====
section
/-! DEFINITION. One arm per instruction or event: its meaning. -/

namespace Sys2Proof.Machine

/-- The meaning of an instruction or event in a state. -/
def exec (i : Instr) (s : State) : Host.Outcome State Fault Refusal :=
  match i with
  | .b off => Sys2Proof.Machine.execB off s
  | .br cond a ua rb ub off => Sys2Proof.Machine.execBr cond a ua rb ub off s
  | .call off => Sys2Proof.Machine.execCall off s
  | .ret => Sys2Proof.Machine.execRet s
  | .jmpr a ua => Sys2Proof.Machine.execJmpr a ua s
  | .callr a ua => Sys2Proof.Machine.execCallr a ua s
  | .loopRegister o => Sys2Proof.Machine.execLoopRegister o s
  | .loopImmediate o => Sys2Proof.Machine.execLoopImmediate o s
  | .ibegin => Sys2Proof.Machine.execIbegin s
  | .iend => Sys2Proof.Machine.execIend s
  | .launch o => Sys2Proof.Machine.execLaunch o s
  | .launchi o => Sys2Proof.Machine.execLaunchi o s
  | .succgo => Sys2Proof.Machine.execSuccgo s
  | .waitpred => Sys2Proof.Machine.execWaitpred s
  | .retire => Sys2Proof.Machine.execRetire s
  | .qpoint => Sys2Proof.Machine.execQpoint s
  | .kdefEvery k p n phase => Sys2Proof.Machine.execKdefEvery k p n phase s
  | .kdefOn k p c => Sys2Proof.Machine.execKdefOn k p c s
  | .kdefOnnot k p c => Sys2Proof.Machine.execKdefOnnot k p c s
  | .kdefUnion k p q => Sys2Proof.Machine.execKdefUnion k p q s
  | .whenScalar o => Sys2Proof.Machine.execWhenScalar o s
  | .mergeScalar o => Sys2Proof.Machine.execMergeScalar o s
  | .unionScalar p o => Sys2Proof.Machine.execUnionScalar p o s
  | .preScalar o => Sys2Proof.Machine.execPreScalar o s
  | .fbyScalar o => Sys2Proof.Machine.execFbyScalar o s
  | .currentScalar o => Sys2Proof.Machine.execCurrentScalar o s
  | .add o => Sys2Proof.Machine.execAdd o s
  | .sub o => Sys2Proof.Machine.execSub o s
  | .and o => Sys2Proof.Machine.execAnd o s
  | .or o => Sys2Proof.Machine.execOr o s
  | .xor o => Sys2Proof.Machine.execXor o s
  | .andn o => Sys2Proof.Machine.execAndn o s
  | .sll o => Sys2Proof.Machine.execSll o s
  | .srl o => Sys2Proof.Machine.execSrl o s
  | .sra o => Sys2Proof.Machine.execSra o s
  | .rotl o => Sys2Proof.Machine.execRotl o s
  | .slt o => Sys2Proof.Machine.execSlt o s
  | .sltu o => Sys2Proof.Machine.execSltu o s
  | .seq o => Sys2Proof.Machine.execSeq o s
  | .min o => Sys2Proof.Machine.execMin o s
  | .max o => Sys2Proof.Machine.execMax o s
  | .minu o => Sys2Proof.Machine.execMinu o s
  | .maxu o => Sys2Proof.Machine.execMaxu o s
  | .mul o => Sys2Proof.Machine.execMul o s
  | .mulh o => Sys2Proof.Machine.execMulh o s
  | .mulhu o => Sys2Proof.Machine.execMulhu o s
  | .div o => Sys2Proof.Machine.execDiv o s
  | .divu o => Sys2Proof.Machine.execDivu o s
  | .rem o => Sys2Proof.Machine.execRem o s
  | .remu o => Sys2Proof.Machine.execRemu o s
  | .addi o => Sys2Proof.Machine.execAddi o s
  | .andi o => Sys2Proof.Machine.execAndi o s
  | .ori o => Sys2Proof.Machine.execOri o s
  | .xori o => Sys2Proof.Machine.execXori o s
  | .slti o => Sys2Proof.Machine.execSlti o s
  | .sltiu o => Sys2Proof.Machine.execSltiu o s
  | .slli o => Sys2Proof.Machine.execSlli o s
  | .srli o => Sys2Proof.Machine.execSrli o s
  | .srai o => Sys2Proof.Machine.execSrai o s
  | .rotli o => Sys2Proof.Machine.execRotli o s
  | .movhi clk d imm => Sys2Proof.Machine.execMovhi clk d imm s
  | .clz o => Sys2Proof.Machine.execClz o s
  | .ctz o => Sys2Proof.Machine.execCtz o s
  | .popc o => Sys2Proof.Machine.execPopc o s
  | .sextb o => Sys2Proof.Machine.execSextb o s
  | .sexth o => Sys2Proof.Machine.execSexth o s
  | .sextw o => Sys2Proof.Machine.execSextw o s
  | .zextb o => Sys2Proof.Machine.execZextb o s
  | .zexth o => Sys2Proof.Machine.execZexth o s
  | .zextw o => Sys2Proof.Machine.execZextw o s
  | .movlc clk d lc => Sys2Proof.Machine.execMovlc clk d lc s
  | .shadd n o => Sys2Proof.Machine.execShadd n o s
  | .sel c o => Sys2Proof.Machine.execSel c o s
  | .csrr clk d csr => Sys2Proof.Machine.execCsrr clk d csr s
  | .csrw clk a ua csr => Sys2Proof.Machine.execCsrw clk a ua csr s
  | .csrwIscope clk a ua => Sys2Proof.Machine.execCsrwIscope clk a ua s
  | .csrwBndTags clk a ua => Sys2Proof.Machine.execCsrwBndTags clk a ua s
  | .csrwTcfg clk a ua t => Sys2Proof.Machine.execCsrwTcfg clk a ua t s
  | .csrwCtxStatus clk a ua => Sys2Proof.Machine.execCsrwCtxStatus clk a ua s
  | .csrwPmc clk a ua n => Sys2Proof.Machine.execCsrwPmc clk a ua n s
  | .csrwTrapScr clk a ua n => Sys2Proof.Machine.execCsrwTrapScr clk a ua n s
  | .trap clk code => Sys2Proof.Machine.execTrap clk code s
  | .bkpt clk code => Sys2Proof.Machine.execBkpt clk code s
  | .tret => Sys2Proof.Machine.execTret s
  | .trig clk => Sys2Proof.Machine.execTrig clk s
  | .barInit clk rb ub x ux bar => Sys2Proof.Machine.execBarInit clk rb ub x ux bar s
  | .barArrive clk d bar => Sys2Proof.Machine.execBarArrive clk d bar s
  | .barWait clk rb ub bar => Sys2Proof.Machine.execBarWait clk rb ub bar s
  | .dump clk a ua => Sys2Proof.Machine.execDump clk a ua s
  | .ldh o => Sys2Proof.Machine.execLdh o s
  | .sth o => Sys2Proof.Machine.execSth o s
  | .probe clk kind rb ub x ux imm => Sys2Proof.Machine.execProbe clk kind rb ub x ux imm s
  | .amold o => Sys2Proof.Machine.execAmold o s
  | .amost o => Sys2Proof.Machine.execAmost o s
  | .amoswap o => Sys2Proof.Machine.execAmoswap o s
  | .amocas o => Sys2Proof.Machine.execAmocas o s
  | .amoadd o => Sys2Proof.Machine.execAmoadd o s
  | .amoand o => Sys2Proof.Machine.execAmoand o s
  | .amoor o => Sys2Proof.Machine.execAmoor o s
  | .amoxor o => Sys2Proof.Machine.execAmoxor o s
  | .amomin o => Sys2Proof.Machine.execAmomin o s
  | .amomax o => Sys2Proof.Machine.execAmomax o s
  | .fence clk scope => Sys2Proof.Machine.execFence clk scope s
  | .syncls clk => Sys2Proof.Machine.execSyncls clk s
  | .lds o => Sys2Proof.Machine.execLds o s
  | .sts o => Sys2Proof.Machine.execSts o s
  | .ldv o => Sys2Proof.Machine.execLdv o s
  | .stv o => Sys2Proof.Machine.execStv o s
  | .ldvx o => Sys2Proof.Machine.execLdvx o s
  | .stvx o => Sys2Proof.Machine.execStvx o s
  | .ldt h d rb adv => Sys2Proof.Machine.execLdt h d rb adv s
  | .vperm h ty d sv us x ux => Sys2Proof.Machine.execVperm h ty d sv us x ux s
  | .aset o ln => Sys2Proof.Machine.execAset o ln s
  | .asetV o ln => Sys2Proof.Machine.execAsetV o ln s
  | .asetx o dim => Sys2Proof.Machine.execAsetx o dim s
  | .aadv o => Sys2Proof.Machine.execAadv o s
  | .aadvAbs o => Sys2Proof.Machine.execAadvAbs o s
  | .abnd h d rb ub x ux => Sys2Proof.Machine.execAbnd h d rb ub x ux s
  | .xcopyIn o => Sys2Proof.Machine.execXcopyIn o s
  | .xcopyInStrided o => Sys2Proof.Machine.execXcopyInStrided o s
  | .xcopyd o => Sys2Proof.Machine.execXcopyd o s
  | .xaddw o => Sys2Proof.Machine.execXaddw o s
  | .xaddwStrided o => Sys2Proof.Machine.execXaddwStrided o s
  | .xbcast o => Sys2Proof.Machine.execXbcast o s
  | .xbcastStrided o => Sys2Proof.Machine.execXbcastStrided o s
  | .xcopyOut o => Sys2Proof.Machine.execXcopyOut o s
  | .xcopyOutStrided o => Sys2Proof.Machine.execXcopyOutStrided o s
  | .chwr o => Sys2Proof.Machine.execChwr o s
  | .chwrI o => Sys2Proof.Machine.execChwrI o s
  | .chclose h p => Sys2Proof.Machine.execChclose h p s
  | .chrd o => Sys2Proof.Machine.execChrd o s
  | .chtry o => Sys2Proof.Machine.execChtry o s
  | .chtag o => Sys2Proof.Machine.execChtag o s
  | .chstat h d p sel => Sys2Proof.Machine.execChstat h d p sel s
  | .vadd o => Sys2Proof.Machine.execVadd o s
  | .vsub o => Sys2Proof.Machine.execVsub o s
  | .vmul o => Sys2Proof.Machine.execVmul o s
  | .vmin o => Sys2Proof.Machine.execVmin o s
  | .vmax o => Sys2Proof.Machine.execVmax o s
  | .vabs o => Sys2Proof.Machine.execVabs o s
  | .vneg o => Sys2Proof.Machine.execVneg o s
  | .vdiv o => Sys2Proof.Machine.execVdiv o s
  | .vmulh o => Sys2Proof.Machine.execVmulh o s
  | .vfma o => Sys2Proof.Machine.execVfma o s
  | .vfms o => Sys2Proof.Machine.execVfms o s
  | .vfnma o => Sys2Proof.Machine.execVfnma o s
  | .vand o => Sys2Proof.Machine.execVand o s
  | .vor o => Sys2Proof.Machine.execVor o s
  | .vxor o => Sys2Proof.Machine.execVxor o s
  | .vandn o => Sys2Proof.Machine.execVandn o s
  | .vnot o => Sys2Proof.Machine.execVnot o s
  | .vsll o => Sys2Proof.Machine.execVsll o s
  | .vsrl o => Sys2Proof.Machine.execVsrl o s
  | .vsra o => Sys2Proof.Machine.execVsra o s
  | .vrotl o => Sys2Proof.Machine.execVrotl o s
  | .vcmp cc o => Sys2Proof.Machine.execVcmp cc o s
  | .vsel o => Sys2Proof.Machine.execVsel o s
  | .vmov o => Sys2Proof.Machine.execVmov o s
  | .vaddImm o => Sys2Proof.Machine.execVaddImm o s
  | .vsubImm o => Sys2Proof.Machine.execVsubImm o s
  | .vmulImm o => Sys2Proof.Machine.execVmulImm o s
  | .vminImm o => Sys2Proof.Machine.execVminImm o s
  | .vmaxImm o => Sys2Proof.Machine.execVmaxImm o s
  | .vandImm o => Sys2Proof.Machine.execVandImm o s
  | .vorImm o => Sys2Proof.Machine.execVorImm o s
  | .vxorImm o => Sys2Proof.Machine.execVxorImm o s
  | .vandnImm o => Sys2Proof.Machine.execVandnImm o s
  | .vsllImm o => Sys2Proof.Machine.execVsllImm o s
  | .vsrlImm o => Sys2Proof.Machine.execVsrlImm o s
  | .vsraImm o => Sys2Proof.Machine.execVsraImm o s
  | .vrotlImm o => Sys2Proof.Machine.execVrotlImm o s
  | .vcmpImm cc o => Sys2Proof.Machine.execVcmpImm cc o s
  | .vmovi o => Sys2Proof.Machine.execVmovi o s
  | .vcvt dst o => Sys2Proof.Machine.execVcvt dst o s
  | .vrsum np o => Sys2Proof.Machine.execVrsum np o s
  | .vrmax o => Sys2Proof.Machine.execVrmax o s
  | .vrmin o => Sys2Proof.Machine.execVrmin o s
  | .vscan np o => Sys2Proof.Machine.execVscan np o s
  | .vrcp o => Sys2Proof.Machine.execVrcp o s
  | .vsqrt o => Sys2Proof.Machine.execVsqrt o s
  | .vrsqrt o => Sys2Proof.Machine.execVrsqrt o s
  | .vexp o => Sys2Proof.Machine.execVexp o s
  | .vexp2 o => Sys2Proof.Machine.execVexp2 o s
  | .vlog2 o => Sys2Proof.Machine.execVlog2 o s
  | .vtanh o => Sys2Proof.Machine.execVtanh o s
  | .vsigm o => Sys2Proof.Machine.execVsigm o s
  | .vcompress o => Sys2Proof.Machine.execVcompress o s
  | .vexpand o => Sys2Proof.Machine.execVexpand o s
  | .vhist o => Sys2Proof.Machine.execVhist o s
  | .vdigit o => Sys2Proof.Machine.execVdigit o s
  | .vordkey o => Sys2Proof.Machine.execVordkey o s
  | .vtopk k o => Sys2Proof.Machine.execVtopk k o s
  | .vcbdec cb o => Sys2Proof.Machine.execVcbdec cb o s
  | .vcbenc cb o => Sys2Proof.Machine.execVcbenc cb o s
  | .cbld cb o => Sys2Proof.Machine.execCbld cb o s
  | .mand o => Sys2Proof.Machine.execMand o s
  | .mor o => Sys2Proof.Machine.execMor o s
  | .mxor o => Sys2Proof.Machine.execMxor o s
  | .mandn o => Sys2Proof.Machine.execMandn o s
  | .mnot o => Sys2Proof.Machine.execMnot o s
  | .mset o => Sys2Proof.Machine.execMset o s
  | .mclr o => Sys2Proof.Machine.execMclr o s
  | .mcnt o => Sys2Proof.Machine.execMcnt o s
  | .mfirst o => Sys2Proof.Machine.execMfirst o s
  | .mtov o => Sys2Proof.Machine.execMtov o s
  | .vtom o => Sys2Proof.Machine.execVtom o s
  | .vextr o => Sys2Proof.Machine.execVextr o s
  | .vins o => Sys2Proof.Machine.execVins o s
  | .vsplat o => Sys2Proof.Machine.execVsplat o s
  | .whenVector o => Sys2Proof.Machine.execWhenVector o s
  | .mergeVector o => Sys2Proof.Machine.execMergeVector o s
  | .unionVector p o => Sys2Proof.Machine.execUnionVector p o s
  | .preVector o => Sys2Proof.Machine.execPreVector o s
  | .fbyVector o => Sys2Proof.Machine.execFbyVector o s
  | .currentVector o => Sys2Proof.Machine.execCurrentVector o s
  | .tcfg h t ty rows rlen => Sys2Proof.Machine.execTcfg h t ty rows rlen s
  | .mma o => Sys2Proof.Machine.execMma o s
  | .mcfgLoop o => Sys2Proof.Machine.execMcfgLoop o s
  | .mcfgStep o => Sys2Proof.Machine.execMcfgStep o s
  | .mcfgGstep o => Sys2Proof.Machine.execMcfgGstep o s
  | .mcfgBase o => Sys2Proof.Machine.execMcfgBase o s
  | .mcfgPitch o => Sys2Proof.Machine.execMcfgPitch o s
  | .mcfgOper o => Sys2Proof.Machine.execMcfgOper o s
  | .mcfgAcc o => Sys2Proof.Machine.execMcfgAcc o s
  | .mgo h d np => Sys2Proof.Machine.execMgo h d np s
  | .accrd o => Sys2Proof.Machine.execAccrd o s
  | .accwr o => Sys2Proof.Machine.execAccwr o s
  | .accz o => Sys2Proof.Machine.execAccz o s
  | .gset h d kind rows cols scale => Sys2Proof.Machine.execGset h d kind rows cols scale s
  | .gkey o => Sys2Proof.Machine.execGkey o s
  | .gkeyOff o => Sys2Proof.Machine.execGkeyOff o s
  | .gkeyParam o => Sys2Proof.Machine.execGkeyParam o s
  | .gctr o => Sys2Proof.Machine.execGctr o s
  | .gadv o => Sys2Proof.Machine.execGadv o s
  | .gdraw h d a rb ub => Sys2Proof.Machine.execGdraw h d a rb ub s
  | .gdrawAdv h d a rb ub => Sys2Proof.Machine.execGdrawAdv h d a rb ub s
  | .gscope h d scope => Sys2Proof.Machine.execGscope h d scope s
  | .gsave h d a => Sys2Proof.Machine.execGsave h d a s
  | .gload h d a ua => Sys2Proof.Machine.execGload h d a ua s
  | .invalidWord w => Sys2Proof.Machine.execInvalidWord w s
  | .delayRotation => Sys2Proof.Machine.execDelayRotation s
  | .commit => Sys2Proof.Machine.execCommit s
  | .copyCompletion => Sys2Proof.Machine.execCopyCompletion s
  | .loadDelivery => Sys2Proof.Machine.execLoadDelivery s
  | .storePerform => Sys2Proof.Machine.execStorePerform s
  | .channelPush => Sys2Proof.Machine.execChannelPush s
  | .refillStart => Sys2Proof.Machine.execRefillStart s
  | .refillLanding => Sys2Proof.Machine.execRefillLanding s
  | .creditReturn => Sys2Proof.Machine.execCreditReturn s
  | .deadlockDetectorFire => Sys2Proof.Machine.execDeadlockDetectorFire s
  | .checksumMismatch => Sys2Proof.Machine.execChecksumMismatch s
  | .nestIteration => Sys2Proof.Machine.execNestIteration s
  | .retirementTrackerFree => Sys2Proof.Machine.execRetirementTrackerFree s
  | .launchiCountRead => Sys2Proof.Machine.execLaunchiCountRead s
  | .groupAdmission => Sys2Proof.Machine.execGroupAdmission s
  | .scratchImageLoaded => Sys2Proof.Machine.execScratchImageLoaded s
  | .launchAgeing => Sys2Proof.Machine.execLaunchAgeing s
  | .preemptionTake => Sys2Proof.Machine.execPreemptionTake s
  | .preemptBoundExpiry => Sys2Proof.Machine.execPreemptBoundExpiry s
  | .contextResume => Sys2Proof.Machine.execContextResume s
  | .preciseStop => Sys2Proof.Machine.execPreciseStop s
  | .invalidationWatchdogExpiry => Sys2Proof.Machine.execInvalidationWatchdogExpiry s
  | .replayWatchdogExpiry => Sys2Proof.Machine.execReplayWatchdogExpiry s
  | .triggerLatch => Sys2Proof.Machine.execTriggerLatch s
  | .sampleRecord => Sys2Proof.Machine.execSampleRecord s
  | .fabricAccess => Sys2Proof.Machine.execFabricAccess s
  | .cmdLaunch => Sys2Proof.Machine.execCmdLaunch s
  | .cmdTable => Sys2Proof.Machine.execCmdTable s
  | .cmdTrigger => Sys2Proof.Machine.execCmdTrigger s
  | .cmdRecord => Sys2Proof.Machine.execCmdRecord s
  | .cmdReplay => Sys2Proof.Machine.execCmdReplay s
  | .cmdPreempt => Sys2Proof.Machine.execCmdPreempt s
  | .cmdResume => Sys2Proof.Machine.execCmdResume s
  | .cmdStop => Sys2Proof.Machine.execCmdStop s
  | .cmdDiscard => Sys2Proof.Machine.execCmdDiscard s
  | .cmdReset => Sys2Proof.Machine.execCmdReset s
  | .cmdClass => Sys2Proof.Machine.execCmdClass s
  | .cmdDump => Sys2Proof.Machine.execCmdDump s
  | .cmdConfig => Sys2Proof.Machine.execCmdConfig s
  | .cmdLoess => Sys2Proof.Machine.execCmdLoess s
  | .cmdAttest => Sys2Proof.Machine.execCmdAttest s
  | .powerOn => Sys2Proof.Machine.execPowerOn s
  | .currentClamp => Sys2Proof.Machine.execCurrentClamp s
  | .thermalClamp => Sys2Proof.Machine.execThermalClamp s
  | .thermalShutdown => Sys2Proof.Machine.execThermalShutdown s
  | .cellCycle => Sys2Proof.Machine.execCellCycle s
  | .timeBaseTick => Sys2Proof.Machine.execTimeBaseTick s
  | .scalarAccessReturn => Sys2Proof.Machine.execScalarAccessReturn s
  | .softError => Sys2Proof.Machine.execSoftError s
  | .slotTableWrite => Sys2Proof.Machine.execSlotTableWrite s
  | .lockGroupFrequencyChange => Sys2Proof.Machine.execLockGroupFrequencyChange s
  | .firmwarePreemptionRequest => Sys2Proof.Machine.execFirmwarePreemptionRequest s
  | .clampRelease => Sys2Proof.Machine.execClampRelease s
  | .powerLoss => Sys2Proof.Machine.execPowerLoss s

end Sys2Proof.Machine
end

