-- ==== Sys2Proof/Machine/Step.lean ====
section
/-! DEFINITION. One step of the device: the next thing that the agenda asks for, or else the next event of the schedule, or the next instruction of
a context. -/

namespace Sys2Proof.Machine

/-- Routes the next instruction of a context: it is fetched, decoded and executed (R159, R213). A context that has routed RETIRE goes on with
it (R186). -/
def routeStep (c : CtxId) (s : State) : Host.Outcome State Fault Refusal :=
  let s := { s with cur := c }
  if !s.resident c then .fault .noContext
  else if !routesNow s c then .next s
  else if s.me.phase == .retiring then
    match withBreaks s c .retire (exec .retire) with
    | .next t => .next (afterRoute s t c .retire)
    | o => o
  else match fetch s with
    | .error r => .next (settleStep s (raised s c s.me.pc 0 r))
    | .ok (w, s) =>
      let i := decodeInstr w
      match withBreaks s c i (exec i) with
      | .next t => .next (afterRoute s t c i)
      | o => o

/-- An event happens. -/
def eventStep (i : Instr) (a : EvArg) (s : State) : Host.Outcome State Fault Refusal :=
  if (encode i).isSome then .fault .notAnEvent
  else match exec i { s with ev := a } with
    | .next t => .next (settleStep s t)
    | o => o

/-- The device runs, or is told to power on or loses power (R386). -/
def running (s : State) : Bool :=
  (s.dev.powered && s.dev.booted) || match s.agenda with
    | .event .powerOn _ :: _ | .event .powerLoss _ :: _ => true
    | _ => false

/-- What the schedule does where the agenda names nothing. -/
def scheduled (s : State) : Host.Outcome State Fault Refusal :=
  match eagerEvent s with
  | some (i, a) => eventStep i a s
  | none => match nextCtx s with
    | some c => routeStep c s
    | none => let (i, a) := idleEvent s
      eventStep i a { s with cur := attends s i a }

/-- One step. -/
def step (s : State) : Host.Outcome State Fault Refusal :=
  let t := { s with fresh := s.fresh + 1 }
  if !running s then .fault .notRunning
  else match s.agenda with
    | .route c :: rest => routeStep c { t with agenda := rest }
    | .event i a :: rest => eventStep i a { t with agenda := rest }
    | .firmware f :: rest => .next (setFirmware f { t with agenda := rest })
    | [] => scheduled t

/-- Where a word that is loaded into a device without a program stands: at the head of page 0x1000 of partition 0. -/
def loadPc : Word := 0x1000

/-- HBM with a page table of partition 0 that maps the page at 0x1000 to 0x108000 for fetches, and a word there. -/
def loadMem (w : Word) : List Host.Cell :=
  Memory.setAll [] (State.at' 0x100000 (leBytes 8 0x104001) ++ State.at' 0x104000 (leBytes 8 0x105001) ++
    State.at' 0x105000 (leBytes 8 0x106001) ++ State.at' 0x106000 (leBytes 8 0x107001) ++ State.at' 0x107008 (leBytes 8 0x108033) ++
    State.at' 0x108000 (leBytes 8 w.toNat))

/-- The device with a program word loaded where the next step fetches: over the word at the running context's PC, or, where no context
runs, at the PC of a context that is placed on cell 0 as a launch would place it. (DESIGN CHOICE: log entry 1.) -/
def State.withFetchWord (s : State) (_nbits w : Nat) : State :=
  let word : Word := BitVec.ofNat 64 w
  let on (s : State) (c : CtxId) (pa : Nat) : State :=
    let s := s.writeRaw pa (leBytes 8 word.toNat)
    { emptyIcache s c.cell with cur := c, agenda := [.route c] }
  if s.resident s.cur then
    if s.me.trap.emu then on s s.cur s.me.pc.toNat
    else match translate s s.cur s.me.pc .fetch with
      | .ok l => on s s.cur l.pa
      | .error _ => s
  else
    let c : CtxId := ⟨0, 0⟩
    let s := { s with mem := loadMem word, poison := [] }
    let s := s.setPart 0 { s.part 0 with root := 0x100001 }
    { emptyIcache (s.setCx c { pc := loadPc, entry := loadPc }) c.cell with cur := c, agenda := [.route c] }

end Sys2Proof.Machine
end

