-- ==== Sys2Proof/Safety.lean ====
section
/-! DEFINITION. What counts as a safe run: the step never stops the model, and memory stays in its canonical form. -/

namespace Sys2Proof.Machine

/-- The well-formedness that every state of a run has. -/
def State.Inv (s : State) : Prop := Memory.wf s.mem = true

/-- `n` steps from a state end in a state with the invariant. -/
def SafeRun (n : Nat) (s : State) : Prop :=
  match Host.Core.run Sys2Proof.core n s with
  | .next t => t.Inv
  | .fault _ => False
  | .refused _ => False

end Sys2Proof.Machine
end

