-- ==== Sys2Proof/Certificates/Slice0/Obligations.lean ====
section
/-! DEFINITION. The statements for the provers. The words they are written in stand first: when a sequencer instruction runs and when
a queue's instruction issues as it routes, and the state that each leaves. -/

namespace Sys2Proof.Claims

open Sys2Proof Sys2Proof.Machine

/-! ### Words of the statements -/

/-- An instruction on clock `k` runs: R181 does not forbid its clock, which is present; `c` is the executing context with the presences that
this consults fixed for the instant (R177). -/
def Present (s : State) (k : Tag) (c : Ctx) : Prop := rootForbidden s.me k = false ∧ presence s.me k = .ok (true, c)

/-- An instruction on clock `k` is found absent (R179). -/
def Absent (s : State) (k : Tag) (c : Ctx) : Prop := rootForbidden s.me k = false ∧ presence s.me k = .ok (false, c)

/-- An instruction on clock `k` may read scalar register `r` (R160, R178, R215, R350); s0 adopts any clock. -/
def ReadableS (c : Ctx) (k : Tag) (r : BitVec 6) : Prop :=
  r = 0 ∨ (c.s[r.toFin].pend = false ∧ (c.handler = true ∨ c.s[r.toFin].tag = k) ∧
    (c.handler = true ∨ c.chk = false ∨ c.s[r.toFin].dead = false) ∧ c.s[r.toFin].bad = false)

/-- A control instruction may read scalar register `r`, whatever its tag (R233). -/
def ReadableCtl (c : Ctx) (r : BitVec 6) : Prop :=
  r = 0 ∨ (c.s[r.toFin].pend = false ∧ (c.handler = true ∨ c.chk = false ∨ c.s[r.toFin].dead = false) ∧ c.s[r.toFin].bad = false)

/-- No write of scalar register `r` is outstanding (R160). -/
def FreeS (c : Ctx) (r : BitVec 6) : Prop := r = 0 ∨ c.s[r.toFin].pend = false

/-- The state in which the executing context stands as `x` at its next word (R171) and waits for nothing. -/
def goOn (s : State) (x : Ctx) : State := s.setMe { fallThrough x (x.pc + 8) with waiting := none }

/-- The state in which the executing context stands as `x` and waits for nothing. -/
def stand (s : State) (x : Ctx) : State := s.setMe { x with waiting := none }

/-- Every byte of memory reads in `t` as in `s`. -/
def SameMem (s t : State) : Prop := ∀ k, t.byte k = s.byte k

end Sys2Proof.Claims

open Sys2Proof Sys2Proof.Machine Sys2Proof.Claims

namespace Sys2Proof.Claims

/-! ### Words for the instructions of the queues -/

/-- The tokens that instruction `i` pops were there when the cycle began, and its pushes have room (R163). -/
def TokensReady (c : Ctx) (q : Queue) (i : Instr) : Prop :=
  (∀ f ∈ popsOf q (tokOf i), c.tok[f].fresh < c.tok[f].avail) ∧ ∀ f ∈ pushesOf q (tokOf i), c.tok[f].avail + c.tok[f].held < 8

/-- The tokens taken and the slots reserved (R163). -/
def took (c : Ctx) (q : Queue) (i : Instr) : Ctx :=
  (pushesOf q (tokOf i)).foldl (fun c f => tokAdd c f 0 1) ((popsOf q (tokOf i)).foldl (fun c f => tokAdd c f (-1) 0) c)

/-- The pushes made available (R163). -/
def pushed (c : Ctx) (q : Queue) (i : Instr) : Ctx := pushTokens c (pushesOf q (tokOf i))

/-- Nothing holds queue `q` back as a whole: no nest that a resumption has still to reissue stands before the C queue (R298), and no older store
finds the forwarding table full before the L queue (R58). -/
def Unheld (c : Ctx) (q : Queue) : Prop :=
  (q = .c → c.reissue = none) ∧ (q = .l → c.stores.length + (c.qS.filter (·.kind == .instr)).length ≤ 16)

/-- Instruction `i` of queue `q` issues as it routes: its clock is present, its queue is empty and not held back, the C queue has room for a
companion entry, no scalar register among `src` and `dest` is pending (R160) or, among `src`, poisoned, its tokens are ready, and no mask,
stream, delay, generator or codebook register holds poison (R350). -/
def Ready (s : State) (i : Instr) (q : Queue) (src : List (BitVec 6)) (dest : List (BitVec 6)) (c : Ctx) : Prop :=
  Present s (clkOf i) c ∧ c.queue q = [] ∧ c.qC.length < 32 ∧
    (∀ r ∈ src, r = 0 ∨ (c.s[r.toFin].pend = false ∧ c.s[r.toFin].bad = false)) ∧ (∀ d ∈ dest, FreeS c d) ∧ TokensReady c q i ∧
    c.badRegs = [] ∧ Unheld c q

/-- The executing context as the instruction issues: last uses of scalars marked, scalar destinations pending, its entry numbered, its tokens
taken. -/
def atIssue (c : Ctx) (q : Queue) (i : Instr) (src : List (BitVec 6 × Bool)) (dest : List (BitVec 6)) : Ctx :=
  took { dest.foldl (fun c d => pendS c d true) (killS c src) with nextId := c.nextId + 1 } q i

/-- A scalar source of a queued instruction passes the checks made at issue: its tag as it stood at routing, and its dead mark (R178, R215). -/
def CapturedOk (c : Ctx) (k : Tag) (r : BitVec 6) : Prop :=
  r = 0 ∨ ((c.handler = true ∨ c.s[r.toFin].tag = k) ∧ (c.handler = true ∨ c.chk = false ∨ c.s[r.toFin].dead = false))

/-- A vector operand field can be read on clock `k` (R164, R178, R215, R350): a register that no ACCRD has still to write (R292), or the head of an input queue; the zero vector always. -/
def ReadableV (c : Ctx) (k : Tag) (f : BitVec 6) : Prop :=
  match vsrc f with
  | .reg r => c.v[r.toFin].pend = false ∧ (c.handler = true ∨ c.v[r.toFin].tag = k) ∧ (c.handler = true ∨ c.chk = false ∨ c.v[r.toFin].dead = false) ∧
      c.v[r.toFin].bad = 0
  | .nq d => ∃ x l, c.nq[d] = x :: l ∧ (c.handler = true ∨ x.tag = k) ∧ x.bad = 0
  | .zero => True

/-- What a vector operand field reads as. -/
def valV (s : State) (c : Ctx) (f : BitVec 6) : Vec :=
  match vsrc f with
  | .reg r => readV s c r c.handler
  | .nq d => ((c.nq[d]).headD {}).val
  | .zero => 0

/-- A vector destination field can be written: no ACCRD has still to write the register (R292); an output queue has a neighbour of the same partition
with a free slot (R164, R165). -/
def WritableV (s : State) (f : BitVec 6) : Prop :=
  match vsrc f with
  | .reg r => s.me.v[r.toFin].pend = false
  | .nq d => ∃ n, neighbour s.cur.cell d = some n ∧ n ≠ s.cur.cell ∧ samePart s n = true ∧
      ∀ b : Fin 4, b.val = opposite d → ((s.cx ⟨n, s.cur.slot⟩).nq[b]).length < 4
  | .zero => True

/-- Lane `i` of `v`, of width `w`, holds the low `w` bits of `g i`, for every lane. -/
def IsLanes (v : Vec) (w : Nat) (g : Nat → Nat) : Prop := ∀ i, i < 4096 / w → lane v w i = g i % 2 ^ w

/-- The state after a queue's instruction that issued as it routed, with `t` the state that its effect leaves: tokens pushed, the sequencer at
the next word. -/
def issued (t : State) (q : Queue) (i : Instr) : State := goOn t (pushed t.me q i)

end Sys2Proof.Claims

/-! ### Encoding, the step, memory, reset -/

/-- R213, R229: decoding the word of a well-formed instruction gives that instruction, with every operand at every value; and a word that decodes
is the word of a well-formed instruction. `invalidWord` stands for a word and is not an instruction. -/
def Obligations.DecodeEncode : Prop :=
  (∀ (i : Instr) (w : Word), (∀ v, i ≠ .invalidWord v) → i.wf = true → encode i = some w → decode w = .ok i) ∧
  (∀ (i : Instr) (w : Word), decode w = .ok i → i.wf = true ∧ encode i = some w)

/-- R234, R235, R252: words that the spec writes out, and a reserved token bit (R213). -/
def Obligations.DecodeWords : Prop :=
  decode 0x0000418410FFFFFE = .ok (.br .lt 3 false 4 false (-2)) ∧
  decode 0x0003210206000000 = .ok (.add ⟨0, 2, 2, false, 3, false⟩) ∧
  decode 0x1003210206000000 = .error .reservedField ∧
  decode 0x0003210206180000 = .error .illegalOpcode

/-- Where the next step routes for context `c`: the agenda says so, or it is empty and the schedule chooses `c`. `rest` is the agenda after it. -/
def Sys2Proof.Claims.Routes (s : State) (c : CtxId) (rest : List Act) : Prop :=
  s.agenda = .route c :: rest ∨
    (s.agenda = [] ∧ rest = [] ∧ eagerEvent { s with fresh := s.fresh + 1 } = none ∧ nextCtx { s with fresh := s.fresh + 1 } = some c)

/-- The state in which the step for context `c` fetches. -/
def Sys2Proof.Claims.atFetch (s : State) (c : CtxId) (rest : List Act) : State :=
  { s with fresh := s.fresh + 1, agenda := rest, cur := c }

/-- The bytes that stand at the physical address `pa` when memory is `m`. -/
def Sys2Proof.Claims.wordAt (s : State) (m : List Host.Cell) (pa : Nat) : List Byte := ({ s with mem := m } : State).raw pa 8

/-- Instruction `i` at the program counter of context `c` runs from `s` to `t`. Where a breakpoint matches it and it is routed or discarded, the records of
that stand in the trace before its own (R365, R366). -/
def Sys2Proof.Claims.RunsTo (s : State) (c : CtxId) (i : Instr) (t : State) : Prop :=
  let hit := breakMatches s c i 0 || breakMatches s c i 1
  ∃ u, exec i s = .next u ∧ ((hit = false ∨ wasRouted s u c i = false) → t = u) ∧
    (hit = true → wasRouted s u c i = true → exec i (breakRecord (breakRecord s c i 0) c i 1) = .next t)

/-- R159, R213, R398: where the 8 bytes at the program counter are the word `w`, in memory, in every memory since the cell's instruction cache was
emptied and in what that cache holds, and `w` decodes to `i`, the step is the execution of `i` followed by what routing counts (R355, R356,
R366; a matching breakpoint's record stands before those of `i`, R365), with the translation entered in the sequencer TLB (R344) and the word in the instruction cache. A word that is no instruction runs as
INVALID_WORD (R230). -/
def Obligations.StepRunsDecoded : Prop :=
  ∀ (s : State) (c : CtxId) (rest : List Act) (l : Leaf) (w : Word) (t : State),
    running s = true → Routes s c rest → s.resident c = true →
    let s0 := atFetch s c rest
    let used := useOne s0 c s0.me.pid .seq .fetch s0.me.pc
    let q := used.cell c.cell
    let s1 := used.setCell c.cell { q with icache := put q.icache l.pa w }
    routesNow s0 c = true → s0.me.phase ≠ .retiring → s0.me.trap.emu = false → outOfRange s0.me.pc 8 = false →
    translate s0 c s0.me.pc .fetch = .ok l → l.entry.cmp = 0 →
    s0.raw l.pa 8 = leBytes 8 w.toNat → s0.anyBad l.pa 8 = false →
    (∀ m ∈ s.past.take (s.past.length - q.emptied), wordAt s0 m l.pa = leBytes 8 w.toNat) →
    (find? q.icache l.pa = none ∨ find? q.icache l.pa = some w) →
    (∀ i, decode w = .ok i → RunsTo s1 c i t → step s = .next (afterRoute s1 t c i)) ∧
    (∀ e, decode w = .error e → RunsTo s1 c (.invalidWord w) t → step s = .next (afterRoute s1 t c (.invalidWord w)))

/-- The canonical form of memory is kept by every step (the model's own invariant, log entry on memory). -/
def Obligations.StepKeepsMemoryForm : Prop := ∀ s t : State, s.Inv → step s = .next t → t.Inv

/-- R5, R25, R123, R299, R352, R354, R360: after reset memory lists nothing, in its canonical form; no context, launch, channel or copy is there; and the
registers whose reset value the spec gives have it. The attestation log holds the entries of the firmware and of the configuration image (R387; the boot before
it is the model's choice: log entry 11). -/
def Obligations.ResetState : Prop :=
  let s := State.reset
  s.Inv ∧ s.mem = [] ∧ s.poison = [] ∧ s.ctxs = [] ∧ s.saved = [] ∧ s.launches = [] ∧ s.chans = [] ∧ s.copies = [] ∧
    s.dev.log.length = 2 ∧ (∀ n, n < 2 → ∃ e, s.dev.log[n]? = some e ∧ (fld e 256 32 : BitVec 32) = BitVec.ofNat 32 (n + 1) ∧
      (fld e 288 32 : BitVec 32) = BitVec.ofNat 32 n ∧ (fld e 320 192 : BitVec 192) = 0) ∧
    (∀ n, let p := s.part n
      p.root = 0 ∧ p.rdt = 0 ∧ p.serial = 0 ∧ p.chanBase = 0 ∧ p.chanLimit = 0 ∧ p.siltPool = 0 ∧ p.siltLim = 0 ∧ p.nextSeq = 1 ∧
        p.halted = false ∧ p.configured = false) ∧
    (∀ n, let q := s.cell n
      q.pmc = .replicate 8 0 ∧ q.pms = .replicate 8 0 ∧ q.pmh = .replicate 8 0 ∧ q.trcCtl = 0 ∧ q.bp = .replicate 2 0 ∧ q.bpi = .replicate 2 0 ∧
        q.slots = .replicate 16 2 ∧ q.slipH = .replicate 2 0) ∧
    ∀ n, let d := s.die n
      d.pmd = .replicate 16 0 ∧ d.pms = .replicate 16 0 ∧ d.pmh = .replicate 16 0 ∧ d.loess = 0 ∧ d.wptr = 0 ∧ d.lost = 0

/-- R40, R58: a byte written reads back, and a write leaves every byte alone that it does not name. -/
def Obligations.MemoryReadAfterWrite : Prop :=
  ∀ (s : State) (a : Nat) (b : Byte), s.Inv →
    (s.write [(a, b)]).byte a = b ∧ ∀ k, k ≠ a → (s.write [(a, b)]).byte k = s.byte k

/-! ### Scalar instructions -/

/-- R23, R178, R215, R333: what a write of a scalar register does. s0 discards it; another register takes the value, is live and no longer pending, and
takes the clock tag but in handler mode, where it keeps its own; no other register and no other part of the context changes. -/
def Sys2Proof.Claims.ScalarWrite : Prop :=
  ∀ (c : Ctx) (d : BitVec 6) (w : Word) (k : Tag) (h : Bool),
    (d = 0 → writeS c d w k h = c) ∧
    (d ≠ 0 → (writeS c d w k h).s[d.toFin] = { val := w, tag := if h then c.s[d.toFin].tag else k, dead := false, pend := false, bad := false }) ∧
    (∀ r : BitVec 6, r ≠ d → (writeS c d w k h).s[r.toFin] = c.s[r.toFin]) ∧
    { writeS c d w k h with s := c.s } = c

/-- R215: a last-use bit marks its register dead and keeps its value and tag, but on s0 and in handler mode; nothing else changes. -/
def Sys2Proof.Claims.LastUse : Prop :=
  ∀ (c : Ctx) (a b : BitVec 6) (ua ub : Bool),
    (c.handler = true → killS c [(a, ua), (b, ub)] = c) ∧
    (c.handler = false → ∀ r : BitVec 6, (killS c [(a, ua), (b, ub)]).s[r.toFin] =
      { c.s[r.toFin] with dead := c.s[r.toFin].dead || (r != 0 && ((ua && a == r) || (ub && b == r))) }) ∧
    { killS c [(a, ua), (b, ub)] with s := c.s } = c

/-- The register group of R252: each instruction with its result. -/
def Sys2Proof.Claims.registerOps : List ((SRR → Instr) × (Word → Word → Word)) :=
  [(.add, fun a b => a + b), (.sub, fun a b => a - b), (.and, fun a b => a &&& b), (.or, fun a b => a ||| b),
   (.xor, fun a b => a ^^^ b), (.andn, fun a b => a &&& ~~~b),
   (.sll, fun a b => a <<< (b.toNat % 64)), (.srl, fun a b => a >>> (b.toNat % 64)), (.sra, fun a b => a.sshiftRight (b.toNat % 64)),
   (.rotl, fun a b => a.rotateLeft (b.toNat % 64)),
   (.slt, fun a b => if a.toInt < b.toInt then 1 else 0), (.sltu, fun a b => if a.toNat < b.toNat then 1 else 0),
   (.seq, fun a b => if a = b then 1 else 0),
   (.min, fun a b => if a.toInt < b.toInt then a else b), (.max, fun a b => if a.toInt < b.toInt then b else a),
   (.minu, fun a b => if a.toNat < b.toNat then a else b), (.maxu, fun a b => if a.toNat < b.toNat then b else a),
   (.mul, fun a b => BitVec.ofNat 64 (a.toNat * b.toNat)),
   (.mulh, fun a b => BitVec.ofInt 64 (a.toInt * b.toInt / 2 ^ 64)), (.mulhu, fun a b => BitVec.ofNat 64 (a.toNat * b.toNat / 2 ^ 64)),
   (.div, fun a b => if b = 0 then -1 else BitVec.ofInt 64 (a.toInt.tdiv b.toInt)),
   (.divu, fun a b => if b = 0 then -1 else BitVec.ofNat 64 (a.toNat / b.toNat)),
   (.rem, fun a b => if b = 0 then a else BitVec.ofInt 64 (a.toInt.tmod b.toInt)),
   (.remu, fun a b => if b = 0 then a else BitVec.ofNat 64 (a.toNat % b.toNat))]

/-- R252: the 24 instructions of the register group. -/
def Sys2Proof.Claims.ScalarRegisterGroup : Prop :=
  ∀ p ∈ registerOps, ∀ (o : SRR) (s : State) (c : Ctx),
    Present s o.clk c → ReadableS c o.clk o.a → ReadableS c o.clk o.b → FreeS c o.d →
    ∃ t, exec (p.1 o) s = .next t ∧
      t = goOn s (writeS (killS c [(o.a, o.ua), (o.b, o.ub)]) o.d (p.2 (readS s c o.a) (readS s c o.b)) o.clk c.handler) ∧ SameMem s t

/-- The immediate forms of R253. -/
def Sys2Proof.Claims.immediateOps : List ((SRI → Instr) × (Word → Word → Word)) :=
  [(.addi, fun a i => a + i), (.andi, fun a i => a &&& i), (.ori, fun a i => a ||| i), (.xori, fun a i => a ^^^ i),
   (.slti, fun a i => if a.toInt < i.toInt then 1 else 0), (.sltiu, fun a i => if a.toNat < i.toNat then 1 else 0)]

/-- The shifts of R254. -/
def Sys2Proof.Claims.shiftOps : List ((SShift → Instr) × (Word → Nat → Word)) :=
  [(.slli, fun a n => a <<< n), (.srli, fun a n => a >>> n), (.srai, fun a n => a.sshiftRight n), (.rotli, fun a n => a.rotateLeft n)]

/-- R253, R254: the immediate forms, the shifts by an amount and MOVHI. -/
def Sys2Proof.Claims.ScalarImmediates : Prop :=
  (∀ p ∈ immediateOps, ∀ (o : SRI) (s : State) (c : Ctx), Present s o.clk c → ReadableS c o.clk o.a → FreeS c o.d →
    ∃ t, exec (p.1 o) s = .next t ∧
      t = goOn s (writeS (killS c [(o.a, o.ua)]) o.d (p.2 (readS s c o.a) (o.imm.signExtend 64)) o.clk c.handler) ∧ SameMem s t) ∧
  (∀ p ∈ shiftOps, ∀ (o : SShift) (s : State) (c : Ctx), Present s o.clk c → ReadableS c o.clk o.a → FreeS c o.d →
    ∃ t, exec (p.1 o) s = .next t ∧
      t = goOn s (writeS (killS c [(o.a, o.ua)]) o.d (p.2 (readS s c o.a) o.amt.toNat) o.clk c.handler) ∧ SameMem s t) ∧
  (∀ (k : Tag) (d : BitVec 6) (imm : BitVec 32) (s : State) (c : Ctx), Present s k c → ReadableS c k d → FreeS c d →
    ∃ t, exec (.movhi k d imm) s = .next t ∧
      t = goOn s (writeS c d ((imm.setWidth 64 <<< 32) ||| (readS s c d &&& 0xFFFFFFFF)) k c.handler) ∧ SameMem s t)

/-- The unary group of R255 but for MOVLC. -/
def Sys2Proof.Claims.unaryOps : List ((SUn → Instr) × (Word → Word)) :=
  [(.clz, fun a => BitVec.ofNat 64 (((List.range 64).map fun n => a.getLsbD (63 - n)).takeWhile (!·)).length),
   (.ctz, fun a => BitVec.ofNat 64 (((List.range 64).map fun n => a.getLsbD n).takeWhile (!·)).length),
   (.popc, fun a => BitVec.ofNat 64 (((List.range 64).map fun n => a.getLsbD n).count true)),
   (.sextb, fun a => (a.setWidth 8).signExtend 64), (.sexth, fun a => (a.setWidth 16).signExtend 64),
   (.sextw, fun a => (a.setWidth 32).signExtend 64),
   (.zextb, fun a => a &&& 0xFF), (.zexth, fun a => a &&& 0xFFFF), (.zextw, fun a => a &&& 0xFFFFFFFF)]

/-- R255, R256: the unary group, MOVLC, SHADD and SEL. -/
def Sys2Proof.Claims.ScalarUnaryAndSelect : Prop :=
  (∀ p ∈ unaryOps, ∀ (o : SUn) (s : State) (c : Ctx), Present s o.clk c → ReadableS c o.clk o.a → FreeS c o.d →
    ∃ t, exec (p.1 o) s = .next t ∧
      t = goOn s (writeS (killS c [(o.a, o.ua)]) o.d (p.2 (readS s c o.a)) o.clk c.handler) ∧ SameMem s t) ∧
  (∀ (k : Tag) (d : BitVec 6) (n : Fin 6) (s : State) (c : Ctx), Present s k c → FreeS c d → c.badRegs.contains (.lc, n.val) = false →
    ∃ t, exec (.movlc k d (BitVec.ofNat 3 n.val)) s = .next t ∧ t = goOn s (writeS c d c.lc[n] k c.handler) ∧ SameMem s t) ∧
  (∀ (n : BitVec 3) (o : SRR) (s : State) (c : Ctx), n.toNat ≤ 6 → Present s o.clk c → ReadableS c o.clk o.a → ReadableS c o.clk o.b →
    FreeS c o.d →
    ∃ t, exec (.shadd n o) s = .next t ∧ t = goOn s (writeS (killS c [(o.a, o.ua), (o.b, o.ub)]) o.d
      (readS s c o.a + (readS s c o.b <<< n.toNat)) o.clk c.handler) ∧ SameMem s t) ∧
  (∀ (q : BitVec 6) (o : SRR) (s : State) (c : Ctx), Present s o.clk c → ReadableS c o.clk o.a → ReadableS c o.clk o.b →
    ReadableS c o.clk q → FreeS c o.d →
    ∃ t, exec (.sel q o) s = .next t ∧ t = goOn s (writeS (killS c [(o.a, o.ua), (o.b, o.ub)]) o.d
      (if (readS s c q).getLsbD 0 then readS s c o.a else readS s c o.b) o.clk c.handler) ∧ SameMem s t)

/-- The clock of an instruction that the sequencer executes on one: the scalar group, registers, traps, the trigger, barriers, dumps, launches and the
sequencer's memory accesses. Stream instructions relate their clocks differently (R246), and control instructions and KDEF run on none. -/
def Sys2Proof.Claims.sequencerClock : Instr → Option Tag
  | .add o | .sub o | .and o | .or o | .xor o | .andn o | .sll o | .srl o | .sra o | .rotl o | .slt o | .sltu o | .seq o | .min o | .max o | .minu o
  | .maxu o | .mul o | .mulh o | .mulhu o | .div o | .divu o | .rem o | .remu o | .shadd _ o | .sel _ o | .launchi o => some o.clk
  | .addi o | .andi o | .ori o | .xori o | .slti o | .sltiu o => some o.clk
  | .slli o | .srli o | .srai o | .rotli o => some o.clk
  | .clz o | .ctz o | .popc o | .sextb o | .sexth o | .sextw o | .zextb o | .zexth o | .zextw o | .launch o => some o.clk
  | .movhi k _ _ | .movlc k _ _ | .csrr k _ _ | .csrw k _ _ _ | .csrwIscope k _ _ | .csrwBndTags k _ _ | .csrwTcfg k _ _ _ | .csrwCtxStatus k _ _
  | .csrwPmc k _ _ _ | .csrwTrapScr k _ _ _ | .trap k _ | .bkpt k _ | .trig k | .barInit k _ _ _ _ _ | .barArrive k _ _ | .barWait k _ _ _
  | .dump k _ _ | .probe k _ _ _ _ _ _ | .fence k _ | .syncls k => some k
  | .ldh o => some o.h.clk
  | .sth o => some o.h.clk
  | .amold o | .amost o | .amoswap o | .amocas o | .amoadd o | .amoand o | .amoor o | .amoxor o | .amomin o | .amomax o => some o.clk
  | _ => none

/-- The instructions that are routed to a queue on their own clock: all of the queues but the vector stream instructions. -/
def Sys2Proof.Claims.goesToQueue : Instr → Bool
  | .lds _ | .sts _ | .ldv _ | .stv _ | .ldvx _ | .stvx _ | .ldt _ _ _ _ | .vperm _ _ _ _ _ _ _ | .aset _ _ | .asetV _ _ | .asetx _ _ | .aadv _
  | .aadvAbs _ | .abnd _ _ _ _ _ _ | .xcopyIn _ | .xcopyInStrided _ | .xcopyd _ | .xaddw _ | .xaddwStrided _ | .xbcast _ | .xbcastStrided _
  | .xcopyOut _ | .xcopyOutStrided _ | .chwr _ | .chwrI _ | .chclose _ _ | .chrd _ | .chtry _ | .chtag _ | .chstat _ _ _ _ => true
  | .vadd _ | .vsub _ | .vmul _ | .vmin _ | .vmax _ | .vabs _ | .vneg _ | .vdiv _ | .vmulh _ | .vfma _ | .vfms _ | .vfnma _ | .vand _ | .vor _
  | .vxor _ | .vandn _ | .vnot _ | .vsll _ | .vsrl _ | .vsra _ | .vrotl _ | .vcmp _ _ | .vsel _ | .vmov _ | .vaddImm _ | .vsubImm _ | .vmulImm _
  | .vminImm _ | .vmaxImm _ | .vandImm _ | .vorImm _ | .vxorImm _ | .vandnImm _ | .vsllImm _ | .vsrlImm _ | .vsraImm _ | .vrotlImm _ | .vcmpImm _ _
  | .vmovi _ | .vcvt _ _ | .vrsum _ _ | .vrmax _ | .vrmin _ | .vscan _ _ | .vrcp _ | .vsqrt _ | .vrsqrt _ | .vexp _ | .vexp2 _ | .vlog2 _
  | .vtanh _ | .vsigm _ | .vcompress _ | .vexpand _ | .vhist _ | .vdigit _ | .vordkey _ | .vtopk _ _ | .vcbdec _ _ | .vcbenc _ _ | .cbld _ _
  | .mand _ | .mor _ | .mxor _ | .mandn _ | .mnot _ | .mset _ | .mclr _ | .mcnt _ | .mfirst _ | .mtov _ | .vtom _ | .vextr _ | .vins _
  | .vsplat _ => true
  | .tcfg _ _ _ _ _ | .mma _ | .mcfgLoop _ | .mcfgStep _ | .mcfgGstep _ | .mcfgBase _ | .mcfgPitch _ | .mcfgOper _ | .mcfgAcc _ | .mgo _ _ _
  | .accrd _ | .accwr _ | .accz _ | .gset _ _ _ _ _ _ | .gkey _ | .gkeyOff _ | .gkeyParam _ | .gctr _ | .gadv _ | .gdraw _ _ _ _ _
  | .gdrawAdv _ _ _ _ _ | .gscope _ _ _ | .gsave _ _ _ | .gload _ _ _ _ => true
  | _ => false

/-- R178, R179: an instruction whose clock is absent and that has no token bits changes no register, tag or memory: the context goes on. -/
def Sys2Proof.Claims.AbsentClockDiscards : Prop :=
  ∀ (i : Instr) (s : State) (k : Tag) (c : Ctx), sequencerClock i = some k ∨ (goesToQueue i = true ∧ tokOf i = 0 ∧ k = clkOf i) → Absent s k c →
    ∃ t, exec i s = .next t ∧ t = goOn s c ∧ c.s = s.me.s ∧ c.v = s.me.v ∧ c.t = s.me.t ∧ SameMem s t

/-- Instructions of the three queues. -/
def Sys2Proof.Claims.queueForms (a : LdS) (b : StS) (l : LdStV) (x : Copy) (w : ChWrite) (r : ChRead) (v : VOp) (m : MmaOp) (g : GenSS) : List (Instr × Queue) :=
  [(.lds a, .l), (.ldv l, .l), (.xcopyIn x, .l), (.chrd r, .l), (.sts b, .s), (.stv l, .s), (.xcopyOut x, .s), (.chwr w, .s), (.vadd v, .c), (.mand v, .c),
   (.mma m, .c), (.gkey g, .c)]

/-- R163, R179: an instruction of a queue whose clock is absent and that has token bits pops and pushes its tokens and does nothing else. -/
def Sys2Proof.Claims.AbsentClockTokens : Prop :=
  ∀ a b l x w r v m g, ∀ p ∈ queueForms a b l x w r v m g, ∀ (s : State) (c : Ctx), let i := p.1
    let q := p.2
    tokOf i ≠ 0 → Absent s (clkOf i) c → c.queue q = [] → TokensReady c q i → Unheld c q →
    ∃ t, exec i s = .next t ∧ t = goOn s (pushed (took { c with nextId := c.nextId + 1 } q i) q i) ∧ SameMem s t

/-- The scalar sources of the scalar group and of the sequencer's memory accesses, in the order in which AUX reports their tags. -/
def Sys2Proof.Claims.scalarReads : Instr → List (BitVec 6)
  | .add o | .sub o | .and o | .or o | .xor o | .andn o | .sll o | .srl o | .sra o | .rotl o | .slt o | .sltu o | .seq o | .min o | .max o | .minu o
  | .maxu o | .mul o | .mulh o | .mulhu o | .div o | .divu o | .rem o | .remu o | .shadd _ o => [o.a, o.b]
  | .sel q o => [o.a, o.b, q]
  | .addi o | .andi o | .ori o | .xori o | .slti o | .sltiu o => [o.a]
  | .slli o | .srli o | .srai o | .rotli o => [o.a]
  | .clz o | .ctz o | .popc o | .sextb o | .sexth o | .sextw o | .zextb o | .zexth o | .zextw o => [o.a]
  | .movhi _ d _ => [d]
  | .ldh o => [o.b]
  | .sth o => [o.b, o.d]
  | .amold o => [o.b]
  | .amocas o => [o.b, o.x, o.c]
  | .amost o | .amoswap o | .amoadd o | .amoand o | .amoor o | .amoxor o | .amomin o | .amomax o => [o.b, o.x]
  | _ => []

/-- R178, R336: in the scalar group and the sequencer's memory accesses a tag that differs from the clock index ends the context with CLOCK_MISMATCH, with the
operand tags in AUX, and the instruction performs nothing: the stop is taken from the state before it. An operand without a tag, s0, reports tag 0: the
model's reading (log entry 20). -/
def Sys2Proof.Claims.ClockMismatchStops : Prop :=
  ∀ (i : Instr) (s : State) (k : Tag) (c : Ctx), sequencerClock i = some k → Present s k c → (∀ r ∈ scalarReads i, FreeS c r) → c.handler = false →
    (∃ r ∈ scalarReads i, r ≠ 0 ∧ c.s[r.toFin].tag ≠ k) →
    exec i s = .next (fatalStop s s.cur s.me.pc (wordOf i) .clockMismatch { aux := tagAux (reportTags c (scalarReads i)) })

/-- R253 to R256: the immediate forms, the shifts by an amount, MOVHI, the unary group, MOVLC, SHADD and SEL. -/
def Obligations.ScalarInstructions : Prop := ScalarImmediates ∧ ScalarUnaryAndSelect

/-- R163, R178, R179, R336: absent clocks discard instructions of the sequencer and of the queues, with token bits they move tokens alone, and tags of scalar
operands that do not match stop the context. Tag 0 in AUX for an operand without a tag is the model's reading (log entry 20). -/
def Obligations.ClockGate : Prop := AbsentClockDiscards ∧ AbsentClockTokens ∧ ClockMismatchStops
/-! ### Control instructions -/

/-- R171: a taken branch. Where no loop of a reaction is left the reaction has ended, and STG, ITER and B0 read 0 (the model's choice: log
entry 113). The loops that stay are the outermost ones up to the first whose body does not hold the target; a loop that ends leaves its
counter; calls and returns end none. -/
def Sys2Proof.Claims.BranchEndsLoops : Prop :=
  ∀ (c : Ctx) (a : Word), let d := branchTo c a false
    d.pc = a ∧ d.lc = c.lc ∧ (∃ ended, c.loops = ended ++ d.loops ∧ (ended ≠ [] → ∃ f, ended.getLast? = some f ∧ inBody f a = false)) ∧
    (∀ f ∈ d.loops, inBody f a = true) ∧
    d.react = (if (∃ f ∈ c.loops, f.react = true) ∧ ¬ ∃ f ∈ d.loops, f.react = true then {} else c.react) ∧ branchTo c a true = { c with pc := a }

/-- The condition of BR. -/
def Sys2Proof.Claims.condHolds (cc : Cond) (a b : Word) : Prop :=
  match cc with
  | .eq => a = b
  | .ne => a ≠ b
  | .lt => a.toInt < b.toInt
  | .ge => b.toInt ≤ a.toInt
  | .ltu => a.toNat < b.toNat
  | .geu => b.toNat ≤ a.toNat

/-- R234, R235: B, BR, CALL, RET, JMPR and CALLR. The link register takes the address of the following word, with tag 0
(outside handler mode). -/
def Sys2Proof.Claims.Branches : Prop :=
  (∀ (off : BitVec 24) (s : State), ∃ t, exec (.b off) s = .next t ∧
    t = stand s (branchTo s.me (s.me.pc + 8 * off.signExtend 64) false) ∧ SameMem s t) ∧
  (∀ (cc : Cond) (a b : BitVec 6) (ua ub : Bool) (off : BitVec 24) (s : State), ReadableCtl s.me a → ReadableCtl s.me b →
    ∃ t, exec (.br cc a ua b ub off) s = .next t ∧ SameMem s t ∧
      let c := killS s.me [(a, ua), (b, ub)]
      (condHolds cc (readS s s.me a) (readS s s.me b) → t = stand s (branchTo c (c.pc + 8 * off.signExtend 64) false)) ∧
      (¬ condHolds cc (readS s s.me a) (readS s s.me b) → t = goOn s c)) ∧
  (∀ (off : BitVec 24) (s : State), s.me.s[63].pend = false → ∃ t, exec (.call off) s = .next t ∧
    t = stand s (branchTo (writeS s.me 63 (s.me.pc + 8) 0 s.me.handler) (s.me.pc + 8 * off.signExtend 64) true) ∧ SameMem s t) ∧
  (∀ s : State, ReadableCtl s.me 63 → readS s s.me 63 &&& 7 = 0 → ∃ t, exec .ret s = .next t ∧
    t = stand s (branchTo s.me (readS s s.me 63) true) ∧ SameMem s t) ∧
  (∀ (a : BitVec 6) (ua : Bool) (s : State), ReadableCtl s.me a → readS s s.me a &&& 7 = 0 → ∃ t, exec (.jmpr a ua) s = .next t ∧
    t = stand s (branchTo (killS s.me [(a, ua)]) (readS s s.me a) false) ∧ SameMem s t) ∧
  (∀ (a : BitVec 6) (ua : Bool) (s : State), ReadableCtl s.me a → s.me.s[63].pend = false → readS s s.me a &&& 7 = 0 →
    ∃ t, exec (.callr a ua) s = .next t ∧
      t = stand s (branchTo (writeS (killS s.me [(a, ua)]) 63 (s.me.pc + 8) 0 s.me.handler) (readS s s.me a) true) ∧ SameMem s t)

/-- R235: a register target whose bits 2:0 are not zero raises BOUNDS at the branch, and the link register is not written. -/
def Sys2Proof.Claims.MisalignedTargetStops : Prop :=
  (∀ s : State, ReadableCtl s.me 63 → readS s s.me 63 &&& 7 ≠ 0 →
    exec .ret s = .next (fatalStop s s.cur s.me.pc (wordOf .ret) .bounds { addr := readS s s.me 63 })) ∧
  ∀ (a : BitVec 6) (ua : Bool) (s : State), ReadableCtl s.me a → readS s s.me a &&& 7 ≠ 0 →
    ∀ i ∈ [Instr.jmpr a ua, .callr a ua],
      exec i s = .next (fatalStop s s.cur s.me.pc (wordOf i) .bounds { addr := readS s s.me a })

/-- The local count of a loop level of `kind` (R170): q and P of the kind, then the iterations that this cell runs. -/
def Sys2Proof.Claims.loopPlace (c : Ctx) (kind : Nat) : Int × Int :=
  if kind = 1 then (c.x, c.width) else if kind = 2 then (c.y, c.height) else if kind = 3 then (c.z, c.depth) else (0, 1)

/-- The count of a loop from `a` to `b` by `t`: ⌈(b − a) / t⌉ where that is positive, else 0. -/
def Sys2Proof.Claims.loopCount (a b t : Word) : Int := max 0 ⌈((b.toInt - a.toInt : Int) : ℚ) / (t.toInt : ℚ)⌉

/-- What a LOOP of counter `n` leaves, with `c` the context after its operands are read (R170, R171, R180). The whole counter is written, so that poison in
it is gone (R350). STG, ITER and B0 become 0 where a reaction ends (the model's choice: log entry 113). -/
def Sys2Proof.Claims.loopSet (c : Ctx) (n : Fin 6) (a b t fin : Word) : Ctx :=
  let tab := c.looptab[n]
  let rct := tab.getLsbD 3
  let stg := (fld tab 4 4 : BitVec 4).toNat
  let place := loopPlace c (fld tab 0 3 : BitVec 3).toNat
  let here := (max 0 ⌈((loopCount a b t - place.1 : Int) : ℚ) / (place.2 : ℚ)⌉).toNat
  let first := a + BitVec.ofInt 64 (place.1 * t.toInt)
  let stride := t * BitVec.ofInt 64 place.2
  let after := first + BitVec.ofNat 64 here * stride
  let kept := (c.loops.reverse.takeWhile (·.lc != n.val)).reverse
  let d := { c with loops := kept, react := if c.loops.any (·.react) && !kept.any (·.react) then {} else c.react, lc := c.lc.set n first
                    badRegs := c.badRegs.filter (· != (.lc, n.val)) }
  if here = 0 then fallThrough d fin
  else if c.pc + 8 = fin then fallThrough { d with lc := c.lc.set n after } fin
  else
    let f : LoopFrame := { lc := n.val, body := c.pc + 8, fin := fin, left := (if rct then here + stg else here) - 1, stride := stride,
                           final := after, react := rct }
    { d with loops := f :: kept, pc := c.pc + 8, react := if rct then { act := true, stg := stg, iter := 1, b0 := c.basei, n := here } else d.react }

/-- The counter is free for a LOOP: no suspended loop names it in a handler (R333). -/
def Sys2Proof.Claims.CounterFree (c : Ctx) (n : Nat) : Prop := c.handler = false ∨ ∀ f ∈ c.suspended ++ c.emuLoops, f.lc ≠ n

/-- R170, R236: both forms of LOOP, and the LOOP_STEP trap of a zero step and of a count past 2³² − 1. -/
def Sys2Proof.Claims.Loops : Prop :=
  (∀ (o : LoopReg) (n : Fin 6) (s : State), o.lc.toNat = n.val → ReadableCtl s.me o.a → ReadableCtl s.me o.b → ReadableCtl s.me o.c →
    CounterFree s.me n →
    let a := readS s s.me o.a
    let b := readS s s.me o.b
    let t := readS s s.me o.c
    let c := killS s.me [(o.a, o.ua), (o.b, o.ub), (o.c, o.uc)]
    (t ≠ 0 → loopCount a b t ≤ 2 ^ 32 - 1 → ∃ t', exec (.loopRegister o) s = .next t' ∧
      t' = stand s (loopSet c n a b t (c.pc + 8 * o.fin.setWidth 64)) ∧ SameMem s t') ∧
    (t = 0 → exec (.loopRegister o) s = .next (takeTrap s s.cur (wordOf (.loopRegister o)) .loopStep { sub := 0 })) ∧
    (t ≠ 0 → 2 ^ 32 - 1 < loopCount a b t →
      exec (.loopRegister o) s = .next (takeTrap s s.cur (wordOf (.loopRegister o)) .loopStep { sub := 1 }))) ∧
  (∀ (o : LoopImm) (n : Fin 6) (s : State), o.lc.toNat = n.val → CounterFree s.me n → o.step ≠ 0 → ∃ t', exec (.loopImmediate o) s = .next t' ∧
      t' = stand s (loopSet s.me n (o.start.signExtend 64) (o.bound.signExtend 64) (o.step.signExtend 64) (s.me.pc + 8 * o.fin.setWidth 64)) ∧
      SameMem s t') ∧
  (∀ (o : LoopImm) (n : Fin 6) (s : State), o.lc.toNat = n.val → CounterFree s.me n → o.step = 0 →
    exec (.loopImmediate o) s = .next (takeTrap s s.cur (wordOf (.loopImmediate o)) .loopStep { sub := 0 }))

/-- R171: where the program counter falls through to `a`. A reaction that ends leaves STG, ITER and B0 at 0 (the model's choice: log entry 113), and the
write of a final value takes poison from its counter (R350). The most recently started loop, when `a` is its end, starts its next iteration at its body with
its stride added to its counter, or ends with its final value, and the next outer loop then tests the same address. -/
def Sys2Proof.Claims.LoopEnd : Prop :=
  ∀ (c : Ctx) (a : Word),
    (c.loops = [] → fallThrough c a = { c with pc := a }) ∧
    (∀ (f : LoopFrame) (rest : List LoopFrame), c.loops = f :: rest →
      (a ≠ f.fin → fallThrough c a = { c with pc := a }) ∧
      (a = f.fin → 0 < f.left → ∀ n : Fin 6, f.lc = n.val →
        fallThrough c a = { c with
          pc := f.body, lc := c.lc.set n (c.lc[n] + f.stride), loops := { f with left := f.left - 1, done := f.done + 1 } :: rest,
          react := if f.react then { c.react with iter := c.react.iter + 1 } else c.react }) ∧
      (a = f.fin → f.left = 0 → ∀ n : Fin 6, f.lc = n.val →
        fallThrough c a = fallThrough { c with lc := c.lc.set n f.final, badRegs := c.badRegs.filter (· != (.lc, n.val)), loops := rest,
                                               react := if f.react then {} else c.react } a))

/-- In `t`, context `i` has acknowledged every invalidation that was posted to it in `s`: no entry of its sequencer or stream TLBs is covered by one, the
entries that are left are as they were, and no other context has changed (R346). -/
def Sys2Proof.Claims.Quiesced (t s : State) (i : CtxId) : Prop :=
  let x := s.cx i
  let y := t.cx i
  y.inval = [] ∧ y.pendCount = 0 ∧ (∀ e, e ∈ y.tlb ↔ e ∈ x.tlb ∧ e.outside x.inval = true) ∧
    (∀ n : Fin 18, ∀ e, e ∈ y.stlb[n] ↔ e ∈ x.stlb[n] ∧ e.outside x.inval = true) ∧
    { y with tlb := x.tlb, stlb := x.stlb, inval := x.inval, pendCount := x.pendCount } = x ∧ ∀ j, j ≠ i → t.cx j = s.cx j

/-- R173, R237: IBEGIN opens an instant and IEND closes it and places its two markers. IBEGIN is a quiescent point while invalidations are
posted (R346). The stage clocks of the instant follow the reaction as IBEGIN found it, and IEND commits by it (the model's reading: log entry 118). -/
def Obligations.Instants : Prop :=
  (∀ s : State, s.me.iopen = false → s.me.handler = false → (s.me.pendCount = 0 ∨ qpointReady s s.cur = true) →
    ∃ t s1 c, exec .ibegin s = .next t ∧ SameMem s t ∧ t = goOn s1 (settleClocks c) ∧
      c.iopen = true ∧
      (¬ (s.me.react.act = true ∧ s.me.react.n < s.me.react.iter) →
        c.basei = s.me.basei + 1 ∧ c.instants = s.me.instants ++ [s.me.basei + 1]) ∧
      (s.me.react.act = true → s.me.react.n < s.me.react.iter → c.basei = s.me.basei ∧ c.instants = s.me.instants) ∧
      c.ireact = s1.me.react ∧
      { c with iopen := s1.me.iopen, basei := s1.me.basei, instants := s1.me.instants, ireact := s1.me.ireact } = s1.me ∧
      (s.me.pendCount = 0 → s1 = s) ∧ (s.me.pendCount ≠ 0 → Quiesced s1 s s.cur)) ∧
  (∀ s : State, s.me.iopen = true → s.me.handler = false → s.me.qC.length < 32 → s.me.qS.length < 32 →
    ∃ t e f, exec .iend s = .next t ∧ SameMem s t ∧
      t = goOn s { s.me with iopen := false, qC := s.me.qC ++ [e], qS := s.me.qS ++ [f], nextId := s.me.nextId + 1 } ∧
      e.kind = .cMark ∧ f.kind = .sMark ∧ e.id = s.me.nextId ∧ f.id = s.me.nextId ∧
      (s.me.ireact.act = false → f.opened = true ∧ f.inst = s.me.basei)) ∧
  (∀ s : State, s.me.iopen = true ∨ s.me.handler = true →
    exec .ibegin s = .next (fatalStop s s.cur s.me.pc (wordOf .ibegin) .illegalOpcode {})) ∧
  (∀ s : State, s.me.iopen = false ∨ s.me.handler = true →
    exec .iend s = .next (fatalStop s s.cur s.me.pc (wordOf .iend) .illegalOpcode {}))

/-- R240, R241, R243: SUCCGO, WAITPRED with every predecessor retired, and QPOINT with every earlier entry issued. QPOINT waits for the copies of the context to
have translated their last pages: the model lets them translate the pages that are left in the step in which QPOINT goes on, and lets it wait while one of
those does not translate (log entry 51). -/
def Obligations.HandOver : Prop :=
  (∀ s : State, ∃ t, exec .succgo s = .next t ∧ t = goOn s { s.me with succgo := true } ∧ SameMem s t) ∧
  (∀ s : State, (∀ q ∈ s.me.preds, hasRetired s s.me.pid q = true) →
    ∃ t, exec .waitpred s = .next t ∧ SameMem s t ∧
      t = goOn (s.setCell s.cur.cell { s.cell s.cur.cell with dcache := [] }) { s.me with tagCache := [] }) ∧
  (∀ s : State, s.me.qL = [] → s.me.qC = [] → s.me.qS = [] →
    (∀ k ∈ s.copies, k.ctx = s.cur → k.orphan = false → ∀ va ∈ pagesLeft k, ∃ l, copyLeaf s k va = .ok l) →
    ∃ t s1, exec .qpoint s = .next t ∧ SameMem s t ∧ t = goOn s1 s1.me ∧ Quiesced s1 s s.cur ∧ s1.cur = s.cur ∧
      (s1.cell s.cur.cell).icache = [] ∧ (s1.cell s.cur.cell).emptied = s.past.length ∧
      (∀ k ∈ s1.copies, k.ctx = s.cur → k.orphan = false → k.held.length = (pagesLeft k).length) ∧
      s1.copies.map (fun k => { k with held := [] }) = s.copies.map fun k => { k with held := [] }) ∧
  (∀ (s : State) (k : CopyOp) (va : Word) (f : WalkFail), k ∈ s.copies → k.ctx = s.cur → k.orphan = false → va ∈ pagesLeft k → copyLeaf s k va = .error f →
    exec .qpoint s = .next (s.setMe { s.me with waiting := some (.sync 2) }))

/-- R186: RETIRE, once everything before it has issued, no register write is outstanding and the tracker has room. The slot is free from then on, the copies in flight
take one tracker entry each and the stores that have not performed one together, and, where the context has no bound port, memory is as
before. -/
def Sys2Proof.Claims.Retire : Prop :=
  ∀ s : State, s.me.iopen = false → s.me.handler = false → retireReady s s.cur = true →
    let mine := s.copies.filter fun k => k.ctx == s.cur && !k.orphan
    let need := mine.length + (if s.me.stores = [] ∧ s.me.scalars = [] then 0 else 1)
    need + (s.cell s.cur.cell).tracker.length ≤ 8 →
    ∃ t, exec .retire s = .next t ∧ t.resident s.cur = false ∧
      ((∀ p ∈ s.me.port.toList, p.chan = none) → SameMem s t ∧
        (t.cell s.cur.cell).tracker.length = (s.cell s.cur.cell).tracker.length + need ∧
        (∀ k ∈ mine, { k with orphan := true, push := [] } ∈ t.copies) ∧ (∀ c, c ≠ s.cur → t.cx c = s.cx c))

/-- R186, R333: RETIRE with an instant open or in a handler stops the context with ILLEGAL_OPCODE; while something is outstanding it
waits. -/
def Sys2Proof.Claims.RetireWaits : Prop :=
  (∀ s : State, s.me.iopen = true ∨ s.me.handler = true →
    exec .retire s = .next (fatalStop s s.cur s.me.pc (wordOf .retire) .illegalOpcode {})) ∧
  (∀ s : State, s.me.iopen = false → s.me.handler = false → retireReady s s.cur = false →
    exec .retire s = .next (s.setMe { s.me with phase := .retiring, waiting := some (.sync 2) }))

/-- R244, R176: the definition stands beside the one in effect until the next IBEGIN. UNION compares the roots of two defined operands. -/
def Sys2Proof.Claims.ClockDefinitions : Prop :=
  let defined (s : State) (i : Instr) (k : Tag) (d : ClockDef) : Prop :=
    ∃ t, exec i s = .next t ∧ SameMem s t ∧
      t = goOn s { s.me with clk := s.me.clk.set k.toFin { s.me.clk[k.toFin] with new := some d } k.toFin.isLt }
  ∀ (s : State) (k p q : Tag) (n : BitVec 16) (ph : BitVec 13) (r : BitVec 6), s.me.handler = false →
    defined s (.kdefEvery k p n ph) k (.every p n ph) ∧ defined s (.kdefOn k p r) k (.on p r) ∧
    defined s (.kdefOnnot k p r) k (.onnot p r) ∧
    ((clockRoot s.me p = none ∨ clockRoot s.me q = none ∨ clockRoot s.me p = clockRoot s.me q) →
      defined s (.kdefUnion k p q) k (.union p q)) ∧
    (clockRoot s.me p ≠ none → clockRoot s.me q ≠ none → clockRoot s.me p ≠ clockRoot s.me q →
      exec (.kdefUnion k p q) s = .next (fatalStop s s.cur s.me.pc (wordOf (.kdefUnion k p q)) .clockMismatch { aux := tagAux [p, q] }))

/-- The presence of clock `p` is known on the open instant: it is k0, or its presence has been fixed (R176, R177). -/
def Sys2Proof.Claims.Fixed (c : Ctx) (p : Tag) (b : Bool) : Prop :=
  (p = 0 ∧ b = true) ∨ (p ≠ 0 ∧ p.toNat < 112 ∧ c.clk[p.toFin].known = true ∧ c.clk[p.toFin].present = b)

/-- R177: presence of a clock by its definition, where its own is not yet fixed and those of its parent or operands are; it is then fixed for the
instant. -/
def Sys2Proof.Claims.ClockPresence : Prop :=
  ∀ (c : Ctx) (k p q : Tag) (bp bq : Bool), k ≠ 0 → k.toNat < 112 → c.iopen = true → c.clk[k.toFin].known = false →
    Fixed c p bp → Fixed c q bq →
    let gives (b : Bool) : Prop := presence c k = .ok (b, fixClock c k b)
    let i := (clockInstant c k).toNat
    (∀ n ph, c.clk[k.toFin].cur = .every p n ph → gives (bp && decide (ph.toNat ≤ i ∧ (i - ph.toNat) % n.toNat = 0))) ∧
    (∀ r, (r ≠ 0 ∧ c.s[r.toFin].pend = false ∧ (c.handler = true ∨ c.s[r.toFin].tag = p) ∧ c.s[r.toFin].dead = false ∧ c.s[r.toFin].bad = false) →
      (c.clk[k.toFin].cur = .on p r → gives (bp && c.s[r.toFin].val.getLsbD 0)) ∧
      (c.clk[k.toFin].cur = .onnot p r → gives (bp && !c.s[r.toFin].val.getLsbD 0))) ∧
    (c.clk[k.toFin].cur = .union p q → clockRoot c k ≠ none → gives (bp || bq)) ∧
    (c.clk[k.toFin].cur = .undef → gives false)

/-- R171, R234, R235: branches, calls and returns, the loops that a branch ends, and register targets that are not aligned. That STG, ITER and B0 read 0
once a branch has ended the reaction is the model's choice (log entry 113). -/
def Obligations.BranchesAndCalls : Prop := BranchEndsLoops ∧ Branches ∧ MisalignedTargetStops

/-- R170, R171, R180, R236: the start of a loop and what happens at its end. That STG, ITER and B0 read 0 once the reaction has ended is the model's choice
(log entry 113). -/
def Obligations.HardwareLoops : Prop := Loops ∧ LoopEnd

/-- R186, R187, R333: RETIRE. -/
def Obligations.Retirement : Prop := Retire ∧ RetireWaits

/-- R176, R177, R244: clock definitions and presence. -/
def Obligations.Clocks : Prop := ClockDefinitions ∧ ClockPresence
/-! ### Stream instructions -/

namespace Sys2Proof.Claims

/-- An operand's tag is `k`, or it has none and adopts any clock (R178). -/
def Adopts (t : Option Tag) (k : Tag) : Prop := t = none ∨ t = some k

/-- The clock field `k` of stream instruction `m` is a proper selector, whose definition names `ks`; the clock that it runs on is present, and the
clocks that it consults are evaluated, with `ps` the present ones among them (R246). -/
def Consults (s : State) (m : Sampler) (k : Tag) (ks ps : List Tag) (c1 c : Ctx) : Prop :=
  rootForbidden s.me k = false ∧ s.me.handler = false ∧ selector s.me m k = some ks ∧ presence s.me (runsOn m k ks) = .ok (true, c1) ∧
    evalAll (consulted c1 m k ks) c1 = .ok (ps, c)

/-- The tag names a present clock other than `k` with parent `kp`. -/
def Sibling (c : Ctx) (ps : List Tag) (k kp : Tag) (t : Option Tag) : Prop := ∃ x, t = some x ∧ x ≠ k ∧ parentOf c x = some kp ∧ x ∈ ps

/-- Which operand a stream instruction takes (R247 to R249, R251), with the tag of its result: `a`, `b`, both by the policy, or zero. -/
def Picks (c : Ctx) (m : Sampler) (k : Tag) (ks ps : List Tag) (ta tb : Option Tag) (p : Pick) (t : Tag) : Prop :=
  let kp := ks.headD 0
  match m with
  | .when => Adopts ta kp ∧ p = .a ∧ t = k
  | .merge => t = kp ∧ ((k ∈ ps ∧ Adopts ta k ∧ ¬ Sibling c ps k kp tb ∧ p = .a) ∨
      (k ∉ ps ∧ (tb = none ∨ Sibling c ps k kp tb) ∧ p = .b))
  | .union => t = k ∧ (ks.getD 0 0 ∈ ps → Adopts ta (ks.getD 0 0)) ∧ (ks.getD 1 0 ∈ ps → Adopts tb (ks.getD 1 0)) ∧
      ((ks.getD 0 0 ∈ ps ∧ ks.getD 1 0 ∈ ps ∧ p = .both) ∨ (ks.getD 0 0 ∈ ps ∧ ks.getD 1 0 ∉ ps ∧ p = .a) ∨
        (ks.getD 0 0 ∉ ps ∧ ks.getD 1 0 ∈ ps ∧ p = .b))
  | .current => t = kp ∧ ((k ∈ ps ∧ Adopts ta k ∧ p = .a) ∨ (k ∉ ps ∧ Adopts ta k ∧ p = .a) ∨ (k ∉ ps ∧ ¬ Adopts ta k ∧ p = .zero))

/-- The scalar policies of UNION on two present operands (R249). -/
def unionS (p : Policy) (a b : Word) : Word :=
  match p with
  | .first => a
  | .second => b
  | .add => a + b
  | .max => if a.toInt < b.toInt then b else a

/-- The scalar stream instructions with one name: the instruction, its sampler, its operands and what UNION does with both. -/
def scalarStream (o : SRR) (pol : Policy) : List (Instr × Sampler × Option (BitVec 6 × Bool)) :=
  [(.whenScalar ⟨o.clk, o.d, o.a, o.ua⟩, .when, none), (.mergeScalar o, .merge, some (o.b, o.ub)),
   (.unionScalar pol o, .union, some (o.b, o.ub)), (.currentScalar ⟨o.clk, o.d, o.a, o.ua⟩, .current, none)]

/-- What a stream instruction reads, and its result. -/
def pickS (s : State) (c : Ctx) (pol : Policy) (a b : BitVec 6) (p : Pick) : Word :=
  match p with
  | .a => readS s c a
  | .b => readS s c b
  | .both => unionS pol (readS s c a) (readS s c b)
  | _ => 0

/-- The delayed instructions: the result of PRE and FBY (R250). -/
def delayedV (fby : Bool) (d : DReg) (init : Vec) : Vec := if d.f then d.held else if fby then init else 0

/-- The clock rules of PRE and FBY on clock `k` (R250). -/
def DelayOk (fby : Bool) (k : Tag) (d : DReg) (ta td : Option Tag) : Prop :=
  Adopts ta k ∧ (fby = true → Adopts td k) ∧ (d.f = true → d.heldTag = k)

/-- The delay register with a new next value. -/
def nextV (c : Ctx) (n : BitVec 4) (w : Vec) (k : Tag) : Ctx :=
  { c with d := c.d.set n.toFin { c.d[n.toFin] with next := w, nextTag := k, nextF := true, valid := true } n.toFin.isLt }

end Sys2Proof.Claims

/-- UNION that finds both operands present is counted (R355). -/
def Sys2Proof.Claims.collides (s : State) (p : Pick) : State := if p = .both then countCell s s.cur.cell s.cur.slot 9 else s

/-- R246 to R249, R251: WHEN, MERGE, UNION and CURRENT on scalars. Every source with a last-use bit dies, also one that is not read (the model's reading of R215
and R245: log entry 22). The result goes to s[D] with the tag of the rule; UNION of two present clocks sets
COLL and is counted. -/
def Sys2Proof.Claims.ScalarStreams : Prop :=
  ∀ (o : SRR) (pol : Policy), ∀ x ∈ scalarStream o pol, ∀ (s : State) (ks ps : List Tag) (c1 c : Ctx) (p : Pick) (t : Tag),
    Consults s x.2.1 o.clk ks ps c1 c →
    Picks c x.2.1 o.clk ks ps (tagS s.me o.a) (x.2.2.bind fun y => tagS s.me y.1) p t →
    FreeS c o.d → FreeS c o.a → (x.2.2 ≠ none → FreeS c o.b) →
    (p = .a ∨ p = .both → ReadableCtl c o.a) → (p = .b ∨ p = .both → ReadableCtl c o.b) →
    let d : Ctx := if p = .both then { c with coll := true } else c
    let src := (o.a, o.ua) :: x.2.2.toList
    ∃ u, exec x.1 s = .next u ∧ u = goOn (collides s p) (writeS (killS d src) o.d (pickS s c pol o.a o.b p) t false) ∧ SameMem s u

/-- R250: PRE and FBY on scalars, once the last instant's rotation has happened. They use bytes 0 to 7 of the delay register and write zero above
them. -/
def Sys2Proof.Claims.ScalarDelays : Prop :=
  ∀ (fby : Bool) (o : SDelay) (s : State) (c : Ctx), Present s o.clk c → c.handler = false → (∀ e ∈ c.qC, e.kind ≠ .cMark) →
    FreeS c o.d → ReadableCtl c o.a → (fby = true → c.d[o.dl.toFin].f = false → ReadableCtl c o.d) → c.badRegs.contains (.d, o.dl.toNat) = false →
    DelayOk fby o.clk c.d[o.dl.toFin] (tagS c o.a) (tagS c o.d) →
    ∃ t, exec (if fby then .fbyScalar o else .preScalar o) s = .next t ∧ SameMem s t ∧
      t = goOn s (writeS (killS (nextV c o.dl ((readS s c o.a).setWidth 4096) o.clk) [(o.a, o.ua)]) o.d
        ((delayedV fby c.d[o.dl.toFin] ((readS s c o.d).setWidth 4096)).setWidth 64) o.clk false)

namespace Sys2Proof.Claims

/-- The vector forms: the instruction, its sampler, whether it has a second operand. -/
def vectorStream (o : VOp) (pol : Policy) : List (Instr × Sampler × Bool) :=
  [(.whenVector o, .when, false), (.mergeVector o, .merge, true), (.unionVector pol o, .union, true), (.currentVector o, .current, false)]

/-- The element type of UNION in its elementwise policies. -/
def unionV (pol : Policy) (t : ElemType) (a b w : Vec) : Prop :=
  match pol with
  | .first => w = a
  | .second => w = b
  | .add => IsLanes w t.width fun i => addE t false (lane a t.width i) (lane b t.width i)
  | .max => IsLanes w t.width fun i => maxE t (lane a t.width i) (lane b t.width i)

/-- A vector register that a stream instruction reads. -/
def ReadV (c : Ctx) (f : BitVec 6) : Prop :=
  let x := c.v[(fld f 0 5 : BitVec 5).toFin]
  (c.chk = false ∨ x.dead = false) ∧ x.bad = 0

/-- The value of a vector register field. -/
def regV (s : State) (c : Ctx) (f : BitVec 6) : Vec := readV s c (fld f 0 5) false

/-- No ACCRD has still to write one of these vector registers (R292). -/
def Unpended (c : Ctx) (fs : List (BitVec 6)) : Prop := ∀ f ∈ fs, c.v[(fld f 0 5 : BitVec 5).toFin].pend = false

/-- A vector stream instruction issues as it routes. -/
def StreamReady (s : State) (i : Instr) (c : Ctx) : Prop :=
  c.qC = [] ∧ TokensReady c .c i ∧ c.badRegs = [] ∧ s.me.qC = [] ∧ Unheld c .c

end Sys2Proof.Claims

/-- R245 to R249, R251: WHEN, MERGE, UNION and CURRENT on vectors. Every source with a last-use bit dies (log entry 22). -/
def Sys2Proof.Claims.VectorStreams : Prop :=
  ∀ (o : VOp) (pol : Policy), ∀ x ∈ vectorStream o pol, ∀ (s : State) (ks ps : List Tag) (c1 c : Ctx) (p : Pick) (t : Tag),
    o.mod = 0 → o.a.toNat < 32 → o.b.toNat < 32 → o.d.toNat < 32 → (x.2.2 = false → o.ub = false) →
    Consults s x.2.1 (clkOf x.1) ks ps c1 c → StreamReady s x.1 c → Unpended c (if x.2.2 then [o.d, o.a, o.b] else [o.d, o.a]) →
    Picks c x.2.1 (clkOf x.1) ks ps (some c.v[(fld o.a 0 5 : BitVec 5).toFin].tag)
      (if x.2.2 then some c.v[(fld o.b 0 5 : BitVec 5).toFin].tag else none) p t →
    (p = .a ∨ p = .both → ReadV c o.a) → (p = .b ∨ p = .both → ReadV c o.b) →
    let d := atIssue c .c x.1 [] []
    let d := killV (killV d (fld o.a 0 5) o.ua false) (fld o.b 0 5) o.ub false
    let d : Ctx := if p = .both then { d with coll := true } else d
    ∃ u w, exec x.1 s = .next u ∧ u = goOn (collides s p) (pushed (writeV d (fld o.d 0 5) w t false) .c x.1) ∧ SameMem s u ∧
      (p = .a → w = regV s c o.a) ∧ (p = .b → w = regV s c o.b) ∧ (p = .zero → w = 0) ∧
      (p = .both → unionV pol o.ty (regV s c o.a) (regV s c o.b) w)

/-- R245 to R249, R251, R287: the tile forms. Every source with a last-use bit dies (log entry 22). The tile's 16 KiB are copied or become zero, and its tag is the result's. The bytes of a dead source are
free values in normal mode (R215). -/
def Sys2Proof.Claims.TileStreams : Prop :=
  ∀ (o : VOp) (pol : Policy), pol = .first ∨ pol = .second → ∀ x ∈ vectorStream o pol,
    ∀ (s : State) (ks ps : List Tag) (c1 c : Ctx) (p : Pick) (t : Tag),
    let ta : BitVec 3 := fld o.a 0 3
    let tb : BitVec 3 := fld o.b 0 3
    let td : BitVec 3 := fld o.d 0 3
    let key (n : BitVec 3) (j : Nat) : Nat := tileKey s.cur.cell (16384 * n.toNat + j)
    let live (n : BitVec 3) : Prop := c.chk = false ∨ c.t[n.toFin].dead = false
    s.Inv → o.mod = 1 → o.a.toNat < 8 → o.b.toNat < 8 → o.d.toNat < 8 → (x.2.2 = false → o.ub = false) → s.poison = [] →
    (s.cell s.cur.cell).nest = none → (s.cell s.cur.cell).engine = [] →
    Consults s x.2.1 (clkOf x.1) ks ps c1 c → StreamReady s x.1 c →
    Picks c x.2.1 (clkOf x.1) ks ps (some c.t[ta.toFin].tag) (if x.2.2 then some c.t[tb.toFin].tag else none) p t →
    (p = .a ∨ p = .both → live ta) → (p = .b ∨ p = .both → live tb) →
    let d := atIssue c .c x.1 [] []
    let d := killTile (killTile d ta o.ua false) tb o.ub false
    let d : Ctx := if p = .both then { d with coll := true } else d
    ∃ u, exec x.1 s = .next u ∧ u.ctxs = (goOn s (pushed (tagTile d td t false) .c x.1)).ctxs ∧
      (p = .a ∨ (p = .both ∧ pol = .first) → c.t[ta.toFin].dead = false → ∀ j, j < 16384 → u.byte (key td j) = s.byte (key ta j)) ∧
      (p = .b ∨ (p = .both ∧ pol = .second) → c.t[tb.toFin].dead = false → ∀ j, j < 16384 → u.byte (key td j) = s.byte (key tb j)) ∧
      (p = .zero → ∀ j, j < 16384 → u.byte (key td j) = 0) ∧ ∀ k, (k < key td 0 ∨ key td 16384 ≤ k) → u.byte k = s.byte k

/-- R250: PRE and FBY on vectors. -/
def Sys2Proof.Claims.VectorDelays : Prop :=
  ∀ (fby : Bool) (o : VOp) (s : State) (c : Ctx),
    let i : Instr := if fby then .fbyVector o else .preVector o
    let dn : BitVec 4 := fld o.b 0 4
    Ready s i .c [] [] c → c.handler = false → Unpended c [o.d, o.a] → ReadV c o.a → (fby = true → c.d[dn.toFin].f = false → ReadV c o.d) →
    DelayOk fby (clkOf i) c.d[dn.toFin] (some c.v[(fld o.a 0 5 : BitVec 5).toFin].tag) (some c.v[(fld o.d 0 5 : BitVec 5).toFin].tag) →
    ∃ t, exec i s = .next t ∧ SameMem s t ∧
      t = goOn s (pushed (writeV (nextV (killV (atIssue c .c i [] []) (fld o.a 0 5) o.ua false) dn (regV s c o.a) (clkOf i)) (fld o.d 0 5)
        (delayedV fby c.d[dn.toFin] (regV s c o.d)) (clkOf i) false) .c i)

/-- R245 to R249, R251: WHEN, MERGE, UNION and CURRENT on scalars, vectors and tiles. That every source with a last-use bit dies, although only one may be
read, is the model's reading (log entry 22). -/
def Obligations.StreamInstructions : Prop := ScalarStreams ∧ VectorStreams ∧ TileStreams

/-- R183, R250: PRE and FBY. -/
def Obligations.DelayInstructions : Prop := ScalarDelays ∧ VectorDelays
/-! ### Vector instructions -/

namespace Sys2Proof.Claims

/-- The integer of an element of type `t` (R190). -/
def elemI (t : ElemType) (a : Nat) : Int := if t.signed ∧ 2 ^ (t.width - 1) ≤ a then (a : Int) - 2 ^ t.width else a

/-- The element whose integer is `x`, wrapped to the type's width (R198). -/
def wrapI (t : ElemType) (x : Int) : Nat := (x % 2 ^ t.width).toNat

/-- The element whose integer is `x` clamped to the type's range (R264). -/
def clampI (t : ElemType) (x : Int) : Nat :=
  wrapI t (max (if t.signed then -(2 ^ (t.width - 1)) else 0) (min (if t.signed then 2 ^ (t.width - 1) - 1 else 2 ^ t.width - 1) x))

/-- An elementwise function: by `fl` on floating-point patterns, and by `int` on integers, wrapped or clamped. -/
def elemOp (t : ElemType) (sat : Bool) (fl : Nat) (int : Int) : Nat := if t.isF then fl else if sat then clampI t int else wrapI t int

/-- The right shift of `w` bits with copies of the top bit. -/
def shiftRightS (w a n : Nat) : Nat := (((if 2 ^ (w - 1) ≤ a then (a : Int) - 2 ^ w else a) / 2 ^ n) % 2 ^ w).toNat

/-- A condition of VCMP on two elements (R267): integers by value; for floating-point lanes a NaN makes NE alone true, and otherwise the values
are compared. -/
def condE (t : ElemType) (cc : VCond) (a b : Nat) : Bool :=
  if t.isF then
    if flOf t a = .nan ∨ flOf t b = .nan then cc == .ne
    else
      let o := (flOf t a).cmp (flOf t b)
      match cc with
      | .eq => o == .eq
      | .ne => o != .eq
      | .lt => o == .lt
      | .le => o != .gt
      | .gt => o == .gt
      | .ge => o != .lt
  else
    match cc with
    | .eq => decide (elemI t a = elemI t b)
    | .ne => decide (elemI t a ≠ elemI t b)
    | .lt => decide (elemI t a < elemI t b)
    | .le => decide (elemI t a ≤ elemI t b)
    | .gt => decide (elemI t b < elemI t a)
    | .ge => decide (elemI t b ≤ elemI t a)

/-- The smaller or larger of two elements (R264): for floating-point lanes by the order of R211, which puts −0 below +0, with a NaN giving the
canonical NaN. -/
def pickE (t : ElemType) (larger : Bool) (a b : Nat) : Nat :=
  if t.isF then
    if flOf t a = .nan ∨ flOf t b = .nan then (fmtOf t).nan
    else if larger then (if floatKey (fmtOf t) a < floatKey (fmtOf t) b then b else a)
    else if floatKey (fmtOf t) b < floatKey (fmtOf t) a then b else a
  else if larger then (if elemI t a < elemI t b then b else a) else if elemI t b < elemI t a then b else a

/-- The immediate of a VI instruction as an element (R222). -/
def immE (t : ElemType) (imm : BitVec 16) : Nat :=
  if t = .fp32 then imm.toNat * 65536 else if t = .bf16 ∨ t = .fp16 then imm.toNat
  else wrapI t (if t.signed then imm.toInt else imm.toNat)

/-- The arithmetic, logic and shift functions of two elements (R264, R266), with the instruction that has each and, where it has one, its immediate
form. -/
def twoOps : List ((VOp → Instr) × Option (VImm → Instr) × (ElemType → Bool → Nat → Nat → Nat)) :=
  [(.vadd, some .vaddImm, fun t sat a b => elemOp t sat (addBits (fmtOf t) a b) (elemI t a + elemI t b)),
   (.vsub, some .vsubImm, fun t sat a b => elemOp t sat (subBits (fmtOf t) a b) (elemI t a - elemI t b)),
   (.vmul, some .vmulImm, fun t _ a b => elemOp t false (mulBits (fmtOf t) a b) (elemI t a * elemI t b)),
   (.vmin, some .vminImm, fun t _ a b => pickE t false a b), (.vmax, some .vmaxImm, fun t _ a b => pickE t true a b),
   (.vdiv, none, fun t _ a b => Fl.div (fmtOf t) (flOf t a) (flOf t b)),
   (.vmulh, none, fun t _ a b => wrapI t (elemI t a * elemI t b / 2 ^ t.width)),
   (.vand, some .vandImm, fun _ _ a b => a &&& b), (.vor, some .vorImm, fun _ _ a b => a ||| b), (.vxor, some .vxorImm, fun _ _ a b => a ^^^ b),
   (.vandn, some .vandnImm, fun t _ a b => a &&& (2 ^ t.width - 1 - b)),
   (.vsll, some .vsllImm, fun t _ a b => a * 2 ^ (b % t.width)), (.vsrl, some .vsrlImm, fun t _ a b => a / 2 ^ (b % t.width)),
   (.vsra, some .vsraImm, fun t _ a b => shiftRightS t.width a (b % t.width)),
   (.vrotl, some .vrotlImm, fun t _ a b => a * 2 ^ (b % t.width) % 2 ^ t.width + a / 2 ^ (t.width - b % t.width))]

/-- The functions of one element: R264, R266, R268, R273, R275, R211. `m` is the modifier field. -/
def oneOps : List ((VOp → Instr) × (ElemType → BitVec 4 → Nat → Nat)) :=
  [(.vabs, fun t m a => elemOp t (m.getLsbD 0) ((flOf t a).abs.encode (fmtOf t)) |elemI t a|),
   (.vneg, fun t m a => elemOp t (m.getLsbD 0) ((flOf t a).neg.encode (fmtOf t)) (-elemI t a)),
   (.vnot, fun t _ a => 2 ^ t.width - 1 - a), (.vmov, fun _ _ a => a),
   (.vrcp, fun t _ a => rcpBits (fmtOf t) (flOf t a)), (.vsqrt, fun t _ a => Sfu.sqrtBits (fmtOf t) (flOf t a)),
   (.vrsqrt, fun t _ a => Sfu.rsqrtBits (fmtOf t) (flOf t a)), (.vexp, fun t _ a => Sfu.expBits (fmtOf t) (flOf t a)),
   (.vexp2, fun t _ a => Sfu.exp2Bits (fmtOf t) (flOf t a)), (.vlog2, fun t _ a => Sfu.log2Bits (fmtOf t) (flOf t a)),
   (.vtanh, fun t _ a => Sfu.tanhBits (fmtOf t) (flOf t a)), (.vsigm, fun t _ a => Sfu.sigmBits (fmtOf t) (flOf t a)),
   (.vdigit, fun _ m a => if m.getLsbD 3 then a / 2 ^ (4 * (m.toNat % 8)) % 16 else a / 2 ^ (8 * (m.toNat % 8)) % 256),
   (.vordkey, fun t _ a => if t.isF then floatKey (fmtOf t) a else if t.signed then (a + 2 ^ (t.width - 1)) % 2 ^ t.width else a)]

/-- The FMA group: a × b ± d with one rounding, or wrapped (R265). -/
def fmaOps : List ((VOp → Instr) × (ElemType → Nat → Nat → Nat → Nat)) :=
  [(.vfma, fun t a b d => elemOp t false (fmaBits (fmtOf t) (flOf t a) (flOf t b) (flOf t d)) (elemI t a * elemI t b + elemI t d)),
   (.vfms, fun t a b d => elemOp t false (fmaBits (fmtOf t) (flOf t a) (flOf t b) (flOf t d).neg) (elemI t a * elemI t b - elemI t d)),
   (.vfnma, fun t a b d => elemOp t false (fmaBits (fmtOf t) (flOf t a).neg (flOf t b) (flOf t d)) (elemI t d - elemI t a * elemI t b))]

/-- An instruction that computes one vector lane by lane: its vector sources and captured scalars with their last-use bits, its destination, its
mask, its lane width and the function of the scalars, the sources and the lane number. -/
structure LaneOp where
  i : Instr
  srcs : List (BitVec 6 × Bool)
  scal : List (BitVec 6 × Bool) := []
  d : BitVec 6
  me : Bool
  msk : BitVec 3
  w : Nat
  f : List Word → List Vec → Nat → Nat

/-- The instruction runs (R178, R215, R258 to R262): its result goes to its destination with its clock; an active lane holds the function's value and an
inactive one keeps what a destination register held, or is zero. -/
def LaneOp.runs (p : LaneOp) : Prop :=
  ∀ (s : State) (c : Ctx), Ready s p.i .c (p.scal.map (·.1)) [] c → (∀ x ∈ p.scal, CapturedOk c (clkOf p.i) x.1) →
    (∀ x ∈ p.srcs, ReadableV c (clkOf p.i) x.1) → (p.me = true → isReg p.d = true → ReadableV c (clkOf p.i) p.d) → WritableV s p.d →
    ∃ t u v, exec p.i s = .next t ∧ SameMem s t ∧
      IsLanes v p.w (fun j => if p.me = false ∨ (c.m[p.msk.toFin]).getLsbD j then
        p.f (p.scal.map fun x => readS s c x.1) (p.srcs.map fun x => valV s c x.1) j
        else lane (if isReg p.d then valV s c p.d else 0) p.w j) ∧
      writeDst (s.setMe (useSrcs (atIssue c .c p.i p.scal []) p.srcs c.handler)) p.d v (clkOf p.i) c.handler = .ok u ∧ t = issued u .c p.i

/-- `op.type vD, vA, vB`. -/
def twoOp (x : (VOp → Instr) × Option (VImm → Instr) × (ElemType → Bool → Nat → Nat → Nat)) (o : VOp) : LaneOp :=
  { i := x.1 o, srcs := [(o.a, o.ua), (o.b, o.ub)], d := o.d, me := o.me, msk := o.msk, w := o.ty.width,
    f := fun _ v j => x.2.2 o.ty (o.mod.getLsbD 0) (lane (v.getD 0 0) o.ty.width j) (lane (v.getD 1 0) o.ty.width j) }

end Sys2Proof.Claims

/-- R164, R178, R262, R333: a vector result at its destination: a register that no ACCRD has still to write takes the value and the tag, is live and
clean, and no other register changes;
0x30 discards it; an output queue hands it to the neighbour's input queue from this cell, at its tail. -/
def Sys2Proof.Claims.VectorWrite : Prop :=
  ∀ (s : State) (f : BitVec 6) (w : Vec) (k : Tag) (h : Bool),
    (∀ r, vsrc f = .reg r → s.me.v[r.toFin].pend = false → writeDst s f w k h = .ok (s.setMe { s.me with
      v := s.me.v.set r.toFin { val := w, tag := if h then s.me.v[r.toFin].tag else k, dead := false, bad := 0 } r.toFin.isLt })) ∧
    (vsrc f = .zero → writeDst s f w k h = .ok s) ∧
    (∀ (d b : Fin 4) (n : Nat), vsrc f = .nq d → neighbour s.cur.cell d = some n → samePart s n = true → b.val = opposite d →
      ((s.cx ⟨n, s.cur.slot⟩).nq[b]).length < 4 →
      writeDst s f w k h = .ok (s.setCx ⟨n, s.cur.slot⟩ { s.cx ⟨n, s.cur.slot⟩ with
        nq := (s.cx ⟨n, s.cur.slot⟩).nq.set b ((s.cx ⟨n, s.cur.slot⟩).nq[b] ++ [{ val := w, tag := k, bad := 0 }]) }))

/-- R164, R215, R262, R333: last uses of vector sources. A marked register dies but in handler mode; a marked input queue loses its head once, however many
fields name it; nothing else changes. -/
def Sys2Proof.Claims.VectorLastUse : Prop :=
  ∀ (c : Ctx) (l : List (BitVec 6 × Bool)) (h : Bool),
    (∀ r : BitVec 5, (useSrcs c l h).v[r.toFin] =
      { c.v[r.toFin] with dead := c.v[r.toFin].dead || (!h && l.any fun x => vsrc x.1 == .reg r && x.2) }) ∧
    (∀ d : Fin 4, (useSrcs c l h).nq[d] = if l.any fun x => vsrc x.1 == .nq d && x.2 then (c.nq[d]).drop 1 else c.nq[d]) ∧
    { useSrcs c l h with v := c.v, nq := c.nq } = c

/-- R264, R266: the arithmetic, logic and shift instructions of two vectors. -/
def Sys2Proof.Claims.VectorTwoSources : Prop := ∀ x ∈ twoOps, ∀ o : VOp, (twoOp x o).runs

/-- R269: the same functions with an immediate in every lane, without a modifier, and VMOVI. -/
def Sys2Proof.Claims.VectorImmediates : Prop :=
  (∀ x ∈ twoOps, ∀ g, x.2.1 = some g → ∀ o : VImm,
    LaneOp.runs { i := g o, srcs := [(o.a, o.ua)], d := o.d, me := o.me, msk := o.msk, w := o.ty.width,
                  f := fun _ v j => x.2.2 o.ty false (lane (v.getD 0 0) o.ty.width j) (immE o.ty o.imm) }) ∧
  (∀ o : VImm, LaneOp.runs { i := .vmovi o, srcs := [], d := o.d, me := o.me, msk := o.msk, w := o.ty.width, f := fun _ _ _ => immE o.ty o.imm })

/-- R211, R264, R266, R268, R273, R275: the instructions of one vector. -/
def Sys2Proof.Claims.VectorOneSource : Prop :=
  ∀ x ∈ oneOps, ∀ o : VOp,
    LaneOp.runs { i := x.1 o, srcs := [(o.a, o.ua)], d := o.d, me := o.me, msk := o.msk, w := o.ty.width,
                  f := fun _ v j => x.2 o.ty o.mod (lane (v.getD 0 0) o.ty.width j) }

/-- R265: the FMA group, which reads D as its third operand. -/
def Sys2Proof.Claims.VectorMultiplyAdd : Prop :=
  ∀ x ∈ fmaOps, ∀ o : VOp,
    LaneOp.runs { i := x.1 o, srcs := [(o.a, o.ua), (o.b, o.ub), (o.d, o.ud)], d := o.d, me := o.me, msk := o.msk, w := o.ty.width,
                  f := fun _ v j => x.2 o.ty (lane (v.getD 0 0) o.ty.width j) (lane (v.getD 1 0) o.ty.width j) (lane (v.getD 2 0) o.ty.width j) }

/-- R268, R278, R282: VSEL, which writes every lane; VINS, which reads D and replaces one lane; VSPLAT; and VCBDEC. -/
def Sys2Proof.Claims.VectorSelectInsertSplat : Prop :=
  ∀ o : VOp,
    (∀ (s : State) (c : Ctx), Ready s (.vsel o) .c [] [] c → ReadableV c (clkOf (.vsel o)) o.a → ReadableV c (clkOf (.vsel o)) o.b → WritableV s o.d →
      ∃ t u v, exec (.vsel o) s = .next t ∧ SameMem s t ∧
        IsLanes v o.ty.width (fun j => lane (if (c.m[o.msk.toFin]).getLsbD j then valV s c o.a else valV s c o.b) o.ty.width j) ∧
        writeDst (s.setMe (useSrcs (atIssue c .c (.vsel o) [] []) [(o.a, o.ua), (o.b, o.ub)] c.handler)) o.d v (clkOf (.vsel o)) c.handler = .ok u ∧
        t = issued u .c (.vsel o)) ∧
    LaneOp.runs { i := .vins o, srcs := [(o.d, o.ud)], scal := [(o.a, o.ua), (o.b, o.ub)], d := o.d, me := false, msk := 0, w := o.ty.width,
                  f := fun x v j => if j = (x.getD 1 0).toNat then (x.getD 0 0).toNat else lane (v.getD 0 0) o.ty.width j } ∧
    LaneOp.runs { i := .vsplat o, srcs := [], scal := [(o.a, o.ua)], d := o.d, me := o.me, msk := o.msk, w := o.ty.width,
                  f := fun x _ _ => (x.getD 0 0).toNat } ∧
    (∀ (cb : BitVec 3) (s : State) (c : Ctx), Ready s (.vcbdec cb o) .c [] [] c → ReadableV c (clkOf (.vcbdec cb o)) o.a →
      ReadableV c (clkOf (.vcbdec cb o)) o.b → (o.me = true → isReg o.d = true → ReadableV c (clkOf (.vcbdec cb o)) o.d) → WritableV s o.d →
      ∃ t u v, exec (.vcbdec cb o) s = .next t ∧ SameMem s t ∧
        IsLanes v 16 (fun j => if o.me = false ∨ (c.m[o.msk.toFin]).getLsbD j then
          cbValue c.cb[cb.toFin] (lane (valV s c o.a) 4 (256 * o.mod.toNat + j)) (lane (valV s c o.b) 16 j)
          else lane (if isReg o.d then valV s c o.d else 0) 16 j) ∧
        writeDst (s.setMe (useSrcs (atIssue c .c (.vcbdec cb o) [] []) [(o.a, o.ua), (o.b, o.ub)] c.handler)) o.d v (clkOf (.vcbdec cb o)) c.handler =
          .ok u ∧
        t = issued u .c (.vcbdec cb o))

namespace Sys2Proof.Claims

/-- A mask whose bits are those of `g` below `n` and clear from `n` on. -/
def IsMask (m : BitVec 1024) (n : Nat) (g : Nat → Bool) : Prop := ∀ j, j < 1024 → m.getLsbD j = (decide (j < n) && g j)

/-- Mask register `k` replaced. -/
def withMask (c : Ctx) (k : BitVec 3) (m : BitVec 1024) : Ctx := { c with m := c.m.set k.toFin m k.toFin.isLt }

/-- The lane is active under mask register `msk` (R260). -/
def live (c : Ctx) (me : Bool) (msk : BitVec 3) (j : Nat) : Bool := !me || (c.m[msk.toFin]).getLsbD j

/-- No gather or scatter that was routed before has still to read mask `k` (R280). -/
def MaskFree (c : Ctx) (k : BitVec 3) : Prop :=
  ∀ e ∈ c.qL ++ c.qS, ∀ o : LdStVX, e.i = .ldvx o ∨ e.i = .stvx o → o.me = true → o.msk ≠ k

/-- No ACCRD has still to write one of the `n` registers of a group, first at `d` (R292). -/
def GroupFree (c : Ctx) (d : BitVec 6) (n : Nat) : Prop := ∀ j, j < n → c.v[(fld (d + BitVec.ofNat 6 j) 0 5 : BitVec 5).toFin].pend = false

/-- The mask named by a D, A or B field. -/
def maskOf (c : Ctx) (f : BitVec 6) : BitVec 1024 := c.m[(fld f 0 3 : BitVec 3).toFin]

end Sys2Proof.Claims

/-- R267, R269: VCMP with a vector and with an immediate. Bits of inactive lanes and from n on are clear. -/
def Sys2Proof.Claims.VectorCompare : Prop :=
  (∀ (cc : VCond) (o : VOp) (s : State) (c : Ctx), Ready s (.vcmp cc o) .c [] [] c → ReadableV c (clkOf (.vcmp cc o)) o.a →
    ReadableV c (clkOf (.vcmp cc o)) o.b → MaskFree c (fld o.d 0 3) →
    ∃ t m, exec (.vcmp cc o) s = .next t ∧ SameMem s t ∧
      IsMask m o.ty.lanes (fun j => live c o.me o.msk j && condE o.ty cc (lane (valV s c o.a) o.ty.width j) (lane (valV s c o.b) o.ty.width j)) ∧
      t = goOn s (pushed (withMask (useSrcs (atIssue c .c (.vcmp cc o) [] []) [(o.a, o.ua), (o.b, o.ub)] c.handler) (fld o.d 0 3) m) .c (.vcmp cc o))) ∧
  (∀ (cc : VCond) (o : VImm) (s : State) (c : Ctx), Ready s (.vcmpImm cc o) .c [] [] c → ReadableV c (clkOf (.vcmpImm cc o)) o.a →
    MaskFree c (fld o.d 0 3) → ∃ t m, exec (.vcmpImm cc o) s = .next t ∧ SameMem s t ∧
      IsMask m o.ty.lanes (fun j => live c o.me o.msk j && condE o.ty cc (lane (valV s c o.a) o.ty.width j) (immE o.ty o.imm)) ∧
      t = goOn s (pushed (withMask (useSrcs (atIssue c .c (.vcmpImm cc o) [] []) [(o.a, o.ua)] c.handler) (fld o.d 0 3) m) .c (.vcmpImm cc o)))

namespace Sys2Proof.Claims

/-- The mask instructions of R281 that write a mask. -/
def maskOps : List ((VOp → Instr) × (BitVec 1024 → BitVec 1024 → BitVec 1024)) :=
  [(.mand, fun a b => a &&& b), (.mor, fun a b => a ||| b), (.mxor, fun a b => a ^^^ b), (.mandn, fun a b => a &&& ~~~b), (.mnot, fun a _ => ~~~a),
   (.mset, fun _ _ => BitVec.allOnes 1024), (.mclr, fun _ _ => 0)]

end Sys2Proof.Claims

/-- R281: the instructions on masks, MTOV and VTOM, and the counts, which write a scalar register. -/
def Obligations.Masks : Prop :=
  ∀ o : VOp,
    (∀ x ∈ maskOps, ∀ (s : State) (c : Ctx), Ready s (x.1 o) .c [] [] c → MaskFree c (fld o.d 0 3) → ∃ t, exec (x.1 o) s = .next t ∧ SameMem s t ∧
      t = goOn s (pushed (withMask (atIssue c .c (x.1 o) [] []) (fld o.d 0 3) (x.2 (maskOf c o.a) (maskOf c o.b))) .c (x.1 o))) ∧
    (∀ (s : State) (c : Ctx), Ready s (.mcnt o) .c [] [o.d] c → ∃ t, exec (.mcnt o) s = .next t ∧ SameMem s t ∧
      t = goOn s (pushed (writeS (atIssue c .c (.mcnt o) [] [o.d]) o.d
        (BitVec.ofNat 64 ((List.range o.ty.lanes).filter fun j => (maskOf c o.a).getLsbD j).length) (clkOf (.mcnt o)) c.handler) .c (.mcnt o))) ∧
    (∀ (s : State) (c : Ctx), Ready s (.mfirst o) .c [] [o.d] c → ∃ t n, exec (.mfirst o) s = .next t ∧ SameMem s t ∧
      n ≤ o.ty.lanes ∧ (∀ j, j < n → (maskOf c o.a).getLsbD j = false) ∧ (n < o.ty.lanes → (maskOf c o.a).getLsbD n = true) ∧
      t = goOn s (pushed (writeS (atIssue c .c (.mfirst o) [] [o.d]) o.d (BitVec.ofNat 64 n) (clkOf (.mfirst o)) c.handler) .c (.mfirst o))) ∧
    (∀ (s : State) (c : Ctx), Ready s (.mtov o) .c [] [] c → WritableV s o.d → ∃ t u, exec (.mtov o) s = .next t ∧ SameMem s t ∧
      writeDst (s.setMe (atIssue c .c (.mtov o) [] [])) o.d ((maskOf c o.a).setWidth 4096) (clkOf (.mtov o)) c.handler = .ok u ∧
      t = issued u .c (.mtov o)) ∧
    (∀ (s : State) (c : Ctx), Ready s (.vtom o) .c [] [] c → ReadableV c (clkOf (.vtom o)) o.a → MaskFree c (fld o.d 0 3) → ∃ t, exec (.vtom o) s = .next t ∧ SameMem s t ∧
      t = goOn s (pushed (withMask (useSrcs (atIssue c .c (.vtom o) [] []) [(o.a, o.ua)] c.handler) (fld o.d 0 3) ((valV s c o.a).setWidth 1024))
        .c (.vtom o)))

namespace Sys2Proof.Claims

/-- The registers of a group, first at `d`, written in order. -/
def writeRegs (x : Ctx) (d : BitVec 6) (k : Tag) (hand : Bool) : List Vec → Nat → Ctx
  | [], _ => x
  | v :: l, n => writeRegs (writeV x (fld (d + BitVec.ofNat 6 n) 0 5) v k hand) d k hand l (n + 1)

/-- The lanes of a source with inactive lanes as zero. -/
def terms (c : Ctx) (o : VOp) (v : Vec) : List Nat :=
  (List.range o.ty.lanes).map fun j => if live c o.me o.msk j then lane v o.ty.width j else 0

/-- The active lanes of a source, lowest first. -/
def actives (c : Ctx) (o : VOp) (v : Vec) : List Nat := ((List.range o.ty.lanes).filter (live c o.me o.msk)).map (lane v o.ty.width)

end Sys2Proof.Claims

/-- R270: VCVT. Element i of the source goes to register D + (i mod f), lane i div f, when it widens; destination lane i comes from register A + (i mod f),
lane i div f, when it narrows; lane for lane otherwise. -/
def Obligations.VectorConvert : Prop :=
  ∀ (dst : ElemType) (o : VOp) (s : State) (c : Ctx),
    let i : Instr := .vcvt dst o
    let ws := o.ty.width
    let wd := dst.width
    let cv := convert o.ty dst (o.mod.getLsbD 0) (o.mod.getLsbD 1)
    Ready s i .c [] [] c →
    (ws < wd → ReadableV c (clkOf i) o.a → (o.me = true → ∀ n, n < wd / ws → ReadableV c (clkOf i) (o.d + BitVec.ofNat 6 n)) →
      GroupFree c o.d (wd / ws) →
      ∃ t vs, exec i s = .next t ∧ SameMem s t ∧ vs.length = wd / ws ∧
        (∀ n, n < wd / ws → IsLanes (vs.getD n 0) wd fun j =>
          let e := wd / ws * j + n
          if live c o.me o.msk e then cv (lane (valV s c o.a) ws e) else lane (valV s c (o.d + BitVec.ofNat 6 n)) wd j) ∧
        t = goOn s (pushed (writeRegs (useSrcs (atIssue c .c i [] []) [(o.a, o.ua)] c.handler) o.d (clkOf i) c.handler vs 0) .c i)) ∧
    (wd ≤ ws → (∀ n, n < ws / wd → ReadableV c (clkOf i) (o.a + BitVec.ofNat 6 n)) →
      (o.me = true → isReg o.d = true → ReadableV c (clkOf i) o.d) → WritableV s o.d →
      ∃ t u v, exec i s = .next t ∧ SameMem s t ∧
        IsLanes v wd (fun j => if live c o.me o.msk j then cv (lane (valV s c (o.a + BitVec.ofNat 6 (j % (ws / wd)))) ws (j / (ws / wd)))
          else lane (if isReg o.d then valV s c o.d else 0) wd j) ∧
        writeDst (s.setMe (useSrcs (atIssue c .c i [] []) ((List.range (ws / wd)).map fun n => (o.a + BitVec.ofNat 6 n, o.ua)) c.handler)) o.d v
          (clkOf i) c.handler = .ok u ∧
        t = issued u .c i)

/-- R204, R208, R271, R272: VRSUM, VRMAX and VRMIN leave their result in lane 0 and zero elsewhere; lane i of VSCAN is the VRSUM of lanes 0 to i, in the group's
layout of widening. With an empty mask and a NaN initial value VRSUM and VSCAN give the canonical NaN and VRMAX and VRMIN the pattern given, where R271 says that
every form returns its initial value: the model's choice (log entry 106). -/
def Obligations.VectorReductions : Prop :=
  ∀ (o : VOp) (np : BitVec 4),
    (∀ x ∈ [((.vrsum np o : Instr), true, false), (.vrmax o, false, true), (.vrmin o, false, false)], ∀ (s : State) (c : Ctx),
      Ready s x.1 .c [] [] c → ReadableV c (clkOf x.1) o.a → ReadableV c (clkOf x.1) o.b → WritableV s o.d →
      let w := if x.2.1 then 32 else o.ty.width
      let init := lane (valV s c o.b) w 0
      ∃ t u v, exec x.1 s = .next t ∧ SameMem s t ∧
        IsLanes v w (fun j => if j = 0 then
          (if x.2.1 then reduceSum o.ty init (terms c o (valV s c o.a)) else (actives c o (valV s c o.a)).foldl (pickE o.ty x.2.2) init) else 0) ∧
        writeDst (s.setMe (useSrcs (atIssue c .c x.1 [] []) [(o.a, o.ua), (o.b, o.ub)] c.handler)) o.d v (clkOf x.1) c.handler = .ok u ∧
        t = issued u .c x.1) ∧
    (∀ (s : State) (c : Ctx), let i : Instr := .vscan np o;
      Ready s i .c [] [] c → ReadableV c (clkOf i) o.a → ReadableV c (clkOf i) o.b → o.ty.width ≤ 32 → GroupFree c o.d (32 / o.ty.width) →
      let f := 32 / o.ty.width
      ∃ t vs, exec i s = .next t ∧ SameMem s t ∧ vs.length = f ∧
        (∀ n, n < f → IsLanes (vs.getD n 0) 32 fun j =>
          reduceSum o.ty (lane (valV s c o.b) 32 0) ((terms c o (valV s c o.a)).take (f * j + n + 1))) ∧
        t = goOn s (pushed (writeRegs (useSrcs (atIssue c .c i [] []) [(o.a, o.ua), (o.b, o.ub)] c.handler) o.d (clkOf i) c.handler vs 0) .c i))

namespace Sys2Proof.Claims

/-- The position of active lane `j` among the active lanes below it. -/
def rank (c : Ctx) (o : VOp) (j : Nat) : Nat := ((List.range j).filter (live c true o.msk)).length

/-- `sel` is the first `k` of the candidates `cs` in rank order (R212, R276). -/
def IsTop (asc : Bool) (k : Nat) (cs sel : List Cand) : Prop :=
  sel.length = min k cs.length ∧ sel.Pairwise (fun x y => y.before asc x = false) ∧
    ∃ rest, (sel ++ rest).Perm cs ∧ ∀ x ∈ sel, ∀ y ∈ rest, y.before asc x = false

end Sys2Proof.Claims

/-- R274, R275: VCOMPRESS packs the active lanes to the bottom and counts them, VEXPAND spreads lanes over the set mask bits, and VHIST adds the active lanes'
low bytes to 256 bins. -/
def Sys2Proof.Claims.VectorCompressExpandHistogram : Prop :=
  ∀ (o : VOp) (s : State) (c : Ctx),
    (let i : Instr := .vcompress o;
      Ready s i .c [] [o.b] c → ReadableV c (clkOf i) o.a → o.me = true → WritableV s o.d →
      let xs := actives c o (valV s c o.a)
      ∃ t u v, exec i s = .next t ∧ SameMem s t ∧ IsLanes v o.ty.width (fun j => xs.getD j 0) ∧
        writeDst (s.setMe (useSrcs (atIssue c .c i [] [o.b]) [(o.a, o.ua)] c.handler)) o.d v (clkOf i) c.handler = .ok u ∧
        t = goOn u (pushed (writeS u.me o.b (BitVec.ofNat 64 xs.length) (clkOf i) c.handler) .c i)) ∧
    (let i : Instr := .vexpand o;
      Ready s i .c [] [] c → ReadableV c (clkOf i) o.a → WritableV s o.d →
      ∃ t u v, exec i s = .next t ∧ SameMem s t ∧
        IsLanes v o.ty.width (fun j => if live c true o.msk j then lane (valV s c o.a) o.ty.width (rank c o j) else 0) ∧
        writeDst (s.setMe (useSrcs (atIssue c .c i [] []) [(o.a, o.ua)] c.handler)) o.d v (clkOf i) c.handler = .ok u ∧ t = issued u .c i) ∧
    (let i : Instr := .vhist o;
      Ready s i .c [] [] c → ReadableV c (clkOf i) o.a → ReadableV c (clkOf i) o.d → ReadableV c (clkOf i) (o.d + 1) →
      ∃ t v w, exec i s = .next t ∧ SameMem s t ∧
        IsLanes v 32 (fun j => lane (valV s c o.d) 32 j + ((actives c o (valV s c o.a)).map (· % 256)).count j) ∧
        IsLanes w 32 (fun j => lane (valV s c (o.d + 1)) 32 j + ((actives c o (valV s c o.a)).map (· % 256)).count (128 + j)) ∧
        t = goOn s (pushed (writeRegs (useSrcs (atIssue c .c i [] []) [(o.a, o.ua)] c.handler) o.d (clkOf i) c.handler [v, w] 0) .c i))

/-- R211, R212, R276: VTOPK writes the k best active lanes, best first, with their indices; the rest is zero, and all ones for the indices. -/
def Sys2Proof.Claims.VectorTopK : Prop :=
  ∀ (k : BitVec 8) (o : VOp) (s : State) (c : Ctx),
    let i : Instr := .vtopk k o
    let pair := o.mod.getLsbD 1
    let scal := if pair then [] else [(o.b, o.ub)]
    let srcs := (o.a, o.ua) :: (if pair then [(o.a + 1, o.ua)] else [])
    k.toNat ≤ 128 → Ready s i .c (scal.map (·.1)) [] c → (∀ x ∈ scal, CapturedOk c (clkOf i) x.1) → (∀ x ∈ srcs, ReadableV c (clkOf i) x.1) →
    GroupFree c o.d 2 →
    let n := if pair then min o.ty.lanes 128 else o.ty.lanes
    let cs := ((List.range n).filter (live c o.me o.msk)).map fun j =>
      let a := lane (valV s c o.a) o.ty.width j
      ({ key := if o.ty.isF then floatKey (fmtOf o.ty) a else if o.ty.signed then (a + 2 ^ (o.ty.width - 1)) % 2 ^ o.ty.width else a,
         idx := if pair then lane (valV s c (o.a + 1)) 32 j else ((readS s c o.b).toNat + j) % 2 ^ 32, val := a } : Cand)
    ∃ t sel v w, exec i s = .next t ∧ SameMem s t ∧ IsTop (o.mod.getLsbD 0) k.toNat cs sel ∧
      IsLanes v o.ty.width (fun j => (sel.map (·.val)).getD j 0) ∧ IsLanes w 32 (fun j => (sel.map (·.idx)).getD j 0xFFFFFFFF) ∧
      t = goOn s (pushed (writeRegs (useSrcs (atIssue c .c i scal []) srcs c.handler) o.d (clkOf i) c.handler [v, w] 0) .c i)

/-- R277, R279, R282: VCBENC writes one quarter of D's codes and keeps the rest, CBLD loads a codebook from the low 32 bytes, and VEXTR extracts a lane into a
scalar register, extended by its type, 0 past the last lane. -/
def Obligations.VectorCodebooksExtract : Prop :=
  (∀ (cb : BitVec 3) (o : VOp) (s : State) (c : Ctx), let i : Instr := .vcbenc cb o;
    Ready s i .c [] [] c → ReadableV c (clkOf i) o.a → ReadableV c (clkOf i) o.b → ReadableV c (clkOf i) o.d → WritableV s o.d →
    ∃ t u v, exec i s = .next t ∧ SameMem s t ∧
      IsLanes v 4 (fun j =>
        if j / 256 = o.mod.toNat ∧ live c o.me o.msk (j - 256 * o.mod.toNat) = true then
          encodeCode c.cb[cb.toFin] (lane (valV s c o.a) 16 (j - 256 * o.mod.toNat)) (lane (valV s c o.b) 16 (j - 256 * o.mod.toNat))
        else lane (valV s c o.d) 4 j) ∧
      writeDst (s.setMe (useSrcs (atIssue c .c i [] []) [(o.a, o.ua), (o.b, o.ub)] c.handler)) o.d v (clkOf i) c.handler = .ok u ∧ t = issued u .c i) ∧
  (∀ (cb : BitVec 3) (o : VOp) (s : State) (c : Ctx), let i : Instr := .cbld cb o;
    Ready s i .c [] [] c → ReadableV c (clkOf i) o.a → c.qL = [] →
    ∃ t, exec i s = .next t ∧ SameMem s t ∧
      let d := useSrcs (atIssue c .c i [] []) [(o.a, o.ua)] c.handler
      t = goOn s (pushed { d with cb := d.cb.set cb.toFin ((valV s c o.a).setWidth 256) cb.toFin.isLt } .c i)) ∧
  (∀ (o : VOp) (s : State) (c : Ctx), let i : Instr := .vextr o;
    Ready s i .c [o.b] [o.d] c → CapturedOk c (clkOf i) o.b → ReadableV c (clkOf i) o.a →
    let j := (readS s c o.b).toNat
    let a := if j < o.ty.lanes then lane (valV s c o.a) o.ty.width j else 0
    ∃ t, exec i s = .next t ∧ SameMem s t ∧
      t = goOn s (pushed (writeS (useSrcs (atIssue c .c i [(o.b, o.ub)] [o.d]) [(o.a, o.ua)] c.handler) o.d (BitVec.ofInt 64 (elemI o.ty a))
        (clkOf i) c.handler) .c i))

/-- R189, R192, R193: the pattern of a floating-point value that is no NaN is what the value encodes to, and a NaN encodes to the canonical one. -/
def Obligations.FloatPatternsRoundTrip : Prop :=
  ∀ (t : ElemType) (a : Nat), t.isF = true → a < 2 ^ t.width →
    (flOf t a ≠ .nan → ∀ rz, (flOf t a).encode (fmtOf t) rz = a) ∧ (flOf t a = .nan → ∀ rz, (flOf t a).encode (fmtOf t) rz = (fmtOf t).nan)

/-- R23, R178, R215, R262, R333: writes and last uses of scalar and vector registers. -/
def Obligations.RegisterWrites : Prop := ScalarWrite ∧ LastUse ∧ VectorWrite ∧ VectorLastUse

/-- R264 to R269, R273, R275: the elementwise vector instructions. -/
def Obligations.VectorElementwise : Prop := VectorTwoSources ∧ VectorImmediates ∧ VectorOneSource ∧ VectorMultiplyAdd

/-- R267, R268, R278, R282: selection, insertion, splat, codebook decoding and comparison. -/
def Obligations.VectorSelectAndCompare : Prop := VectorSelectInsertSplat ∧ VectorCompare

/-- R274 to R276: compression, expansion, histograms and top-k. -/
def Obligations.VectorReorder : Prop := VectorCompressExpandHistogram ∧ VectorTopK

/-! ### Registers, traps, the trigger, dumps, probes -/

namespace Sys2Proof.Claims

/-- The registers whose reading this file spells out: number, and the value in the routing cycle (R226, R330, R352, R357, R358). -/
def registers (s : State) (c : Ctx) : List (BitVec 12 × Word) :=
  let q := s.cell s.cur.cell
  let p := s.part c.pid
  let d := s.die (dieOf s.cur.cell)
  let own : List (BitVec 12 × Word) :=
    [(0x001, c.slip), (0x002, c.basei), (0x003, c.iscope), (0x005, c.react.b0), (0x007, c.layoutBase), (0x008, c.bndTags),
   (0x010, c.looptab[0]), (0x011, c.looptab[1]), (0x012, c.looptab[2]), (0x013, c.looptab[3]), (0x014, c.looptab[4]),
   (0x015, c.looptab[5]), (0x020, c.t[0].cfg), (0x021, c.t[1].cfg), (0x022, c.t[2].cfg), (0x023, c.t[3].cfg), (0x024, c.t[4].cfg),
   (0x025, c.t[5].cfg), (0x026, c.t[6].cfg), (0x027, c.t[7].cfg), (0x030, c.trap.base), (0x031, c.trap.epc), (0x032, c.trap.cause),
   (0x033, c.trap.addr), (0x034, c.trap.info), (0x039, c.preArea)]
  let outer : List (BitVec 12 × Word) :=
    [(0x100, p.root), (0x101, p.rdt), (0x102, p.serial.setWidth 64),
   (0x108, p.chanBase), (0x109, p.chanLimit), (0x110, p.siltPool), (0x111, p.siltLim)]
  let cell : List (BitVec 12 × Word) :=
    [(0x200, q.pmc[0]), (0x207, q.pmc[7]),
   (0x208, q.pms[0]), (0x20F, q.pms[7]), (0x210, q.pmh[0]), (0x217, q.pmh[7]), (0x218, if s.dev.trgClear then 0 else s.dev.trgLast),
   (0x219, if s.dev.trgClear then 0 else s.dev.trgNum.setWidth 64), (0x21A, q.slipH[0]), (0x21B, q.slipH[1]), (0x21C, q.cyc), (0x220, q.trcCtl), (0x228, q.bp[0]),
   (0x229, q.bp[1]), (0x22A, q.bpi[0]), (0x22B, q.bpi[1])]
  let dev : List (BitVec 12 × Word) :=
    [(0x300, d.pmd[0]), (0x30F, d.pmd[15]), (0x310, d.pms[0]), (0x320, d.pmh[0]),
   (0x330, s.dev.time), (0x338, d.loess), (0x339, d.wptr), (0x33A, d.lost), (0x400, s.dev.cmeta), (0x410, s.dev.np),
   (0x411, s.dev.extl), (0x412, s.dev.extp)]
  own ++ outer ++ cell ++ dev

/-- A register write may proceed: its clock is present, the queues have issued, its source passes its checks (R257). -/
def WriterReady (s : State) (k : Tag) (a : BitVec 6) (c : Ctx) : Prop :=
  Present s k c ∧ c.qL = [] ∧ c.qC = [] ∧ c.qS = [] ∧ ReadableS c k a

/-- Instruction `i` answers the state in which the context stands as `x` at its next word in `s`, and memory is as before. -/
def Goes (s : State) (i : Instr) (s' : State) (x : Ctx) : Prop := ∃ t, exec i s = .next t ∧ t = goOn s' x ∧ SameMem s t

/-- The handler's address of a trap code (R332). -/
def handlerOf (c : Ctx) (code : Nat) : Word := (c.trap.base &&& 0x00FFFFFFFFFFFC00) + BitVec.ofNat 64 (64 * code)

/-- The context as trap `code` is taken: EPC, CAUSE, ADDR and INFO written, ACT set, the loops suspended, the program counter at the handler
(R332). -/
def inHandler (c : Ctx) (epc word : Word) (code : Nat) (sub : BitVec 8) (level : BitVec 3) (addr : Word) : Ctx :=
  { c with
    trap := { c.trap with epc := epc &&& ~~~7#64, cause := 0#45 ++ level ++ sub ++ BitVec.ofNat 8 code, addr := addr, info := word, act := true,
                          preh := code == 3 }
    pc := handlerOf c code, suspended := c.loops, loops := [], suspReact := c.react, waiting := none }

/-- The cell writes no record and the partition keeps no replay log. -/
def Quiet (s : State) : Prop := (s.cell s.cur.cell).trcCtl = 0 ∧ (s.part s.me.pid).record = none

end Sys2Proof.Claims

/-- R226, R257, R330: CSRR. TRAP.SCR0 and TRAP.SCR1 give the tag that they recorded. -/
def Obligations.ReadRegisters : Prop :=
  ∀ (k : Tag) (d : BitVec 6) (csr : BitVec 12) (s : State) (c : Ctx), Present s k c → FreeS c d →
    (csr ≠ 0x036 → csr ≠ 0x037 → Goes s (.csrr k d csr) s (writeS c d (readCsr (s.setMe c) csr.toNat) k c.handler) ∧
      ∀ x ∈ registers s c, csr = x.1 → readCsr (s.setMe c) csr.toNat = x.2) ∧
    (csr = 0x036 → Goes s (.csrr k d csr) s (writeS c d c.trap.scr0 c.trap.scr0Tag false)) ∧
    (csr = 0x037 → Goes s (.csrr k d csr) s (writeS c d c.trap.scr1 c.trap.scr1Tag false))

/-- R5, R257: CSRW. Writable bits take the value, read-only registers ignore it; ISCOPE, TCFG.Tn, BND.TAGS, CTX.STATUS, PMC.Cn and TRAP.SCRn have
their own rules (R74, R168, R174, R283, R330, R354). -/
def Obligations.WriteRegisters : Prop :=
  ∀ (k : Tag) (a : BitVec 6) (ua : Bool) (s : State) (c : Ctx), WriterReady s k a c →
    let w := readS s c a
    let q := s.cell s.cur.cell
    let own (i : Instr) (x : Ctx) : Prop := Goes s i s (killS x [(a, ua)])
    let cel (i : Instr) (x : Cell) : Prop := Goes s i (s.setCell s.cur.cell x) (killS c [(a, ua)])
    own (.csrw k a ua 0x006) { c with fpchk := w.getLsbD 1 } ∧
    own (.csrw k a ua 0x007) { c with layoutBase := w &&& 0x00FFFFFFFFFFFFC0 } ∧
    own (.csrw k a ua 0x030) { c with trap := { c.trap with base := w &&& 0x00FFFFFFFFFFFC01 } } ∧
    own (.csrw k a ua 0x031) { c with trap := { c.trap with epc := w &&& 0xFFFFFFFFFFFFFFF8 } } ∧
    own (.csrw k a ua 0x038) { c with trap := { c.trap with hook := w.getLsbD 0 } } ∧
    (∀ n : Fin 8, cel (.csrw k a ua (BitVec.ofNat 12 (0x208 + n.val))) { q with pms := q.pms.set n (w &&& 0xFFE0FF00) }) ∧
    cel (.csrw k a ua 0x220) { q with trcCtl := w &&& 0xFFFF0F03 } ∧
    (∀ n : Fin 2, cel (.csrw k a ua (BitVec.ofNat 12 (0x228 + n.val))) { q with bp := q.bp.set n w }) ∧
    (∀ n : Fin 2, cel (.csrw k a ua (BitVec.ofNat 12 (0x22A + n.val))) { q with bpi := q.bpi.set n w }) ∧
    (∀ n ∈ [0x001, 0x002, 0x005, 0x032, 0x033, 0x034, 0x039, 0x100, 0x102, 0x330, 0x400, 0x410], own (.csrw k a ua n) c) ∧
    (let lo := (w.setWidth 32).toNat; let hi := (w >>> 32).toNat
     (lo < 0x400000 ∧ hi ≤ 0x400000) ∨ (0x80000000 ≤ lo ∧ lo < 0x82000000 ∧ 0x80000000 ≤ hi ∧ hi ≤ 0x82000000) →
      own (.csrwIscope k a ua) { c with iscope := w }) ∧
    own (.csrwBndTags k a ua) { c with bndTags := w &&& 0x00FFFFFFFFFFFFF1, tagCache := [] } ∧
    (∀ (t : BitVec 3) (ty : ElemType), w &&& 0x07EFFFFF = 0 ∨ (ElemType.ofCode (fld w 16 4) = some ty ∧ tileType ty = true ∧
        tileShapeOk ty (fld w 9 7 : BitVec 7).toNat (fld w 0 9 : BitVec 9).toNat = true) →
      own (.csrwTcfg k a ua t) { c with t := c.t.set t.toFin { c.t[t.toFin] with cfg := w &&& 0x07EFFFFF } t.toFin.isLt }) ∧
    own (.csrwCtxStatus k a ua) { c with coll := c.coll && !w.getLsbD 0 } ∧
    (∀ n : BitVec 3, cel (.csrwPmc k a ua n) { q with pmc := q.pmc.set n.toFin w n.toFin.isLt, wrote := n.toNat :: q.wrote }) ∧
    (let tag : Tag := if a = 0 then 0 else c.s[a.toFin].tag
     own (.csrwTrapScr k a ua 0) { c with trap := { c.trap with scr0 := w, scr0Tag := tag } } ∧
     own (.csrwTrapScr k a ua 1) { c with trap := { c.trap with scr1 := w, scr1Tag := tag } })

/-- R331 to R334: TRAP and BKPT enter their handlers; TRAP resumes at the following word and BKPT at its own. With no handler BKPT forces a
pre-emption and TRAP stops the context; in a handler both stop it. TRET resumes at EPC with the loops and the reaction that
the trap suspended. The clause for a resident routine is the model's reading of R334 and R335: its TRET goes on as a word that falls through to EPC, with the
test of R171 there (log entry 26), and gives the destinations of an extension word the word's clock tag (log entry 103). -/
def Obligations.TrapsAndReturn : Prop :=
  (∀ (k : Tag) (code : BitVec 8) (s : State) (c : Ctx), Present s k c →
    (c.handler = false → c.trap.base.getLsbD 0 = true →
      (∃ t, exec (.trap k code) s = .next t ∧ t.me = inHandler c (c.pc + 8) (wordOf (.trap k code)) 5 code 0 0 ∧
        (Quiet s → SameMem s t ∧ t = s.setMe t.me)) ∧
      (∃ t, exec (.bkpt k code) s = .next t ∧ t.me = inHandler c c.pc (wordOf (.bkpt k code)) 2 code 0 0 ∧
        (Quiet s → SameMem s t ∧ t = s.setMe t.me))) ∧
    (c.handler = false → c.trap.base.getLsbD 0 = false →
      (∃ t, exec (.bkpt k code) s = .next t ∧ SameMem s t ∧ t = s.setMe { c with
        trap := { c.trap with epc := c.pc, cause := 0#48 ++ code ++ 2#8, addr := 0, info := wordOf (.bkpt k code) }
        saveNow := true, forcedSub := 1, waiting := none, aside := (c.qL, c.qC, c.qS), qL := [], qC := [], qS := [] }) ∧
      exec (.trap k code) s = .next (fatalStop (s.setMe c) s.cur c.pc (wordOf (.trap k code)) .trap { sub := code })) ∧
    (c.handler = true →
      exec (.trap k code) s = .next (fatalStop (s.setMe c) s.cur c.pc (wordOf (.trap k code)) .trap { sub := code } true) ∧
      exec (.bkpt k code) s = .next (fatalStop (s.setMe c) s.cur c.pc (wordOf (.bkpt k code)) .bkpt { sub := code } true))) ∧
  (∀ s : State, let c := s.me
    (c.trap.emu = false → c.trap.preh = false → c.trap.act = true → ∃ t, exec .tret s = .next t ∧ SameMem s t ∧
      t = stand s { c with trap := { c.trap with act := false }, pc := c.trap.epc, loops := c.suspended, suspended := [],
                           react := c.suspReact, suspReact := {}, afterTret := c.trap.pend }) ∧
    (c.trap.emu = false → c.trap.preh = true → c.trap.act = true → ∃ t, exec .tret s = .next t ∧ SameMem s t ∧
      t = stand s { c with trap := { c.trap with act := false, preh := false }, pc := c.trap.epc, loops := c.suspended, suspended := [],
                           react := c.suspReact, suspReact := {}, saveNow := true }) ∧
    (c.trap.emu = true → ∃ t, exec .tret s = .next t ∧ SameMem s t ∧
      t = stand s (loopTest c.emuLoops (emuTags s.dev.extDests { c with
        trap := { c.trap with emu := false }, pc := c.trap.epc, loops := [], emuLoops := [], react := c.emuReact, emuReact := {},
        afterTret := c.trap.pend && !c.trap.act }))) ∧
    (c.trap.emu = false → c.trap.act = false → exec .tret s = .next (fatalStop s s.cur c.pc (wordOf .tret) .illegalOpcode {})))

/-- Two contexts are alike but for what their sequencer and stream TLBs hold. -/
def Sys2Proof.Claims.Alike (x y : Ctx) : Prop := { x with tlb := y.tlb, stlb := y.stlb } = y

/-- `t` is `s` with translations entered in the TLBs of the executing context, of cells and of dies, and their misses counted (R344, R355, R357). -/
def Sys2Proof.Claims.Filled (s t : State) : Prop :=
  Alike t.me s.me ∧ (∀ c, c ≠ s.cur → t.cx c = s.cx c) ∧
    (∀ n, { t.cell n with tlb := (s.cell n).tlb, pmc := (s.cell n).pmc } = s.cell n) ∧
    (∀ n, { t.die n with tlb := (s.die n).tlb, pmdDue := (s.die n).pmdDue } = s.die n) ∧
    { t with ctxs := s.ctxs, cells := s.cells, dies := s.dies } = s

/-- The access of a PROBE (R89). -/
def Sys2Proof.Claims.probes : ProbeKind → Access
  | .read => .read
  | .write => .write
  | .fetch => .fetch

/-- R358, R359, R89, R370: TRIG opens a latch 1000 ns after its routing time or joins the one that is open; PROBE of a range whose pages all
translate goes on, with its translations held, one whose first page does not raises PROBE_FAULT with its address, and one that runs past the
space raises it with cause RANGE and s[B]; DUMP writes its records and then the header's bytes 16 to 63. Where the buffer lies in one page of this device,
bytes 16 to 63 hold the header, each record that fits stands behind the ones before it, and no other byte of memory changes. -/
def Obligations.TriggerProbeDump : Prop :=
  (∀ (k : Tag) (s : State) (c : Ctx), Present s k c →
    (s.dev.trgT.toNat < s.dev.time.toNat →
      Goes s (.trig k) { s with dev := { s.dev with trgT := s.dev.time + 1000, latchDue := true } } c) ∧
    (s.dev.time.toNat ≤ s.dev.trgT.toNat → Goes s (.trig k) s c)) ∧
  (∀ (k : Tag) (kind : ProbeKind) (rb : BitVec 6) (ub : Bool) (x : BitVec 6) (ux : Bool) (imm : BitVec 16) (s : State) (c : Ctx),
    Present s k c → c.qL = [] → c.qC = [] → c.qS = [] → ReadableS c k rb → ReadableS c k x →
    let va := readS s c rb
    let v := va.toNat % 2 ^ 56
    let n := (readS s c x + imm.setWidth 64).toNat
    let i := Instr.probe k kind rb ub x ux imm
    ((∀ a, v ≤ a → a < v + n → ∃ l, translate (s.setMe c) s.cur (BitVec.ofNat 64 a) (probes kind) = .ok l) → v + n ≤ 2 ^ 56 →
      ∃ s2, Filled (s.setMe c) s2 ∧ Goes s i s2 (killS s2.me [(rb, ub), (x, ux)])) ∧
    (2 ^ 56 < v + n → c.handler = false → c.trap.base.getLsbD 0 = true → Quiet s →
      ∃ t, exec i s = .next t ∧ SameMem s t ∧ t = s.setMe (inHandler c c.pc (wordOf i) 1 5 0 va)) ∧
    (∀ f, 0 < n → v + n ≤ 2 ^ 56 → translate (s.setMe c) s.cur (BitVec.ofNat 64 v) (probes kind) = .error f → f.cause ≠ 255 → c.handler = false →
      c.trap.base.getLsbD 0 = true → Quiet s →
      ∃ t, exec i s = .next t ∧ SameMem s t ∧
        t = s.setMe (inHandler c c.pc (wordOf i) 1 f.cause f.level (BitVec.ofNat 64 v)))) ∧
  (∀ (k : Tag) (a : BitVec 6) (ua : Bool) (s : State) (c : Ctx) (h : List (Byte × Bool)) (L : List (Leaf × Nat)), Present s k c → ReadableS c k a →
    let base := readS s c a
    let x := killS c [(a, ua)]
    let s1 := s.setMe x
    base &&& 63 = 0 → base.toNat < 2 ^ 56 → dumpReady (s.setMe c) s.cur = true → readVirt s1 s.cur .read base 16 = .ok h →
    hbmBad base h = none →
    let cap := max 64 (leNat (h.map (·.1)) % 2 ^ 64)
    let all := dumpRecords (leNat (h.map (·.1)) / 2 ^ 64)
    let req := 64 + (all.map fun r => 16 + r.2.2).sum
    let rs := (dumpFit cap all 64).1
    let s2 := useRange s1 s.cur .read base 16
    translateRange s2 s.cur .write base (dumpFit cap all 64).2 = .ok L →
    let run := dumpRun s.cur x (dumpPut s.cur base) rs 64 s2
    let hdr := dumpHeader req run.2.1 (cap < req) run.2.2 c.pc (iterationOf x k)
    let put := dumpPut s.cur base run.1 16 (hdr.map (·, false))
    let last := if put.2 then put.1 else annot put.1 s.cur 4 c.pc 0 (iterationOf x k)
    ∃ t, exec (.dump k a ua) s = .next t ∧ t = goOn last last.me ∧ Alike t.me (goOn s x).me ∧ (∀ j, j ≠ s.cur → t.cx j = s.cx j) ∧
      ∀ (l : Leaf) (n : Nat), s.Inv → L = [(l, n)] → l.far s = false → l.entry.cmp = 0 → base.toNat % 4096 + n ≤ 4096 → l.pa + n ≤ Config.hbmEnd →
        let head := dumpHeader req n (cap < req) false c.pc (iterationOf x k)
        (∀ j (h : j < head.length), t.byte (l.pa + 16 + j) = head[j]) ∧
        (∀ pre r post, rs = pre ++ r :: post → let o := 64 + (pre.map fun y => 16 + y.2.2).sum
          (dumpRecord s1 s.cur x r).length = 16 + r.2.2 ∧
            ∀ j b, (dumpRecord s1 s.cur x r)[j]? = some b → t.byte (l.pa + o + j) = b.1) ∧
        ∀ j, (j < l.pa + 16 ∨ l.pa + n ≤ j) → t.byte j = s.byte j)

/-! ### Fences and barriers -/

namespace Sys2Proof.Claims

/-- Every earlier access of the context has performed, and its copies have completed: the release condition (R129). -/
def Performed (s : State) (c : Ctx) : Prop :=
  c.qL = [] ∧ c.qS = [] ∧ c.loads = [] ∧ c.stores = [] ∧ c.scalars = [] ∧ ∀ k ∈ s.copies, k.ctx = s.cur → k.orphan = true

/-- The state of an acquire: the cell's data cache is empty (R37, R129). -/
def acquired (s : State) : State := s.setCell s.cur.cell { s.cell s.cur.cell with dcache := [] }

/-- The barrier `n` of the cluster is granted to the context's partition (R151). -/
def Granted (s : State) (c : Ctx) (n : BitVec 4) : Prop :=
  let b := s.bar (barKey s.cur.cell n.toNat)
  b.owner = some c.pid ∧ b.users ≠ []

end Sys2Proof.Claims

/-- R149 to R153: FENCE and SYNCLS, BAR.INIT, BAR.ARRIVE and BAR.WAIT. An arrival that completes the counts starts the next phase. -/
def Obligations.FencesAndBarriers : Prop :=
  (∀ (k : Tag) (scope : Scope) (s : State) (c : Ctx), Present s k c → Performed s c →
    Goes s (.fence k scope) (acquired s) { c with tagCache := [] }) ∧
  (∀ (k : Tag) (s : State) (c : Ctx), Present s k c → c.qL.length < 32 → c.qS.length < 32 →
    let e : Entry := { kind := .sync, i := .syncls k, pc := c.pc, id := c.nextId }
    Goes s (.syncls k) s { c with qL := c.qL ++ [e], qS := c.qS ++ [e], nextId := c.nextId + 1 }) ∧
  (∀ (k : Tag) (rb : BitVec 6) (ub : Bool) (x : BitVec 6) (ux : Bool) (bar : BitVec 4) (s : State) (c : Ctx), Present s k c →
    ReadableS c k rb → ReadableS c k x → Granted s c bar →
    let key := barKey s.cur.cell bar.toNat
    let b := s.bar key
    let ea := readS s c rb
    let ec := readS s c x
    1 ≤ ea.toNat → ea.toNat ≤ 32 → ec.toNat ≤ 65535 → b.ac = 0 → b.cc = 0 →
    Goes s (.barInit k rb ub x ux bar) (s.setBar key { b with ea := ea.setWidth 32, ec := ec.setWidth 32 }) (killS c [(rb, ub), (x, ux)])) ∧
  (∀ (k : Tag) (d : BitVec 6) (bar : BitVec 4) (s : State) (c : Ctx), Present s k c → FreeS c d → c.arrived = none → Granted s c bar →
    let key := barKey s.cur.cell bar.toNat
    let b := s.bar key
    b.ea ≠ 0 → b.ac ≠ b.ea → s.cur ∉ b.ha → c.qL = [] → c.qS = [] → c.loads = [] → c.stores = [] → c.scalars = [] →
    (∀ x ∈ s.copies, x.ctx = s.cur → x.orphan = true ∨ x.bar = some bar.toNat) →
    (b.ac + 1 ≠ b.ea ∨ b.cc ≠ b.ec →
      Goes s (.barArrive k d bar) (s.setBar key { b with ac := b.ac + 1 }) (writeS c d (b.ph.setWidth 64) k c.handler)) ∧
    (b.ac + 1 = b.ea → b.cc = b.ec → b.ha = [] → b.hc = 0 →
      Goes s (.barArrive k d bar) (s.setBar key { b with ac := 0, cc := 0, ph := b.ph + 1 }) (writeS c d (b.ph.setWidth 64) k c.handler))) ∧
  (∀ (k : Tag) (d : BitVec 6) (bar : BitVec 4) (s : State) (c : Ctx) (ph : BitVec 32), Present s k c → FreeS c d → c.arrived = some ph →
    Goes s (.barArrive k d bar) s { writeS c d (ph.setWidth 64) k c.handler with arrived := none }) ∧
  (∀ (k : Tag) (rb : BitVec 6) (ub : Bool) (bar : BitVec 4) (s : State) (c : Ctx), Present s k c → ReadableS c k rb → Granted s c bar →
    let n := ((s.bar (barKey s.cur.cell bar.toNat)).ph - (readS s c rb).setWidth 32).toNat
    1 ≤ n → n ≤ 2 ^ 31 - 1 →
    Goes s (.barWait k rb ub bar) (acquired s) { killS c [(rb, ub)] with tagCache := [] })

/-! ### The sequencer's memory accesses -/

namespace Sys2Proof.Claims

/-- Bytes of an access width (R80). -/
def widthOf : MemWidth → Nat
  | .i8 | .nat8 => 1
  | .i16 | .nat16 => 2
  | .i32 | .nat32 => 4
  | .x64 => 8

/-- A loaded number as its destination receives it: sign-extended for the integer widths below 64 bits (R80). -/
def widened (w : MemWidth) (x : Nat) : Word :=
  match w with
  | .i8 => (BitVec.ofNat 8 x).signExtend 64
  | .i16 => (BitVec.ofNat 16 x).signExtend 64
  | .i32 => (BitVec.ofNat 32 x).signExtend 64
  | _ => BitVec.ofNat 64 x

/-- A pointer without a tag, so that no tag table applies (R74). -/
def Untagged (va : Word) : Prop := va.toNat < 2 ^ 56

/-- `n` little-endian bytes of memory at physical address `pa`. -/
def numAt (s : State) (pa n : Nat) : Nat := leNat ((List.range n).map fun j => s.byte (pa + j))

/-- None of `n` bytes from `pa` lies in a poisoned unit. -/
def CleanAt (s : State) (pa n : Nat) : Prop := ∀ j, j < n → s.bad (pa + j) = false

/-- `bs` and nothing else has been stored, at `pa`. -/
def Stored (s t : State) (pa : Nat) (bs : List Byte) : Prop :=
  (∀ j (h : j < bs.length), t.byte (pa + j) = bs[j]) ∧ ∀ k, (k < pa ∨ pa + bs.length ≤ k) → t.byte k = s.byte k

/-- The outstanding access of instruction `i` (R80, R160). -/
def outstanding (s : State) (c : Ctx) (i : Instr) (k : Tag) (dest : Option (BitVec 6)) (w va : Word) (l : Leaf) : ScalarRet :=
  { id := c.nextId, dest := dest, val := w, tag := k, hand := c.handler, remote := l.far s, level := l.level, serial := l.entry.serial,
    addr := va, pc := c.pc, i := i, iter := iterationOf c k }

/-- The context with the access outstanding and its destination pending. -/
def waitsFor (c : Ctx) (r : ScalarRet) : Ctx :=
  let c := match r.dest with
    | some d => pendS c d true
    | none => c
  { c with scalars := c.scalars ++ [r] }

end Sys2Proof.Claims

/-- The context of `t` is `x` but for translations that have entered its TLBs, and no other context differs from `s` (R344). -/
def Sys2Proof.Claims.Leaves (s t : State) (x : Ctx) : Prop := Alike t.me x ∧ ∀ j, j ≠ s.cur → t.cx j = s.cx j

/-- R37, R80, R130: LDH and STH on this device's memory. Memory is read or written as the instruction routes and the destination is written at the return: the
model's choice (log entry 10). LDH takes the bytes of a clean line that the data cache holds, of memory where it holds
none or the page is remote; STH writes through, and a line that holds its address takes the bytes. SCALAR_ACCESS_RETURN writes the
destination. -/
def Obligations.ScalarMemory : Prop :=
  (∀ (o : LdS) (s : State) (c : Ctx) (l : Leaf), Present s o.h.clk c → ReadableS c o.h.clk o.b → FreeS c o.d →
    let n := widthOf o.w
    let a := readS s c o.b + o.imm.signExtend 64
    let got (s' t : State) (v : Nat) : Prop :=
      t = goOn s' (waitsFor (killS s'.me [(o.b, o.ub)]) (outstanding s c (.ldh o) o.h.clk (some o.d) (widened o.w v) a l))
    a.toNat % n = 0 → Untagged a → translate (s.setMe c) s.cur a .read = .ok l → l.far s = false →
    (∀ line, l.entry.rem = false → find? (s.cell s.cur.cell).dcache (l.pa / 64 * 64) = some (some line) →
      ∃ t s', exec (.ldh o) s = .next t ∧ SameMem s t ∧ Filled (s.setMe c) s' ∧ got s' t (line.toNat / 256 ^ (l.pa % 64) % 256 ^ n)) ∧
    (l.entry.rem = true → CleanAt s l.pa n →
      ∃ t s', exec (.ldh o) s = .next t ∧ SameMem s t ∧ Filled (s.setMe c) s' ∧ got s' t (numAt s l.pa n)) ∧
    (l.entry.rem = false → l.entry.cmp = 0 → find? (s.cell s.cur.cell).dcache (l.pa / 64 * 64) = none → CleanAt s (l.pa / 64 * 64) 64 →
      l.pa % n = 0 → ∃ t s2 s', exec (.ldh o) s = .next t ∧ SameMem s t ∧ Filled (s.setMe c) s2 ∧ got s' t (numAt s l.pa n) ∧
        find? (t.cell s.cur.cell).dcache (l.pa / 64 * 64) = some (some (BitVec.ofNat 512 (numAt s (l.pa / 64 * 64) 64))) ∧
        s' = s2.setCell s.cur.cell { s2.cell s.cur.cell with dcache := (t.cell s.cur.cell).dcache })) ∧
  (∀ (o : StS) (s : State) (c : Ctx) (l : Leaf), s.Inv → Present s o.h.clk c → ReadableS c o.h.clk o.b → ReadableS c o.h.clk o.d →
    let n := widthOf o.w
    let a := readS s c o.b + o.imm.signExtend 64
    a.toNat % n = 0 → Untagged a → translate (s.setMe c) s.cur a .write = .ok l → l.far s = false → l.entry.cmp = 0 →
    ∃ t, exec (.sth o) s = .next t ∧ Stored s t l.pa (leBytes n (readS s c o.d).toNat) ∧
      Leaves s t (goOn s (waitsFor (killS c [(o.b, o.ub), (o.d, o.ud)]) (outstanding s c (.sth o) o.h.clk none 0 a l))).me ∧
      (t.cell s.cur.cell).dcache.map (·.1) = (s.cell s.cur.cell).dcache.map (·.1) ∧
      (∀ line, find? (s.cell s.cur.cell).dcache (l.pa / 64 * 64) = some (some line) → l.pa % n = 0 →
        ∃ new, find? (t.cell s.cur.cell).dcache (l.pa / 64 * 64) = some (some new) ∧
          new.toNat / 256 ^ (l.pa % 64) % 256 ^ n = (readS s c o.d).toNat % 256 ^ n)) ∧
  (∀ (s : State) (r : ScalarRet) (rest : List ScalarRet), s.resident s.ev.ctx = true → (s.cx s.ev.ctx).scalars = r :: rest → r.remote = false →
    let x := { s.cx s.ev.ctx with scalars := rest }
    ∃ t, exec .scalarAccessReturn s = .next t ∧ SameMem s t ∧
      t = s.setCx s.ev.ctx (match r.dest with
        | some d => writeS x d r.val r.tag r.hand
        | none => x))

namespace Sys2Proof.Claims

/-- Bytes of an atomic's type (R145). -/
def amoWidth : AmoType → Nat
  | .i64 | .nat64 => 8
  | _ => 4

/-- The smaller of two numbers of an atomic's type, by its order (R148): `a` comes before `b`. -/
def amoBefore (t : AmoType) (a b : Nat) : Prop :=
  match t with
  | .i32 => (BitVec.ofNat 32 a).toInt < (BitVec.ofNat 32 b).toInt
  | .i64 => (BitVec.ofNat 64 a).toInt < (BitVec.ofNat 64 b).toInt
  | _ => a < b

/-- Each atomic: its sources, whether it has a destination, its access, and what it writes from the old value, s[X] and s[C] (R148). -/
def atomics (o : Amo) : List (Instr × List (BitVec 6 × Bool) × Bool × Access × (Nat → Nat → Nat → Option Nat → Prop)) :=
  let bx := [(o.b, o.ub), (o.x, o.ux)]
  let all := 256 ^ amoWidth o.ty
  [(.amold o, [(o.b, o.ub)], true, .read, fun _ _ _ r => r = none),
   (.amost o, bx, false, .write, fun _ x _ r => r = some x),
   (.amoswap o, bx, true, .write, fun _ x _ r => r = some x),
   (.amocas o, bx ++ [(o.c, o.uc)], true, .write, fun old x c r => (old = c → r = some x) ∧ (old ≠ c → r = none)),
   (.amoadd o, bx, true, .write, fun old x _ r =>
     (o.ty = .f32 → r = some (addBits (fmtOf .fp32) old x)) ∧ (o.ty ≠ .f32 → r = some ((old + x) % all))),
   (.amoand o, bx, true, .write, fun old x _ r => r = some (old &&& x)),
   (.amoor o, bx, true, .write, fun old x _ r => r = some (old ||| x)),
   (.amoxor o, bx, true, .write, fun old x _ r => r = some (old ^^^ x)),
   (.amomin o, bx, true, .write, fun old x _ r => (amoBefore o.ty x old → r = some x) ∧ (¬ amoBefore o.ty x old → r = some old)),
   (.amomax o, bx, true, .write, fun old x _ r => (amoBefore o.ty old x → r = some x) ∧ (¬ amoBefore o.ty old x → r = some old))]

end Sys2Proof.Claims

/-- R129, R131, R144 to R148: the atomics on this device's memory. An atomic reads and writes memory as it routes and its destination is written at the return:
the model's choice (log entry 10). The old value is on its way to the destination; the new one stands in memory,
and a failed AMOCAS and AMOLD write nothing. A release waits for every earlier access; an acquire empties the data cache. -/
def Obligations.Atomics : Prop :=
  ∀ (o : Amo), ∀ x ∈ atomics o, ∀ (s : State) (c : Ctx) (l : Leaf) (new : Option Nat), s.Inv → Present s o.clk c →
    (∀ y ∈ x.2.1, ReadableS c o.clk y.1) → (x.2.2.1 = true → FreeS c o.d) →
    let n := amoWidth o.ty
    let a := readS s c o.b
    let arg (r : BitVec 6) : Nat := (readS s c r).toNat % 256 ^ n
    let old := numAt s l.pa n
    a.toNat % n = 0 → Untagged a → translate (s.setMe c) s.cur a x.2.2.2.1 = .ok l → l.far s = false → l.entry.cmp = 0 → CleanAt s l.pa n →
    (o.ord = .rel ∨ o.ord = .ar → Performed s c) → x.2.2.2.2 old (arg o.x) (arg o.c) new →
    let w := if o.ty = .i32 then (BitVec.ofNat 32 old).signExtend 64 else BitVec.ofNat 64 old
    let d := waitsFor (killS c x.2.1) (outstanding s c x.1 o.clk (if x.2.2.1 then some o.d else none) w a l)
    ∃ t, exec x.1 s = .next t ∧ (match new with
        | some v => Stored s t l.pa (leBytes n v)
        | none => SameMem s t) ∧
      (o.ord ≠ .acq → o.ord ≠ .ar → Leaves s t (goOn s d).me) ∧
      (o.ord = .acq ∨ o.ord = .ar → Leaves s t (goOn s { d with tagCache := [] }).me ∧ (t.cell s.cur.cell).dcache = []) ∧
      find? (t.cell s.cur.cell).dcache (l.pa / 64 * 64) = none

/-! ### Loads and stores of the L and S queues -/

namespace Sys2Proof.Claims

/-- Nothing stands in the way of an access: the queues are empty, no store of the context is in flight or buffered, an entry of the load data queue is
free (R162), no copy and no nest of the cell is in flight, the footprint checker is off, nothing is poisoned. -/
def Calm (s : State) (c : Ctx) : Prop :=
  c.qL = [] ∧ c.qC = [] ∧ c.qS = [] ∧ c.stores = [] ∧ c.commits = [] ∧ queueTaken c < 16 ∧ (∀ k ∈ s.copies, k.ctx.cell ≠ s.cur.cell) ∧
    (s.cell s.cur.cell).nest = none ∧ c.det = false ∧ c.fpchk = false ∧ s.poison = []

/-- The context that holds the ports of its access of the bytes `xs` up to the last beat (R72). -/
def holding (s : State) (x : Ctx) (xs : List Int) : Ctx :=
  if localBeats xs ≤ 1 then x else { x with beatsTo := max x.beatsTo ((s.cell s.cur.cell).cyc.toNat + localBeats xs - 1) }

/-- A companion entry has passed at the head of the C queue: it is counted as issued (R355), and the head has acted (R356). -/
def passedOne (s : State) : State := countCell s s.cur.cell s.cur.slot 2 2
def afterPass (x : Ctx) : Ctx := { x with acted := x.acted ||| 4 }

/-- The byte of storage that a scratch address names on the executing cell (R18, R19). -/
def scratchKeyOf (s : State) (a : Nat) : Nat := (scratchAddr s.cur.cell a).getD 0

/-- `n` little-endian bytes of scratch at address `a`. -/
def scratchNum (s : State) (a n : Nat) : Nat := leNat ((List.range n).map fun j => s.byte (scratchKeyOf s (a + j)))

/-- An aligned scratch address of LDS and STS: below 2³², on a scratch window (R18, R82). -/
def ScratchOk (s : State) (a : Word) (n : Nat) : Prop :=
  a.toNat < 2 ^ 32 ∧ a.toNat % n = 0 ∧ (scratchAddr s.cur.cell a.toNat).isSome = true

/-- No store of the context is instant-scoped now: no instant is open, or the window is empty (R174). -/
def Unscoped (c : Ctx) : Prop := c.iopen = false ∨ c.handler = true ∨ instantWindow c = none

/-- A load of instruction `i` in flight to `d`, with its value. -/
def inFlight (c : Ctx) (i : Instr) (q : Queue) (d : LoadDest) (v : Vec) : Load :=
  { id := c.nextId, i := i, dest := d, tag := clkOf i, hand := c.handler, push := pushesOf q (tokOf i), val := v }

end Sys2Proof.Claims

/-- R58, R59, R82, R143, R174: LDS and STS. A load has read its bytes; LOAD_DELIVERY writes its destination, a scalar, a vector or the rows of a tile, and
pushes its tokens. A store holds its bytes until STORE_PERFORM writes them, each under the mask of the bits that it writes, so that two 4-bit elements of
one byte both stand, or they enter the commit buffer under the instant window. -/
def Obligations.ScratchScalar : Prop :=
  (∀ (o : LdS) (s : State) (c : Ctx), let i := Instr.lds o
    let n := widthOf o.w
    let a := readS s c o.b + o.imm.signExtend 64
    let x := atIssue c .l i [(o.b, o.ub)] [o.d]
    Ready s i .l [o.b] [o.d] c → CapturedOk c (clkOf i) o.b → Calm s c → ScratchOk s a n →
    Goes s i s { x with loads := x.loads ++ [inFlight c i .l (.s o.d) ((widened o.w (scratchNum s a.toNat n)).setWidth 4096)] }) ∧
  (∀ (o : StS) (s : State) (c : Ctx), let i := Instr.sts o
    let n := widthOf o.w
    let a := (readS s c o.b + o.imm.signExtend 64)
    let w := readS s c o.d
    let x := atIssue c .s i [(o.b, o.ub), (o.d, o.ud)] []
    Ready s i .s [o.b, o.d] [] c → CapturedOk c (clkOf i) o.b → CapturedOk c (clkOf i) o.d → Calm s c → ScratchOk s a n →
    let cells := (List.range n).map fun j => (scratchKeyOf s (a.toNat + j), BitVec.ofNat 8 (w.toNat / 256 ^ j), (0xFF : Byte))
    (Unscoped c → Goes s i s { x with
      stores := [{ id := c.nextId, rng := (a.toNat, a.toNat + n), cells := cells, push := pushesOf .s (tokOf i) }] }) ∧
    (∀ lo hi, c.iopen = true → c.handler = false → instantWindow c = some (lo, hi) → lo ≤ a.toNat → a.toNat + n ≤ hi →
      ∃ p, Goes s i s (pushed { x with commits := [p] } .s i) ∧ p.inst = clockInstant c (clkOf i) ∧ p.addr = a.toNat / 512 * 512 ∧
        ∀ j, j < 4096 → p.msk.getLsbD j = decide (8 * (a.toNat % 512) ≤ j ∧ j < 8 * (a.toNat % 512 + n)) ∧
          (p.msk.getLsbD j = true → p.data.getLsbD j = w.getLsbD (j - 8 * (a.toNat % 512))))) ∧
  (∀ (s : State) (l : Load) (rest : List Load) (r : BitVec 6), let c := s.ev.ctx
    let x := s.cx c
    x.loads = l :: rest → l.landed = false → l.dest = .s r → l.bad = 0 → l.stat = none → (∀ y ∈ rest, y.id ≠ l.id) →
    ∃ t, exec .loadDelivery s = .next t ∧ SameMem s t ∧
      t = s.setCx c (pushFor (writeS { x with loads := rest } r (l.val.setWidth 64) l.tag l.hand) l.id l.push)) ∧
  (∀ (s : State) (l : Load) (rest : List Load) (r : BitVec 5) (e : Entry) (q : List Entry), let c := s.ev.ctx
    let x := s.cx c
    x.loads = l :: rest → l.landed = false → l.dest = .v r → l.stat = none → (∀ y ∈ rest, y.id ≠ l.id) → x.qC = e :: q → e.kind = .receive →
    e.id = l.id → e.dataBad = false → x.v[r.toFin].pend = false → ∃ t, exec .loadDelivery s = .next t ∧ SameMem s t ∧
      t = (countCell s c.cell c.slot 2 2).setCx c
        (afterPass (pushFor { writeV { x with qC := q } r l.val l.tag l.hand l.bad with loads := rest } l.id l.push))) ∧
  (∀ (s : State) (l : Load) (rest : List Load) (r : BitVec 3) (e : Entry) (q : List Entry), let c := s.ev.ctx
    let x := s.cx c
    s.Inv → x.loads = l :: rest → l.landed = false → l.dest = .t r → l.stat = none → (∀ y ∈ rest, y.id ≠ l.id) → x.qC = e :: q → e.kind = .receive →
    e.id = l.id → e.dataBad = false → (s.cell c.cell).nest = none → (s.cell c.cell).engine = [] → (l.cells.map (·.1)).Nodup → l.badCells = [] →
    ∃ t, exec .loadDelivery s = .next t ∧
      t.ctxs = ((countCell s c.cell c.slot 2 2).setCx c
        (afterPass (pushFor { tagTile { x with qC := q } r l.tag l.hand with loads := rest } l.id l.push))).ctxs ∧
      (∀ y ∈ l.cells, t.byte y.1 = y.2) ∧ ∀ k, (∀ y ∈ l.cells, y.1 ≠ k) → t.byte k = s.byte k) ∧
  (∀ (s : State) (st : Store) (rest : List Store), let c := s.ev.ctx
    let x := s.cx c
    s.Inv → x.stores = st :: rest →
    ∃ t, exec .storePerform s = .next t ∧ t.ctxs = (s.setCx c (pushFor { x with stores := rest } st.id st.push)).ctxs ∧
      ∀ k, t.byte k = (st.cells.filter (·.1 = k)).foldl (fun b y => (b &&& ~~~y.2.2) ||| (y.2.1 &&& y.2.2)) (s.byte k))

namespace Sys2Proof.Claims

/-- Address of the element at an offset, in bytes (R70). -/
def elemAddr (a : StreamReg) (off : Int) : Nat := ((a.base.toNat : Int) + (off * a.fmt.width).fdiv 8).toNat

/-- The value stored at an element offset: whole bytes, or the low or high nibble of one (R70). -/
def elemAt (s : State) (a : StreamReg) (off : Int) : Nat :=
  if a.fmt.width = 4 then scratchNum s (elemAddr a off) 1 / (if off % 2 = 1 then 16 else 1) % 16
  else scratchNum s (elemAddr a off) (a.fmt.width / 8)

/-- The value that it delivers: a code of a codebook format goes through its codebook and its group's scale (R71). -/
def elemOut (s : State) (c : Ctx) (a : StreamReg) (off : Int) : Nat :=
  if a.fmt = .cb4 then
    cbValue c.cb[(recCb a.record).toFin] (elemAt s a off)
      (scratchNum s ((a.base.toNat : Int) + recSoff a.record + recSstr a.record * off.fdiv (2 ^ recBlk a.record)).toNat 2)
  else elemAt s a off

/-- Lane `j` of a linear access is at this position, an exact sum (R4, R83). -/
def posOf (a : StreamReg) (imm : BitVec 16) (j : Nat) : Int := a.pos.toNat + imm.toInt + j

/-- What a load delivers at position `p`: zero outside the positions of the stream (R83). -/
def loadedAt (s : State) (c : Ctx) (a : StreamReg) (p : Int) : Nat :=
  if 0 ≤ p ∧ p < a.total then elemOut s c a (a.offset (a.coords p.toNat)) else 0

/-- The stream register after an access of `n` elements, where the instruction advances it (R83). -/
def movedOn (c : Ctx) (b : BitVec 4) (adv : Bool) (n : Nat) : Ctx :=
  if adv then setA c b { c.a[b.toFin] with pos := c.a[b.toFin].pos + BitVec.ofNat 64 n } else c

/-- The stream is bound for scratch accesses (R69). -/
def StreamOk (a : StreamReg) : Prop := a.bound = true ∧ a.sp = false

/-- A vector load has issued in `s'`: its receive entry stands in the C queue (R161), it has taken its entries of the load data queue (R162), and it
delivers the lanes `g` of width `w`. -/
def LoadsV (s s' : State) (c x : Ctx) (i : Instr) (d : BitVec 5) (beats w : Nat) (g : Nat → Nat) : Prop :=
  ∃ e v, Goes s i s' { x with qC := [e], loads := x.loads ++ [{ inFlight c i .l (.v d) v with beats := beats }] } ∧ e.kind = .receive ∧
    e.id = c.nextId ∧ e.i = i ∧ IsLanes v w g

/-- The bytes that a store writes at the element of position `p`: flat key, byte, and the bits written (R84). -/
def storeCells (s : State) (a : StreamReg) (p : Int) (x : Nat) : List (Nat × Byte × Byte) :=
  if 0 ≤ p ∧ p < a.total then
    let off := a.offset (a.coords p.toNat)
    if a.fmt.width = 4 then
      [(scratchKeyOf s (elemAddr a off), if off % 2 = 1 then BitVec.ofNat 8 (x % 16 * 16) else BitVec.ofNat 8 (x % 16),
        if off % 2 = 1 then 0xF0 else 0x0F)]
    else (List.range (a.fmt.width / 8)).map fun j => (scratchKeyOf s (elemAddr a off + j), BitVec.ofNat 8 (x / 256 ^ j), 0xFF)
  else []

/-- A store has issued in `s'` with these bytes; with none it has nothing to hold. -/
def StoresCells (s s' : State) (c x : Ctx) (i : Instr) (scatter : Bool) (cells : List (Nat × Byte × Byte)) : Prop :=
  (cells = [] → Goes s i s' (pushed x .s i)) ∧
    (cells ≠ [] → ∃ rng, Goes s i s' { x with
      stores := [{ id := c.nextId, rng := rng, scatter := scatter, cells := cells, push := pushesOf .s (tokOf i) }] })

/-- The bytes that a store writes at the element of position `p`, by their scratch addresses (R84). -/
def storeAt (a : StreamReg) (p : Int) (x : Nat) : List (Nat × Byte × Byte) :=
  if 0 ≤ p ∧ p < a.total then
    let off := a.offset (a.coords p.toNat)
    if a.fmt.width = 4 then
      [(elemAddr a off, if off % 2 = 1 then BitVec.ofNat 8 (x % 16 * 16) else BitVec.ofNat 8 (x % 16), if off % 2 = 1 then 0xF0 else 0x0F)]
    else (List.range (a.fmt.width / 8)).map fun j => (elemAddr a off + j, BitVec.ofNat 8 (x / 256 ^ j), 0xFF)
  else []

/-- Span `p` of the commit buffer holds the bits of the bytes `l` in the 512-byte block at `base`, a later byte over an earlier one (R174). -/
def HoldsBits (p : Span) (inst : Word) (base : Nat) (l : List (Nat × Byte × Byte)) : Prop :=
  p.inst = inst ∧ p.addr = base ∧ ∀ j, j < 4096 →
    let hit := l.filter fun y => y.1 == base + j / 8 && y.2.2.getLsbD (j % 8)
    p.msk.getLsbD j = !hit.isEmpty ∧ ∀ y, hit.getLast? = some y → p.data.getLsbD j = y.2.1.getLsbD (j % 8)

/-- A vector register that a companion entry reads (R161): no write outstanding, tag, dead mark, poison. -/
def PassOk (c : Ctx) (k : Tag) (r : BitVec 5) : Prop :=
  c.v[r.toFin].pend = false ∧ (c.handler = true ∨ c.v[r.toFin].tag = k) ∧ (c.handler = true ∨ c.chk = false ∨ c.v[r.toFin].dead = false) ∧ c.v[r.toFin].bad = 0

/-- The index of lane `j` of a gather or scatter, and whether the lane takes part (R85). -/
def indexAt (s : State) (c : Ctx) (o : LdStVX) (j : Nat) : Nat := lane (readV s c o.x c.handler) (if o.nat32 then 32 else 16) j
def indexed (c : Ctx) (o : LdStVX) (a : StreamReg) (j : Nat) : Bool :=
  decide (j < a.delivered.lanes) && decide (j < 4096 / (if o.nat32 then 32 else 16)) && (!o.me || c.m[o.msk.toFin].getLsbD j)
/-- Its position, an exact sum (R4, R85). -/
def indexPos (s : State) (c : Ctx) (o : LdStVX) (a : StreamReg) (j : Nat) : Int := a.pos.toNat + o.imm.toInt + indexAt s c o j

/-- The elements that a gather or scatter touches. -/
def indexTouches (s : State) (c : Ctx) (o : LdStVX) (a : StreamReg) : List Touch :=
  touchesX o a a.delivered.lanes (readV s c o.x c.handler) (if o.me then some (c.m[o.msk.toFin].setWidth 4096) else none)

/-- They are in bounds (R73). -/
def IndexedIn (s : State) (c : Ctx) (o : LdStVX) (a : StreamReg) (store : Bool) : Prop :=
  checkTouches s.cur.cell a ((indexTouches s c o a).map fun t => if store then { t with scale := none } else t) = .ok ()

/-- The addresses of the bytes that a store of elements writes. -/
def storeBytes (a : StreamReg) (l : List Touch) : List Int := (writesOf a.fmt.width (fun _ => 0) l).map fun x => (x.1 : Int)

end Sys2Proof.Claims

/-- R83 to R86, R174: LDV, STV, LDVX and STVX. Positions from T on load zero and store nothing; a masked-off lane of a gather is zero and of a scatter
stores nothing. The bits of an STV inside the instant window enter the commit buffer. Positions below 0 do as those from T on: the model's choice (log
entry 29). -/
def Obligations.VectorMemory : Prop :=
  (∀ (o : LdStV) (s : State) (c : Ctx), let i := Instr.ldv o
    let a := c.a[o.b.toFin]
    Ready s i .l [] [] c → Calm s c → StreamOk a → checkTouches s.cur.cell a (touchesV o a a.delivered.lanes) = .ok () →
    let xs := touchBytes a (touchesV o a a.delivered.lanes)
    queueTaken c + beatsOf xs ≤ 16 →
    LoadsV s s c (holding s (atIssue (movedOn c o.b o.adv a.delivered.lanes) .l i [] []) xs) i o.d (beatsOf xs) a.delivered.width
      fun j => loadedAt s c a (posOf a o.imm j)) ∧
  (∀ (o : LdStV) (s : State) (c : Ctx), let i := Instr.stv o
    let a := c.a[o.b.toFin]
    Ready s i .s [] [] c → Calm s c → StreamOk a → PassOk c (clkOf i) o.d → Unscoped c →
    checkTouches s.cur.cell a ((touchesV o a a.fmt.lanes).map fun t => { t with scale := none }) = .ok () →
    let x := killV (atIssue (movedOn c o.b o.adv a.fmt.lanes) .s i [] []) o.d o.ud c.handler
    StoresCells s (passedOne s) c (holding s (afterPass x) (storeBytes a (touchesV o a a.fmt.lanes))) i false ((List.range a.fmt.lanes).flatMap fun j =>
      storeCells s a (posOf a o.imm j) (lane (readV s c o.d c.handler) a.fmt.width j))) ∧
  (∀ (o : LdStV) (s : State) (c : Ctx) (lo hi base : Nat), let i := Instr.stv o
    let a := c.a[o.b.toFin]
    let l := (List.range a.fmt.lanes).flatMap fun j => storeAt a (posOf a o.imm j) (lane (readV s c o.d c.handler) a.fmt.width j)
    Ready s i .s [] [] c → Calm s c → StreamOk a → PassOk c (clkOf i) o.d → c.iopen = true → c.handler = false → instantWindow c = some (lo, hi) →
    checkTouches s.cur.cell a ((touchesV o a a.fmt.lanes).map fun t => { t with scale := none }) = .ok () →
    l ≠ [] → (∀ y ∈ l, lo ≤ y.1 ∧ y.1 < hi ∧ y.1 / 512 * 512 = base) →
    let x := killV (atIssue (movedOn c o.b o.adv a.fmt.lanes) .s i [] []) o.d o.ud c.handler
    ∃ p, Goes s i (passedOne s) (pushed { holding s (afterPass x) (storeBytes a (touchesV o a a.fmt.lanes)) with commits := [p] } .s i) ∧
      HoldsBits p (clockInstant c (clkOf i)) base l) ∧
  (∀ (o : LdStVX) (s : State) (c : Ctx), let i := Instr.ldvx o
    let a := c.a[o.b.toFin]
    Ready s i .l [] [] c → Calm s c → StreamOk a → PassOk c (clkOf i) o.x → IndexedIn s c o a false →
    let x := killV (atIssue c .l i [] []) o.x o.ux c.handler
    let xs := touchBytes a (indexTouches s c o a)
    queueTaken c + beatsOf xs ≤ 16 →
    LoadsV s (passedOne s) c (holding s (afterPass x) xs) i o.d (beatsOf xs) a.delivered.width fun j => if indexed c o a j then loadedAt s c a (indexPos s c o a j) else 0) ∧
  (∀ (o : LdStVX) (s : State) (c : Ctx), let i := Instr.stvx o
    let a := c.a[o.b.toFin]
    Ready s i .s [] [] c → Calm s c → StreamOk a → PassOk c (clkOf i) o.d → PassOk c (clkOf i) o.x → IndexedIn s c o a true →
    Unscoped c →
    let x := killV (killV (atIssue c .s i [] []) o.d o.ud c.handler) o.x o.ux c.handler
    StoresCells s (passedOne s) c (holding s (afterPass x) (storeBytes a (indexTouches s c o a))) i true ((List.range a.delivered.lanes).flatMap fun j =>
      if indexed c o a j then storeCells s a (indexPos s c o a j) (lane (readV s c o.d c.handler) a.fmt.width j) else []))

/-- R87, R88, R162, R286: LDT, whose receive entry stands at the head of the C queue, loads the rows of a tile's configuration, elements past an extent as zero; VPERM picks lanes by their 16-bit indexes, zero
for an index past the last lane. -/
def Obligations.TileLoadAndPermute : Prop :=
  (∀ (h : Hdr) (d : BitVec 3) (rb : BitVec 4) (adv : Bool) (s : State) (c : Ctx), let i := Instr.ldt h d rb adv
    let a := c.a[rb.toFin]
    let w := tileCfg c d
    let rows := tcfgRows w
    let n := tcfgE w
    Ready s i .l [] [] c → Calm s c → StreamOk a → rows ≠ 0 → tilePairing a (tcfgTy w) = true →
    checkTouches s.cur.cell a (touchesT a rows n) = .ok () → tileInUse s d = false →
    let xs := touchBytes a (touchesT a rows n)
    let x := holding s (atIssue (movedOn c rb adv (rows * (a.ext[0]).toNat)) .l i [] []) xs
    let cs := a.coords a.pos.toNat
    let at' (r j : Nat) : List Nat := (cs.getD 0 0 + j) :: (cs.getD 1 0 + r) :: cs.drop 2
    let inside (l : List Nat) : Bool := (l.zip (a.ext.toList.map (·.toNat))).all fun y => decide (y.1 < y.2)
    let row (r : Nat) : List Nat := (List.range n).map fun j => if inside (at' r j) then elemOut s c a (a.offset (at' r j)) else 0
    ∃ e l, Goes s i s { x with qC := [e], loads := x.loads ++ [l] } ∧ e.kind = .receive ∧ e.id = c.nextId ∧
      l = { inFlight c i .l (.t d) 0 with cells := l.cells, beats := min (beatsOf xs) (16 - queueTaken c) } ∧
      l.cells = (List.range rows).flatMap fun r =>
        (List.range (tcfgLen w)).map fun b => (tileKey s.cur.cell (16384 * d.toNat + 256 * r + b),
          BitVec.ofNat 8 (packNat a.delivered.width (row r) / 256 ^ b))) ∧
  (∀ (h : Hdr) (ty : ElemType) (d sv : BitVec 5) (us : Bool) (v : BitVec 5) (ux : Bool) (s : State) (c : Ctx),
    let i := Instr.vperm h ty d sv us v ux
    ty.width ≠ 4 → Ready s i .l [] [] c → Calm s c → PassOk c (clkOf i) sv → PassOk c (clkOf i) v → (ty.width = 8 → PassOk c (clkOf i) (v + 1)) →
    let x := killV (killV (atIssue c .l i [] []) sv us c.handler) v ux c.handler
    let x := if ty.width = 8 then killV x (v + 1) ux c.handler else x
    LoadsV s (passedOne s) c (afterPass x) i d 1 ty.width fun j =>
      let q := lane (readV s c (if j < 256 then v else v + 1) c.handler) 16 (j % 256)
      if q < 4096 / ty.width then lane (readV s c sv c.handler) ty.width q else 0)

/-! ### Stream registers -/

namespace Sys2Proof.Claims

/-- A stream-register instruction has issued in `s'`: the register holds `a`, its scalars are used, its tokens pushed (R79). -/
def SetsStream (s s' : State) (c : Ctx) (i : Instr) (src : List (BitVec 6 × Bool)) (d : BitVec 4) (a : StreamReg) : Prop :=
  Goes s i s' (pushed (atIssue (setA c d a) .l i src []) .l i)

/-- A stream-register instruction issues as it routes, with its scalar sources in order (R65, R75 to R78). -/
def StreamReadyS (s : State) (i : Instr) (src : List (BitVec 6)) (c : Ctx) : Prop :=
  Ready s i .l src [] c ∧ ∀ r ∈ src, CapturedOk c (clkOf i) r

end Sys2Proof.Claims

/-- R66, R69, R75: ASET and ASET.V complete where the record at LAYOUT.BASE + 64 × LN is readable and well formed and the record cache holds no other for
that address: the stream is bound to it at s[B] + IMM16, at position 0, without bounds; the record is held, its translation too (R344). -/
def Sys2Proof.Claims.StreamBinding : Prop :=
  ∀ (o : StreamOp) (ln : BitVec 11) (s : State) (c : Ctx) (b : List (Byte × Bool)),
    ∀ x ∈ [(Instr.aset o ln, false), (.asetV o ln, true)], let i := x.1
    let va := c.layoutBase + 64 * ln.setWidth 64
    let r : BitVec 512 := BitVec.ofNat 512 (leNat (b.map (·.1)))
    StreamReadyS s i [o.b] c → (∀ y, find? c.recCache va = some y → y = r) → readVirt (s.setMe c) s.cur .read va 64 = .ok b →
    hbmBad va b = none → malformedRecord r = false →
    ∃ s2, Filled (s.setMe c) s2 ∧
      SetsStream s s2 { s2.me with recCache := if find? c.recCache va = none then ((va, r) :: c.recCache).take 16 else c.recCache } i [(o.b, o.ub)] o.d
        { base := readS s c o.b + o.imm.setWidth 64, pos := 0, ext := recExts r, layout := va.setWidth 56, sp := x.2, record := r }

/-- R76: ASETX of a dimension of the bound record completes, with the extent the low 32 bits of s[B] plus the sign-extended immediate, where the
extents' product stays below 2^48. -/
def Sys2Proof.Claims.StreamExtent : Prop :=
  ∀ (o : StreamOp) (dim : BitVec 4) (s : State) (c : Ctx) (k : Fin 6), let i := Instr.asetx o dim
    let a := c.a[o.d.toFin]
    let ext := a.ext.set k ((readS s c o.b + o.imm.signExtend 64).setWidth 32)
    dim.toNat = k.val → StreamReadyS s i [o.b] c → a.bound = true → k.val < recRank a.record →
    extProduct ext < 2 ^ 48 → SetsStream s s c i [(o.b, o.ub)] o.d { a with ext := ext }

/-- R77: AADV adds s[B] plus the sign-extended immediate to the position and AADV.ABS sets the position to it, on every stream. -/
def Sys2Proof.Claims.StreamPosition : Prop :=
  ∀ (o : StreamOp) (s : State) (c : Ctx), let a := c.a[o.d.toFin]
    let step := readS s c o.b + o.imm.signExtend 64
    (StreamReadyS s (.aadv o) [o.b] c → SetsStream s s c (.aadv o) [(o.b, o.ub)] o.d { a with pos := a.pos + step }) ∧
    (StreamReadyS s (.aadvAbs o) [o.b] c → SetsStream s s c (.aadvAbs o) [(o.b, o.ub)] o.d { a with pos := step })

/-- R78: ABND sets the bounds of every stream to s[B] and s[X] and makes them valid, or invalid where both are 0. -/
def Sys2Proof.Claims.StreamBounds : Prop :=
  ∀ (h : Hdr) (d : BitVec 4) (rb : BitVec 6) (ub : Bool) (x : BitVec 6) (ux : Bool) (s : State) (c : Ctx),
    let i := Instr.abnd h d rb ub x ux
    let lo := readS s c rb
    let hi := readS s c x
    StreamReadyS s i [rb, x] c →
    SetsStream s s c i [(rb, ub), (x, ux)] d { c.a[d.toFin] with blo := lo, bhi := hi, bv := decide (lo ≠ 0 ∨ hi ≠ 0) }

/-- R66, R69, R75 to R78: ASET, ASET.V, ASETX, AADV, AADV.ABS and ABND complete, and what each leaves in its stream register. -/
def Obligations.StreamRegisters : Prop := StreamBinding ∧ StreamExtent ∧ StreamPosition ∧ StreamBounds

/-! ### Copies -/

namespace Sys2Proof.Claims

/-- The copy instructions: form and whether the virtual side is a stream (R90 to R96). -/
def copyForms (o : Copy) : List (Instr × CopyKind × Bool) :=
  [(.xcopyIn o, .xin, false), (.xcopyInStrided o, .xin, true), (.xcopyd o, .xind, false), (.xaddw o, .xaddw, false),
   (.xaddwStrided o, .xaddw, true), (.xbcast o, .xbcast, false), (.xbcastStrided o, .xbcast, true), (.xcopyOut o, .xout, false),
   (.xcopyOutStrided o, .xout, true)]

/-- The scalars of a copy: the near side, the far side when it is no stream, the length when it is a register (R62). -/
def copyRegs (o : Copy) (kind : CopyKind) (strided : Bool) : List (BitVec 6 × Bool) :=
  let near := if kind = .xout then (o.s, o.us) else (o.d, o.ud)
  let far := if kind = .xout then (o.d, o.ud) else (o.s, o.us)
  [near] ++ (if strided then [] else [far]) ++ (if o.li then [] else [(fld o.n 1 6, o.n.getLsbD 0)])

/-- The copy that the instruction starts (R55, R90, R93). -/
def copyOf (s : State) (c : Ctx) (o : Copy) (i : Instr) (kind : CopyKind) (strided : Bool) : CopyOp :=
  let off : Word := o.off.setWidth 64
  let near := (readS s c (if kind = .xout then o.s else o.d)).toNat + (if kind = .xout then 0 else o.off.toNat)
  let a := c.a[(fld (if kind = .xout then o.d else o.s) 0 4 : BitVec 4).toFin]
  let n := if o.li then 128 * o.n.toNat else (readS s c (fld o.n 1 6)).toNat
  let n := if strided then min (8 * n / a.fmt.width) (a.total - a.pos.toNat) * a.fmt.width / 8 else n
  { id := s.dev.nextCopy, eid := c.nextId, ctx := s.cur, pid := c.pid, seq := c.seq, kind := kind
    va := if strided then 0 else readS s c (if kind = .xout then o.d else o.s) + (if kind = .xout then off else 0)
    near := near, len := if kind = .xaddw then n / 4 * 4 else n, strm := if strided then some a else none
    slot := o.slot.toNat, bar := if o.be then some o.bar.toNat else none
    push := pushesOf (if kind = .xout then .s else .l) (tokOf i), pc := c.pc, i := i, iter := iterationOf c (clkOf i) }

/-- The copy `k` has completed: it is gone and its tokens are pushed; its pages' translations may have entered the context's TLBs (R57, R91, R344). -/
def Completed (s t : State) (k : CopyOp) : Prop := t.copies = [] ∧ Alike (t.cx k.ctx) (pushFor (s.cx k.ctx) k.eid k.push)

end Sys2Proof.Claims

/-- R55, R62, R90, R93 to R96: a copy whose near side lies in one window and whose first page translates goes in flight; no byte has moved. One of length
zero needs no page. -/
def Obligations.CopiesStart : Prop :=
  ∀ (o : Copy), ∀ x ∈ copyForms o, ∀ (s : State) (c : Ctx), let i := x.1
    let kind := x.2.1
    let src := copyRegs o kind x.2.2
    let q : Queue := if kind = .xout then .s else .l
    let k := copyOf s c o i kind x.2.2
    let b := s.bar (barKey s.cur.cell o.bar.toNat)
    Ready s i q (src.map (·.1)) [] c → (∀ y ∈ src, CapturedOk c (clkOf i) y.1) → Calm s c → Unscoped c →
    nearOutside kind k.near (if kind = .xaddw then k.len / 4 else k.len) = none →
    (x.2.2 = true → copyStreamOk kind (k.strm.getD {}) = true ∧ (k.strm.getD {}).bv = false) → (x.2.2 = false → Untagged k.va) →
    copyOutOfRange k = none →
    (∀ y, (copySpans k).head? = some y → ∃ l, translate (s.setMe c) s.cur y.1 (if kind = .xout then .write else .read) k.unit = .ok l) →
    (o.be = true → b.owner = some c.pid ∧ b.users ≠ [] ∧ b.ea ≠ 0) →
    ∃ s2, Filled (s.setMe (atIssue c q i src [])) s2 ∧
      Goes s i { s2 with copies := s.copies ++ [k], dev := { s.dev with nextCopy := s.dev.nextCopy + 1 } } s2.me

namespace Sys2Proof.Claims

/-- The virtual side of copy `k` lies in one page of this device that is not compressed, and `src` gives the physical address of its byte `j`: a range, or the
elements of a stream, one behind the other on the near side (R90, R93). -/
def OnePage (s : State) (k : CopyOp) (src : Nat → Nat) : Prop :=
  ∃ l : Leaf, l.far s = false ∧ l.entry.cmp = 0 ∧ match k.strm with
    | none => copyLeaf s k k.va = .ok l ∧ k.va.toNat % 4096 + k.len ≤ 4096 ∧ l.pa + k.len ≤ Config.hbmEnd ∧ ∀ j, j < k.len → src j = l.pa + j
    | some a =>
      let xs := stridedAddrs k a
      let w := max 1 (a.fmt.width / 8)
      ∃ page : Nat, page % 4096 = 0 ∧ copyLeaf s k (BitVec.ofNat 64 page) = .ok l ∧ page + 4096 ≤ 2 ^ 56 ∧ l.pa + 4096 ≤ Config.hbmEnd ∧ k.len = w * xs.length ∧
        ∀ i x, xs[i]? = some x → (page : Int) ≤ x ∧ x + w ≤ page + 4096 ∧ ∀ j, j < w → src (w * i + j) = l.pa + (x - page).toNat + j

/-- The near side of a copy lies in one scratch window; in the local window where all cells of the cluster receive it (R18, R90, R96). -/
def NearOk (k : CopyOp) : Prop := k.near + k.len ≤ 0x400000 ∨ (k.kind ≠ .xbcast ∧ 0x80000000 ≤ k.near ∧ k.near + k.len ≤ 0x82000000)

/-- All of copy `k`, the only one, can move in one event. -/
def Movable (s : State) (k : CopyOp) : Prop :=
  s.Inv ∧ s.copies = [k] ∧ k.id = s.ev.n ∧ s.ev.m = 0 ∧ stopsAtBoundary s k = false ∧ k.done = 0 ∧ 0 < k.len ∧ k.orphan = false ∧ k.bar = none ∧
    s.poison = [] ∧ k.ctx.cell < Config.cells

end Sys2Proof.Claims

/-- R57, R90, R91, R93 to R96: COPY_COMPLETION for all bytes of a copy within one page, a range or the elements of a stream, moves them, all cells of the
cluster receiving those of XBCAST, adds the words of XADDW as FP32 in a cycle of its slot, and completes it. Moving a whole copy in one event is the model's
choice (log entry 46), as is adding up to 64 words in one cycle (log entry 110). -/
def Sys2Proof.Claims.CopyPlain : Prop :=
  ∀ (s : State) (k : CopyOp) (src : Nat → Nat), Movable s k → OnePage s k src →
    (k.kind = .xin ∨ k.kind = .xind → NearOk k → ∃ t, exec .copyCompletion s = .next t ∧ Completed s t k ∧
      (∀ j, j < k.len → t.byte (nearKey k k.ctx.cell j) = s.byte (src j)) ∧
      ∀ a, (∀ j, j < k.len → a ≠ nearKey k k.ctx.cell j) → t.byte a = s.byte a) ∧
    (k.kind = .xbcast → NearOk k → ∃ t, exec .copyCompletion s = .next t ∧ Completed s t k ∧
      (∀ n j, n < 16 → j < k.len → t.byte (nearKey k (clusterCell (clusterOf k.ctx.cell) n) j) = s.byte (src j)) ∧
      ∀ a, (∀ n j, n < 16 → j < k.len → a ≠ nearKey k (clusterCell (clusterOf k.ctx.cell) n) j) → t.byte a = s.byte a) ∧
    (k.kind = .xout → NearOk k → (∀ i j, i < j → j < k.len → src i ≠ src j) → ∃ t, exec .copyCompletion s = .next t ∧ Completed s t k ∧
      (∀ j, j < k.len → t.byte (src j) = s.byte (nearKey k k.ctx.cell j)) ∧
      ∀ a, (∀ j, j < k.len → a ≠ src j) → t.byte a = s.byte a) ∧
    (k.kind = .xaddw → k.len % 4 = 0 → 4 * k.near + k.len ≤ Config.accBytes → k.len ≤ 4 * (64 - k.near % 8) →
      let q := s.cell k.ctx.cell
      let word (j : Nat) : Nat := leNat ((List.range 4).map fun b => s.byte (src (4 * j + b)))
      q.cyc.toNat % 4 = k.slot → k.last ≠ some q.cyc.toNat → addHeld q = false → bankClash q k.near (k.len / 4) = false →
      ∃ t, exec .copyCompletion s = .next t ∧ Completed s t k ∧
        (∀ j, j < k.len / 4 → numAt t (accKey k.ctx.cell (4 * (k.near + j))) 4 =
          addBits (fmtOf .fp32) (numAt s (accKey k.ctx.cell (4 * (k.near + j))) 4) (word j)) ∧
        ∀ a, (a < accKey k.ctx.cell (4 * k.near) ∨ accKey k.ctx.cell (4 * k.near) + k.len ≤ a) → t.byte a = s.byte a)

/-- R46, R52, R90: the same for a range on one compressed page. An inbound copy receives what the page's blocks decompress to; an outbound one is
written through the memory controller, as any store to that page is. -/
def Sys2Proof.Claims.CopyCompressed : Prop :=
  ∀ (s : State) (k : CopyOp) (l : Leaf), Movable s k → k.strm = none → copyLeaf s k k.va = .ok l → l.far s = false → l.entry.cmp ≠ 0 →
    k.va.toNat % 4096 + k.len ≤ 4096 → NearOk k →
    let got := s.hbmRead l.entry.cmp l.pa k.len
    (k.kind = .xin ∨ k.kind = .xind → ∃ t, exec .copyCompletion s = .next t ∧ Completed s t k ∧
      (∀ j b, got[j]? = some b → t.byte (nearKey k k.ctx.cell j) = b.1) ∧
      ∀ a, (∀ j, j < k.len → a ≠ nearKey k k.ctx.cell j) → t.byte a = s.byte a) ∧
    (k.kind = .xout → ∃ t, exec .copyCompletion s = .next t ∧ Completed s t k ∧
      t.mem = (s.hbmWrite l.entry.cmp l.pa ((List.range k.len).map fun j => (s.byte (nearKey k k.ctx.cell j), false))).mem)

/-- R46, R52, R57, R90, R91, R93 to R96: the movement and completion of copies. Moving a whole copy in one event is the model's choice (log entry 46), as is
adding up to 64 words of an add-on-write in one cycle (log entry 110). -/
def Obligations.CopyMoves : Prop := CopyPlain ∧ CopyCompressed

/-! ### Channels -/

namespace Sys2Proof.Claims

/-- The context and the state of a channel instruction that reads: value `w`, status `st`, then an acquire (R112, R117). -/
def Received (s : State) (i : Instr) (o : ChRead) (s' : State) (c : Ctx) (w : Vec) (st : Word) : Prop :=
  let x := atIssue c .l i [] (if o.v then [o.x] else [o.d, o.x])
  let l : Load := { inFlight c i .l (if o.v then .v (fld o.d 0 5) else .s o.d) w with stat := if o.x = 0 then none else some (o.x, st) }
  ∃ e, e.kind = .receive ∧ e.id = c.nextId ∧
    Goes s i (acquired s') { x with qC := if o.v then [e] else [], loads := x.loads ++ [l], tagCache := [] }

/-- A channel read issues as it routes: its port is bound for reading to channel `n`, whose writer is on this device and whose unit has applied no landing
and no push in this cycle (R105), and reads are neither logged nor replayed. -/
def ReaderReady (s : State) (i : Instr) (o : ChRead) (c : Ctx) (n : Nat) : Prop :=
  Ready s i .l [] (if o.v then [o.x] else [o.d, o.x]) c ∧ c.qC = [] ∧ (o.v = true → queueTaken c < 16) ∧ (s.chan ⟨c.pid, n⟩).step = 0 ∧
    c.port[o.p.toFin].chan = some n ∧ c.port[o.p.toFin].write = false ∧ foreign s (s.chan ⟨c.pid, n⟩).writer = false ∧ c.replay = none ∧
    (s.part c.pid).record = none

end Sys2Proof.Claims

/-- R104, R109, R111, R112, R116, R118: CHWR, CHWR.I and CHCLOSE put an element or a close marker in transit, tagged with the instruction's instant;
a write takes a credit. A plain write or a close behind pending elements of its port, or behind stores that the commit buffer holds, takes the latest
instant among them: the model's reading (log entries 54 and 55). -/
def Obligations.ChannelWrites : Prop :=
  (∀ (o : ChWrite), ∀ x ∈ [(Instr.chwr o, false), (.chwrI o, true)], ∀ (s : State) (c : Ctx) (n : Nat), let i := x.1
    let id : ChanId := ⟨c.pid, n⟩
    let ch := s.chan id
    let p := c.port[o.p.toFin]
    let src := if o.v then [] else [(o.d, o.ud)]
    let r : BitVec 5 := fld o.d 0 5
    Ready s i .s (src.map (·.1)) [] c → c.qL = [] → c.qC = [] → (o.v = true → PassOk c (clkOf i) r) → (o.v = false → CapturedOk c (clkOf i) o.d) →
    (x.2 = true → c.handler = false) → p.chan = some n → p.write = true → p.closed = false → ch.state.toNat < 2 → (o.v = false → ch.e ≤ 8) →
    0 < usableCredits ch p →
    let w : Vec := if o.v then readV s c r c.handler else (readS s c o.d).setWidth 4096
    let pend := if x.2 = true ∧ c.iopen = true then some (clockInstant c (clkOf i)) else lastPend c ch
    let y := atIssue c .s i src []
    let y := if o.v then afterPass (killV y r o.ud c.handler) else y
    let s' := if o.v then passedOne s else s
    ∃ el, el = { val := el.val, tag := clockInstant c (clkOf i), pend := pend, own := x.2 && c.iopen, wctx := s.cur, wseq := c.seq, wid := c.nextId } ∧
      el.val.toNat = w.toNat % 256 ^ ch.e ∧
      Goes s i (s'.setChan id { ch with transit := ch.transit ++ [el], wcount := ch.wcount + 1, wblk := false })
        (pushed (setPort y o.p { p with credits := p.credits - 1, pending := p.pending + (if pend.isSome then 1 else 0) }) .s i)) ∧
  (∀ (h : Hdr) (pn : BitVec 5) (s : State) (c : Ctx) (n : Nat), let i := Instr.chclose h pn
    let id : ChanId := ⟨c.pid, n⟩
    let ch := s.chan id
    let p := c.port[pn.toFin]
    Ready s i .s [] [] c → p.chan = some n → p.write = true →
    (p.closed = false → ch.state.toNat < 2 →
      let m : Elem := { close := true, pend := lastPend c ch, wctx := s.cur, wseq := c.seq, wid := c.nextId }
      Goes s i (s.setChan id { ch with
          transit := ch.transit ++ [m], state := if lastPend c ch = none ∧ foreign s ch.reader = false then 2 else ch.state })
        (pushed (setPort (atIssue c .s i [] []) pn { p with closed := true }) .s i)) ∧
    (p.closed = true ∨ 2 ≤ ch.state.toNat → Goes s i s (pushed (atIssue c .s i [] []) .s i)))

/-- R105, R112, R117, R119: CHRD and CHTRY take the head element and give its value with status 0, CHTAG gives its tag and leaves it; at the end of
the channel they give zero, CHTAG all ones, with status 2; CHTRY of an empty channel gives status 1. CHSTAT gives a snapshot. -/
def Obligations.ChannelReads : Prop :=
  (∀ (o : ChRead) (s : State) (c : Ctx) (n : Nat), let id : ChanId := ⟨c.pid, n⟩
    let ch := s.chan id
    let x := ringHead s id s.cur.cell
    let popped := s.setChan id { ch with
      rhead := ch.rhead + 1, rcount := ch.rcount + 1, returning := ch.returning + (if ch.writer.isSome then 1 else 0), rblk := false }
    (∀ i ∈ [Instr.chrd o, .chtry o], ReaderReady s i o c n → ch.state ≠ 3 → ch.headPresent = true → ch.spill = false → x.bad = false →
      (o.v = false → ch.e ≤ 8) → Received s i o popped c x.val 0) ∧
    (ReaderReady s (.chtag o) o c n → ch.state ≠ 3 → ch.headPresent = true → x.badTag = false →
      Received s (.chtag o) o s c (x.tag.setWidth 4096) 0) ∧
    (∀ i ∈ [Instr.chrd o, .chtry o, .chtag o], ReaderReady s i o c n → ch.state = 3 ∨ (ch.headPresent = false ∧ ch.ended = true) →
      (i ≠ .chtag o → o.v = false → ch.e ≤ 8) →
      Received s i o (s.setChan id { ch with state := 3, rblk := false }) c (if i = .chtag o then 2 ^ 64 - 1 else 0) 2)) ∧
  (∀ (o : ChRead) (s : State) (c : Ctx) (n : Nat), let ch := s.chan ⟨c.pid, n⟩
    let i := Instr.chtry o
    ReaderReady s i o c n → ch.state ≠ 3 → ch.headPresent = false → ch.ended = false → (o.v = false → ch.e ≤ 8) →
    let x := atIssue c .l i [] (if o.v then [o.x] else [o.d, o.x])
    let l : Load := { inFlight c i .l (if o.v then .v (fld o.d 0 5) else .s o.d) 0 with stat := if o.x = 0 then none else some (o.x, 1) }
    ∃ e, e.kind = .receive ∧ e.id = c.nextId ∧ Goes s i s { x with qC := if o.v then [e] else [], loads := x.loads ++ [l] }) ∧
  (∀ (h : Hdr) (d : BitVec 6) (pn : BitVec 5) (sel : BitVec 4) (s : State) (c : Ctx) (n : Nat), let i := Instr.chstat h d pn sel
    let ch := s.chan ⟨c.pid, n⟩
    let p := c.port[pn.toFin]
    Ready s i .l [] [d] c → p.chan = some n → c.replay = none → (s.part c.pid).record = none →
    let x := atIssue c .l i [] [d]
    ∃ w : Word, Goes s i s { x with loads := x.loads ++ [inFlight c i .l (.s d) (w.setWidth 4096)] } ∧
      (sel = 0 → w = BitVec.ofNat 64 (if p.write then p.credits else presentCount ch)) ∧
      ((∀ m ∈ ch.marked, m.pend = none) → presentCount ch = ch.ring + ch.silt) ∧
      (sel = 1 → foreign s ch.reader = false →
        fld w 0 3 = ch.state ∧ w.getLsbD 3 = ch.spilling ∧ w.getLsbD 4 = decide (ch.pendingAll ≠ 0) ∧ fld w 5 8 = ch.grown ∧ w.toNat < 2 ^ 13) ∧
      (sel = 2 → w = if p.write then ch.wcount else ch.rcount) ∧ (sel = 3 → w = BitVec.ofNat 64 (ch.n + ch.c)))

/-- R99, R104 to R107: an element that arrives in the ring, refills from the Silt, and credits on their way back. -/
def Obligations.ChannelUnit : Prop :=
  let placed (s t : State) (i : ChanId) (r : Endpoint) (x : Elem) : Prop :=
    let ch := s.chan i
    let j := ch.rtail.toNat % ch.n
    let k := scratchKey r.cell (ch.rbase + ch.e * j)
    let g := scratchKey r.cell (ch.rbase + ch.n * ch.e + 8 * j)
    (∀ m, m < ch.e → t.byte (k + m) = BitVec.ofNat 8 (x.val.toNat / 256 ^ m)) ∧ numAt t g 8 = x.tag.toNat ∧
      ∀ a, (a < k ∨ k + ch.e ≤ a) → (a < g ∨ g + 8 ≤ a) → t.byte a = s.byte a
  (∀ (s : State) (x : Elem) (rest : List Elem) (r : Endpoint), let i := s.ev.chan
    let ch := s.chan i
    s.Inv → (find? s.chans i).isSome = true → ch.transit = x :: rest → released s i x = true → ch.reader = some r → foreign s (some r) = false →
    r.resident = true → x.close = false → ch.spill = false → ch.ring + ch.refills.length < ch.n →
    ∃ t, exec .channelPush s = .next t ∧ placed s t i r x ∧ t.ctxs = s.ctxs ∧
      t.chan i = { ch with transit := rest, rtail := ch.rtail + 1, step := 2,
                           marks := if x.pend = none ∧ ch.marks = [] then [] else ch.marks ++ [⟨x.pend, false, x.own⟩] }) ∧
  (∀ (s s2 : State) (x : Elem), let i := s.ev.chan
    let ch := s.chan i
    canRefill ch = true → siltRead s i (ch.shead.toNat % max ch.c 1) = .ok (x, s2) →
    ∃ t, exec .refillStart s = .next t ∧ SameMem s t ∧ t.ctxs = s.ctxs ∧
      { t.chan i with tlb := ch.tlb } = { ch with shead := ch.shead + 1, refills := ch.refills ++ [x] }) ∧
  (∀ (s : State) (x : Elem) (rest : List Elem) (r : Endpoint), let i := s.ev.chan
    let ch := s.chan i
    s.Inv → ch.refills = x :: rest → ch.reader = some r → r.resident = true → ch.step < 2 →
    ∃ t, exec .refillLanding s = .next t ∧ placed s t i r x ∧ t.ctxs = s.ctxs ∧
      t.chan i = { ch with refills := rest, rtail := ch.rtail + 1, step := 1, spill := ch.spill && (ch.silt != 0 || !rest.isEmpty) }) ∧
  (∀ (s : State) (w : Endpoint) (x : Ctx), let i := s.ev.chan
    let ch := s.chan i
    (find? s.chans i).isSome = true → foreign s ch.reader = false → ch.writer = some w → find? s.ctxs ⟨w.cell, w.slot⟩ = some x → x.pid = i.pid →
    ∃ t, exec .creditReturn s = .next t ∧ SameMem s t ∧ t.chan i = { ch with returning := 0 } ∧
      (t.cx ⟨w.cell, w.slot⟩).port =
        x.port.map fun p => if p.chan = some i.chan ∧ p.write = true then { p with credits := p.credits + ch.returning } else p)

/-! ### Generators -/

namespace Sys2Proof.Claims

/-- A changed counter: it is committed too while no instant is open (R310). -/
def withCtr (c : Ctx) (g : Gen) (n : BitVec 128) : Gen := { g with ctr := n, cctr := if c.iopen then g.cctr else n }

/-- The instructions that change a generator from two scalars, with what they make of it (R308). -/
def genOps : List ((GenSS → Instr) × (Ctx → Gen → Word → Word → Gen)) :=
  [(.gkey, fun _ g a b => { g with key := b ++ a }),
   (.gkeyOff, fun _ g a b => { g with roff := a.setWidth 32, coff := b.setWidth 32 }),
   (.gkeyParam, fun _ g a b => { g with stride := a.setWidth 32, param := b }),
   (.gctr, fun c g a b => withCtr c g (b ++ a)),
   (.gadv, fun c g a b => withCtr c g (g.ctr + (b ++ a)))]

/-- The scope value of an instruction of clock `k` (R303). -/
def scopeOf (c : Ctx) (k : Tag) (code : Nat) : Word :=
  if code = 1 then BitVec.ofNat 64 (c.seq % 2 ^ 48)
  else if code = 2 then c.entry &&& 0x00FFFFFFFFFFFFFF
  else if code = 3 then clockInstant c k
  else c.lc.toList.getD (code - 4) 0

/-- The effective key of a generator (R303). -/
def keyOf (c : Ctx) (k : Tag) (g : Gen) : BitVec 128 :=
  if g.scope = 0 then g.key else mix g.key (BitVec.ofNat 128 ((scopeOf c k g.scope.toNat).toNat + 2 ^ 64 * g.scope.toNat))

/-- The generator unit of the executing cell is free (R308, R309): no GDRAW occupies it, no MMA in its compute phase reads a generator, and an active
nest has no generator operand. -/
def GeneratorFree (s : State) : Prop :=
  let q := s.cell s.cur.cell
  q.genBusy ≤ q.cyc.toNat ∧ (∀ k ∈ q.engine, k.gen = true → k.compute ≤ q.cyc.toNat) ∧
    ∀ n, q.nest = some n → n.cfg.aoper.getLsbD 3 = false ∧ n.cfg.boper.getLsbD 3 = false

/-- The state in which a GDRAW of `n` words occupies the generator unit (R309): eight words a cycle. -/
def drawing (s : State) (n : Nat) : State :=
  let q := s.cell s.cur.cell
  s.setCell s.cur.cell { q with genBusy := q.cyc.toNat + max 1 ((n + 7) / 8) }

/-- A generator as the fields of its image say (R302). -/
def genFrom (w : Vec) (cctr : BitVec 128) : Gen :=
  { key := fld w 0 128, ctr := fld w 128 128, cctr := cctr, rows := fld w 384 32, cols := fld w 416 32, roff := fld w 448 32
    coff := fld w 480 32, stride := fld w 512 32, scale := fld w 544 16, kind := fld w 560 3, scope := fld w 576 8, param := fld w 640 64 }

end Sys2Proof.Claims

/-- R303, R304, R308 to R310: the generator instructions. -/
def Obligations.Generators : Prop :=
  (∀ x ∈ genOps, ∀ (o : GenSS) (s : State) (c : Ctx), let i := x.1 o
    let src := [(o.a, o.ua), (o.b, o.ub)]
    Ready s i .c [o.a, o.b] [] c → CapturedOk c (clkOf i) o.a → CapturedOk c (clkOf i) o.b →
    Goes s i s (pushed (setGen (atIssue c .c i src []) o.d (x.2 c c.g[o.d.toFin] (readS s c o.a) (readS s c o.b))) .c i)) ∧
  (∀ (h : Hdr) (d : BitVec 4) (kind : GenKind) (rows cols : BitVec 10) (scale : BitVec 16) (scope : BitVec 8) (s : State) (c : Ctx),
    (let i := Instr.gset h d kind rows cols scale
     Ready s i .c [] [] c →
      Goes s i s (pushed (setGen (atIssue c .c i [] []) d { c.g[d.toFin] with
        kind := kind.code, rows := rows.setWidth 32 + 1, cols := cols.setWidth 32 + 1, scale := scale, stride := cols.setWidth 32 + 1
        roff := 0, coff := 0 }) .c i)) ∧
    (let i := Instr.gscope h d scope
     Ready s i .c [] [] c → Goes s i s (pushed (setGen (atIssue c .c i [] []) d { c.g[d.toFin] with scope := scope }) .c i))) ∧
  (∀ (h : Hdr) (d : BitVec 5) (a : BitVec 4) (rb : BitVec 6) (ub : Bool) (s : State) (c : Ctx),
    let n := (readS s c rb).toNat
    let g := c.g[a.toFin]
    let drawn (k : Tag) (w : Vec) : Prop := IsLanes w 128 fun t => if t < n then (mix (keyOf c k g) (g.ctr + BitVec.ofNat 128 t)).toNat else 0
    let ready (i : Instr) : Prop :=
      Ready s i .c [rb] [] c ∧ CapturedOk c (clkOf i) rb ∧ GeneratorFree s ∧ c.v[d.toFin].pend = false ∧ g.scope.toNat ≤ 9
    n ≤ 32 →
    (let i := Instr.gdraw h d a rb ub
     ready i → ∃ w, drawn (clkOf i) w ∧ Goes s i (drawing s n) (pushed (writeV (atIssue c .c i [(rb, ub)] []) d w (clkOf i) c.handler) .c i)) ∧
    (let i := Instr.gdrawAdv h d a rb ub
     ready i → ∃ w, drawn (clkOf i) w ∧
      Goes s i (drawing s n) (pushed (setGen (writeV (atIssue c .c i [(rb, ub)] []) d w (clkOf i) c.handler) a
        (withCtr c g (g.ctr + BitVec.ofNat 128 n))) .c i))) ∧
  (∀ (h : Hdr) (d : BitVec 5) (a : BitVec 4) (s : State) (c : Ctx), let i := Instr.gsave h d a
    let g := c.g[a.toFin]
    Ready s i .c [] [] c → c.v[d.toFin].pend = false →
    ∃ w : Vec, Goes s i s (pushed (writeV (atIssue c .c i [] []) d w (clkOf i) c.handler) .c i) ∧
      genFrom w (fld w 256 128) = g ∧ (fld w 563 13 : BitVec 13) = 0 ∧ (fld w 584 56 : BitVec 56) = 0 ∧ (fld w 704 3392 : BitVec 3392) = 0) ∧
  (∀ (h : Hdr) (d : BitVec 4) (a : BitVec 5) (ua : Bool) (s : State) (c : Ctx), let i := Instr.gload h d a ua
    let w := valV s c (0#1 ++ a)
    let cctr : BitVec 128 := if c.iopen then c.g[d.toFin].cctr else fld w 256 128
    Ready s i .c [] [] c → ReadableV c (clkOf i) (0#1 ++ a) → (fld w 563 13 : BitVec 13) = 0 → (fld w 584 56 : BitVec 56) = 0 →
    (fld w 704 320 : BitVec 320) = 0 → (fld w 576 8 : BitVec 8).toNat ≤ 9 → ((fld w 384 32 : BitVec 32) = 0 ↔ (fld w 416 32 : BitVec 32) = 0) →
    Goes s i s (pushed (setGen (killV (atIssue c .c i [] []) a ua c.handler) d (genFrom w cctr)) .c i))

/-! ### The matrix unit -/

namespace Sys2Proof.Claims

/-- The nest configuration instructions, with what each makes of a level or of the whole from the low halves of its scalars (R294). -/
def nestOps' (l : Fin 6) : List ((McfgOp → Instr) × (NestCfg → BitVec 32 → BitVec 32 → NestCfg)) :=
  [(.mcfgLoop, fun n a b => { n with lvl := n.lvl.set l { n.lvl[l] with count := a, sc := b } }),
   (.mcfgStep, fun n a b => { n with lvl := n.lvl.set l { n.lvl[l] with sa := a, sb := b } }),
   (.mcfgGstep, fun n a b => { n with lvl := n.lvl.set l { n.lvl[l] with sgr := a, sgc := b } }),
   (.mcfgBase, fun n a b => { n with abase := a, bbase := b }), (.mcfgPitch, fun n a b => { n with apitch := a, bpitch := b }),
   (.mcfgOper, fun n a b => { n with aoper := a, boper := b }), (.mcfgAcc, fun n a _ => { n with cbase := a })]

/-- The cell's matrix unit is idle, no copy of the cell is in flight and nothing is poisoned. -/
def UnitFree (s : State) : Prop :=
  (s.cell s.cur.cell).engine = [] ∧ (s.cell s.cur.cell).nest = none ∧ (∀ k ∈ s.copies, k.ctx.cell ≠ s.cur.cell) ∧ s.poison = []

/-- The cell with command `k` in the matrix unit. -/
def withCmd (s : State) (k : EngCmd) : State := s.setCell s.cur.cell { s.cell s.cur.cell with engine := [k] }

/-- An instruction on clock `k` may read tile `t` (R178, R215, R290). -/
def TileOk (c : Ctx) (k : Tag) (t : BitVec 3) : Prop :=
  let x := c.t[t.toFin]
  (c.handler = true ∨ x.tag = k) ∧ (c.handler = true ∨ c.chk = false ∨ x.dead = false)

/-- The key of accumulator word `w` of a cell. -/
def accWord (cell w : Nat) : Nat := accKey cell (4 * w)

/-- The work of the m × n product of A by B, iteration `no`, that a command which leaves the array in cycle `at0` does at accumulator word `org`, with 64
words from row to row (R290, R291): row `r` is read in cycle `at0` + 6 + r and written in cycle `at0` + 8 + r. -/
def ProductWork (l : List RowWork) (at0 org np m n no : Nat) (A B : List (List Nat)) : Prop :=
  l.length = m ∧ ∀ r (h : r < l.length), l[r] =
    { rd := some (at0 + 6 + r), wr := some (at0 + 8 + r), a := org + 64 * r, n := n, np := np, ra := A.getD r []
      cb := (List.range n).map fun j => B.map fun row => row.getD j 0, run := no }

/-- A row of a product has been read: each of its words is to be the dot product of profile `np` (R192 to R197, R290) of the row of A and the column of
B, added to what the word holds in `s`. -/
def RowRead (s : State) (cell : Nat) (w w' : RowWork) : Prop :=
  w' = { w with rd := none, data := w'.data } ∧ w'.data.length = w.n ∧ ∀ j, j < w.n → w'.data.getD j 0 =
    if w.cb = [] then numAt s (accWord cell (w.a + j)) 4 else dot w.np (numAt s (accWord cell (w.a + j)) 4) (w.ra.zip (w.cb.getD j []))

/-- A row has been written, and no other byte of memory. -/
def RowWritten (s t : State) (cell : Nat) (w : RowWork) : Prop :=
  (∀ j, j < w.data.length → numAt t (accWord cell (w.a + j)) 4 = w.data.getD j 0 % 2 ^ 32) ∧
  ∀ k, (∀ j b, j < w.data.length → b < 4 → k ≠ accWord cell (w.a + j) + b) → t.byte k = s.byte k

end Sys2Proof.Claims

/-- R285, R287, R294: TCFG writes type, rows and row length and keeps CB and SCT; the MCFG instructions. -/
def Obligations.MatrixConfiguration : Prop :=
  (∀ (h : Hdr) (t : BitVec 3) (ty : ElemType) (rows : BitVec 7) (rlen : BitVec 9) (s : State) (c : Ctx), let i := Instr.tcfg h t ty rows rlen
    let y := c.t[t.toFin]
    Ready s i .c [] [] c → (s.cell s.cur.cell).nest = none → (s.cell s.cur.cell).engine = [] →
    Goes s i s (pushed { atIssue c .c i [] [] with
      t := c.t.set t.toFin { y with cfg := (y.cfg &&& 0x07E00000) ||| (0#44 ++ ty.code ++ rows ++ rlen) } t.toFin.isLt } .c i)) ∧
  (∀ (l : Fin 6), ∀ x ∈ nestOps' l, ∀ (o : McfgOp) (s : State) (c : Ctx), let i := x.1 o
    o.lvl.toNat = l.val → Ready s i .c [o.a, o.b] [] c → CapturedOk c (clkOf i) o.a → CapturedOk c (clkOf i) o.b →
    Goes s i s (pushed { atIssue c .c i [(o.a, o.ua), (o.b, o.ub)] [] with
      nest := x.2 c.nest ((readS s c o.a).setWidth 32) ((readS s c o.b).setWidth 32) } .c i))

/-- R288 to R293: MMA on tiles and generators, ACCRD, ACCWR and ACCZ on an idle matrix unit. Each puts its command into the unit, with the row reads and
writes that it does in the cycles of R291 and R292, and memory is as it was. Whose turn a cycle of an entry 2 or 3 of the slot table is while both contexts
wait is read as log entry 121 says. -/
def Obligations.MatrixProducts : Prop :=
  (∀ (o : MmaOp) (s u : State) (c : Ctx) (steps : List (Nat × Word)), let i := Instr.mma o
    let x := atIssue c .c i [] []
    let a := mmaOp x o.ga o.a o.ta
    let b := mmaOp x o.gb o.b o.tb
    let np := o.np.toNat
    let m := (a.dims x).1
    let n := (b.dims x).2
    let now := (s.cell s.cur.cell).cyc.toNat
    let f := fmtOf (profileType np)
    let org := 4096 * o.d.toNat
    let T := computeCycles np m (a.dims x).2 n
    Ready s i .c [] [] c → UnitFree s → granted (s.setMe x) s.cur.cell s.cur.slot now = true → othersTurn (s.setMe x) = false →
    (o.ga = true ∨ o.gb = true → (s.cell s.cur.cell).genBusy ≤ now) →
    (∀ t ∈ a.tiles x ++ b.tiles x, TileOk x (clkOf i) t) → formatsOk x np a b = true → shapesOk x a b = true → scalesOk x a m = true →
    scalesOk x b n = true →
    stepsFor (s.setMe x) ((a.gen.orElse fun _ => b.gen).getD {}) (if a.gen.isSome then a.stepCols x else b.stepCols x) = .ok (steps, u) →
    ∃ t e, exec i s = .next t ∧ SameMem s t ∧ e.inst = clockInstant c (clkOf i) ∧ e.lc = c.lc ∧ e.hand = c.handler ∧
      t.ctxs = (goOn u (killTile (killTile u.me a.t (!o.ga && o.ua) c.handler) b.t (!o.gb && o.ub) c.handler)).ctxs ∧
      ∃ k, (t.cell s.cur.cell).engine = [k] ∧ k.compute = now + T ∧ k.doneAt = now + T + 7 + m ∧ k.push = pushesOf .c (tokOf i) ∧
        ProductWork k.work (now + T) org np m n 0 (a.rows u s.cur.cell x e steps f) (b.rows u s.cur.cell x e steps f) ∧
        k.runs = [{ chk := now + T + 4, base := org, m := m, n := n }]) ∧
  (∀ (o : AccOp) (s : State) (c : Ctx),
    let a := (readS s c o.a).toNat + o.off.toNat
    let src := [(o.a, o.ua)]
    let now := (s.cell s.cur.cell).cyc.toNat
    let cmd (i : Instr) : EngCmd :=
      { id := c.nextId, slot := s.cur.slot, accLo := a, accHi := a + 128, pc := c.pc, i := i, iter := iterationOf c (clkOf i)
        push := pushesOf .c (tokOf i) }
    UnitFree s →
    (let i := Instr.accrd o
     let x := atIssue c .c i src []
     Ready s i .c [o.a] [] c → CapturedOk c (clkOf i) o.a → c.v[o.v.toFin].pend = false → a % 8 = 0 → a + 128 ≤ 65536 →
      Goes s i (withCmd s { cmd i with
        writes := false, doneAt := now + 4, dest := some o.v, tag := clkOf i, hand := c.handler
        work := [{ rd := some (now + 1), a := a, n := 64 }, { rd := some (now + 2), a := a + 64, n := 64 }] })
        { x with v := x.v.set o.v.toFin { c.v[o.v.toFin] with pend := true } o.v.toFin.isLt }) ∧
    (let i := Instr.accwr o
     let lanes (b : Nat) : List Nat := (List.range 64).map fun j => lane (valV s c (0#1 ++ o.v)) 32 (b + j)
     Ready s i .c [o.a] [] c → CapturedOk c (clkOf i) o.a → ReadableV c (clkOf i) (0#1 ++ o.v) → a % 8 = 0 → a + 128 ≤ 65536 →
      Goes s i (withCmd s { cmd i with
        doneAt := now + 3
        work := [{ wr := some (now + 2), a := a, n := 64, data := lanes 0 }, { wr := some (now + 3), a := a + 64, n := 64, data := lanes 64 }] })
        (killV (atIssue c .c i src []) o.v o.uv c.handler)) ∧
    (let i := Instr.accz o
     Ready s i .c [o.a] [] c → CapturedOk c (clkOf i) o.a → a % 4096 = 0 → a + 4096 ≤ 65536 →
      Goes s i (withCmd s { cmd i with
        accHi := a + 4096, doneAt := now + 65
        work := (List.range 64).map fun r => { wr := some (now + 2 + r), a := a + 64 * r, n := 64, data := List.replicate 64 0 } })
        (atIssue c .c i src [])))

namespace Sys2Proof.Claims

/-- The rows of tile operand `o` have been loaded from the local window, from byte `org` with `pitch` from row to row (R295). -/
def Loaded (s t : State) (cell : Nat) (x : Ctx) (o : MOp) (org pitch : Nat) : Prop :=
  ∀ r j, r < tcfgRows (tileCfg x o.t) → j < tcfgLen (tileCfg x o.t) →
    t.byte (tileKey cell (16384 * o.t.toNat + 256 * r + j)) = s.byte (scratchKey cell (org + r * pitch + j))

/-- Its rows lie in the local window. -/
def InWindow (x : Ctx) (o : MOp) (org pitch : Nat) : Prop :=
  ∀ r, r < tcfgRows (tileCfg x o.t) → org + r * pitch + tcfgLen (tileCfg x o.t) ≤ 0x400000

/-- The rows of a tile hold at most the tile's bytes. -/
def TileShape (x : Ctx) (o : MOp) : Prop := o.gen = none ∧ tcfgRows (tileCfg x o.t) ≤ 64 ∧ tcfgLen (tileCfg x o.t) ≤ 256

/-- No access of a context of the executing cell that has issued still holds a beat (R72, R297). -/
def BeatsOver (s : State) : Prop :=
  ∀ v x, find? s.ctxs ⟨s.cur.cell, v⟩ = some x → x.beatsTo = 0 ∨ x.beatsTo < (s.cell s.cur.cell).cyc.toNat

/-- A tile operand's rows lie in the local window over a whole nest (R296). -/
def RangeOk (o : MOp) (r : Int × Int) : Prop := o.gen = none → 0 ≤ r.1 ∧ r.2 < 0x400000

/-- The signed step of a level (R294). -/
def stepAt (n : NestCfg) (step : NestLevel → BitVec 32) (k : Nat) : Int := nestSum (fun l => (step l).toInt) n.lvl.toList k

end Sys2Proof.Claims

/-- R294 to R298: MGO starts whatever the tags of its operand tiles, which its nest writes (log entry 69), and takes the step table at issue (log entry 70): the
model's readings. MGO with a COUNT of zero completes at once; MGO on an idle unit starts its nest; an iteration of two tile operands loads both, computes
for T cycles and leaves the row work of its product in the unit. -/
def Obligations.Nest : Prop :=
  (∀ (h : Hdr) (d np : BitVec 4) (s u : State) (c : Ctx) (steps : List (Nat × Word)), let i := Instr.mgo h d np
    let x := atIssue c .c i [] []
    let n := c.nest
    let a := (nestOps x n).1
    let b := (nestOps x n).2
    let q := s.cell s.cur.cell
    let total := (n.lvl.toList.map (·.count.toNat)).prod
    let org : Int := 4096 * (d.toNat : Int) + n.cbase.toNat
    let cs := nestExtremes n (·.sc.toInt)
    let ra := nestRange n x a n.abase n.apitch (·.sa.toInt)
    let rb := nestRange n x b n.bbase n.bpitch (·.sb.toInt)
    let g := (a.gen.orElse fun _ => b.gen).getD {}
    Ready s i .c [] [] c →
    (total = 0 → Goes s i s (pushed x .c i)) ∧
    (total ≠ 0 → UnitFree s → BeatsOver s → c.qS = [] → c.stores = [] → q.cyc.toNat % 4 = 0 → ¬(a.gen.isSome = true ∧ b.gen.isSome = true) →
      (∀ t ∈ a.tiles x ++ b.tiles x, (a.gen = none → t ≠ a.t) → (b.gen = none → t ≠ b.t) → TileOk x (clkOf i) t) → formatsOk x np.toNat a b = true → shapesOk x a b = true →
      scalesOk x a (a.dims x).1 = true → scalesOk x b (b.dims x).2 = true → n.aoper &&& 0xFFFFFE00 = 0 →
      n.boper &&& 0xFFFFFE00 = 0 → n.cbase.toNat % 8 = 0 → 0 ≤ org + cs.1 → org + cs.2 + 64 * ((a.dims x).1 - 1 : Int) + (b.dims x).2 ≤ 65536 →
      RangeOk a ra → RangeOk b rb →
      stepsFor (s.setMe x) g (if g.rope then nestCols n (if a.gen.isSome then (a.shape x).2 else (b.shape x).2) total else []) = .ok (steps, u) →
      ∃ t k run, exec i s = .next t ∧ SameMem s t ∧ t.ctxs = (goOn u u.me).ctxs ∧ (t.cell s.cur.cell).engine = [k] ∧
        (t.cell s.cur.cell).nest = some run ∧ k.isNest = true ∧ k.push = pushesOf .c (tokOf i) ∧ run.slot = s.cur.slot ∧ run.cfg = n ∧
        run.np = np.toNat ∧ run.acc = 4096 * d.toNat ∧ run.tag = clkOf i ∧ run.gen = g ∧ run.steps = steps ∧ run.next = 0 ∧
        run.total = total ∧ run.load = q.cyc.toNat ∧ run.ready = q.cyc.toNat + nestLoad n x 0 + 6)) ∧
  (∀ (s : State) (run : NestRun) (cmd : EngCmd), let cell := s.ev.n
    let q := s.cell cell
    let c : CtxId := ⟨cell, run.slot⟩
    let x := s.cx c
    let n := run.cfg
    let a := descOp run.gen n.aoper
    let b := descOp run.gen n.boper
    let k := run.next
    let oa := ((n.abase.toNat : Int) + stepAt n (·.sa) k).toNat
    let ob := ((n.bbase.toNat : Int) + stepAt n (·.sb) k).toNat
    let org := ((run.acc : Int) + n.cbase.toNat + stepAt n (·.sc) k).toNat
    let m := (a.dims x).1
    let w := (b.dims x).2
    let f := fmtOf (profileType run.np)
    let now := q.cyc.toNat
    let T := computeCycles run.np m (a.dims x).2 w
    let load := max (run.load + nestLoad n x k) now
    s.Inv → cell < Config.cells → q.nest = some run → q.engine = [cmd] → cmd.isNest = true → k < run.total → run.ready ≤ now →
    granted s cell run.slot now = true → cmd.compute ≤ now → s.poison = [] → TileShape x a → TileShape x b → a.t ≠ b.t →
    InWindow x a oa n.apitch.toNat → InWindow x b ob n.bpitch.toNat →
    ∃ t work, exec .nestIteration s = .next t ∧ Loaded s t cell x a oa n.apitch.toNat ∧ Loaded s t cell x b ob n.bpitch.toNat ∧
      (∀ y, (y < tileBase ∨ tileBase + Config.cells * Config.tileBytes ≤ y) → t.byte y = s.byte y) ∧ t.ctxs = s.ctxs ∧
      ProductWork work (now + T) org run.np m w k (a.rows t cell x run.ent run.steps f) (b.rows t cell x run.ent run.steps f) ∧
      (t.cell cell).engine = [{ cmd with
        t := T, compute := now + T, doneAt := if run.total ≤ k + 1 then now + T + 7 + m else cmd.doneAt, work := cmd.work ++ work
        runs := cmd.runs ++ [{ no := k, chk := now + T + 4, base := org, m := m, n := w }] }] ∧
      (t.cell cell).nest = some { run with next := k + 1, load := load, ready := max (load + nestLoad n x (k + 1) + 6) (now + T) })

namespace Sys2Proof.Claims

/-- The exact sum of row `x` of A times the summed rows of B (R300). -/
def exactSum (t : ElemType) (x : List Nat) (rows : List (List Nat)) : Int := ((x.zip rows).map fun y => intOf t y.1 * (y.2.map (intOf t)).sum).sum

/-- A row's work moved `d` cycles later, and poisoned if `bad` says so. -/
def rowLater (d : Nat) (bad : Bool) (w : RowWork) : RowWork :=
  { w with rd := w.rd.map (· + d), wr := w.wr.map (· + d), bad := w.bad || bad }

end Sys2Proof.Claims

/-- R300, R301, with what a mismatch delays and poisons, and what the delivered sum is compared with, as log entry 74 reads them: a delivered row sum of NP3 or NP4 passes exactly when it is the exact sum modulo 2³²; a row with an operand that is not finite is not
checked; a mismatch moves the command's times by 4 + T cycles and holds the cell's add-on-writes, and after a second one the product's words are
written as poisoned; without a mismatch nothing changes. -/
def Sys2Proof.Claims.ChecksumLane : Prop :=
  (∀ (ws : List RowWork) (w : RowWork) (ix sum : Nat), ws.head? = some w → (w.np = 3 ∨ w.np = 4) → ix < ws.length →
    let x := (ws.getD ix {}).ra
    let rows := (List.range w.ra.length).map fun j => w.cb.map (·.getD j 0)
    (laneFails ws false ix sum = true ↔ (sum : Int) ≠ exactSum (profileType w.np) x rows % 2 ^ 32)) ∧
  (∀ (ws : List RowWork) (w : RowWork) (ix j sum : Nat), ws.head? = some w → w.np ≠ 3 → w.np ≠ 4 → ix < ws.length →
    j < ((ws.getD ix {}).ra).length → isFinite (profileType w.np) ((ws.getD ix {}).ra.getD j 0) = false → laneFails ws false ix sum = false) ∧
  (∀ (s : State) (k : EngCmd) (r : Product), let c := s.ev.ctx
    let q := s.cell c.cell
    let d := 4 + k.t
    let fails := laneFails k.work (s.ev.grp.getLsbD 0) s.ev.n s.ev.sum.toNat
    q.engine = [k] → k.slot = c.slot → k.id = s.ev.m → k.isNest = false → k.runs = [r] → r.chk = q.cyc.toNat → (∀ w ∈ k.work, w.run = r.no) →
    (fails = false → exec .checksumMismatch s = .next s) ∧
    (fails = true → q.trcCtl = 0 → (s.part (s.cx c).pid).record = none → s.dev.softLimit = 0 →
      ∃ t, exec .checksumMismatch s = .next t ∧ SameMem s t ∧ t.poison = s.poison ∧ t.ctxs = s.ctxs ∧ t.dev.softErrs = s.dev.softErrs + 1 ∧
        (t.cell c.cell).engine = [{ k with
          compute := k.compute + d, doneAt := k.doneAt + d, held := true, runs := [], work := k.work.map (rowLater d s.ev.flag) }]))

/-! ### Cycles, the time base, records and the markers of IEND -/

namespace Sys2Proof.Claims

/-- The queues of the contexts of a cell are empty. -/
def QueuesEmpty (s : State) (cell : Nat) : Prop :=
  ∀ v x, v < 2 → find? s.ctxs ⟨cell, v⟩ = some x → x.phase ≠ .image ∧ x.qL = [] ∧ x.qC = [] ∧ x.qS = []

/-- Nothing issues on a cell in a cycle, no SAMPLE record is due and no stop waits for the matrix unit: its slots hold no context or ones with empty queues. -/
def QuietCell (s : State) (cell : Nat) : Prop :=
  (s.cell cell).turn < 2 ∧ (s.cell cell).trcCtl.getLsbD 17 = false ∧ QueuesEmpty s cell ∧ ∀ v x, find? s.ctxs ⟨cell, v⟩ = some x → x.reissue = none ∧ x.stopped = none

/-- What a cycle leaves in a context beside its counts of blocked cycles and slips: nothing acted, the sequencer waits for nothing, and the tokens of the
cycle are seen (R163). -/
def afterCycle (x : Ctx) (blocked : Nat) : Ctx := { seeTokens x with acted := 0, waiting := none, blocked := blocked, routed := 0 }

/-- CTX.SLIP of a slot, 0 where it is empty. -/
def slipAt (s : State) (cell slot : Nat) : Word :=
  match find? s.ctxs ⟨cell, slot⟩ with
  | some x => x.slip
  | none => 0

/-- No die writes a record. -/
def NoRecords (s : State) : Prop := ∀ d, (s.die d).loess.getLsbD 6 = false

end Sys2Proof.Claims

/-- R41, R163, R162, R357, R325: a cycle of a cell counts, gives the next turn to the other slot and leaves contexts with empty queues as they are; a tick of
the time base counts, lets walks read what the tables now hold (the end of the old values at a tick is the model's reading: log entry 43) and notes when the
launches that are not bound became eligible (log entry 83). -/
def Obligations.CyclesAndTicks : Prop :=
  (∀ s : State, let n := s.ev.n
    let q := s.cell n
    let now := (q.cyc + 1).toNat
    QuietCell s n → (∀ k ∈ q.engine, now < k.doneAt ∧ (∀ w ∈ k.work, w.rd ≠ some now ∧ w.wr ≠ some now) ∧ ∀ r ∈ k.runs, now ≤ r.chk) →
    (∀ r, q.nest = some r → now < r.ready) →
    ∃ t, exec .cellCycle s = .next t ∧ SameMem s t ∧ (t.cell n).cyc = q.cyc + 1 ∧ (t.cell n).turn = 1 - q.turn ∧
      (t.cell n).engine = q.engine ∧ (t.cell n).nest = q.nest ∧
      (∀ v x, v < 2 → find? s.ctxs ⟨n, v⟩ = some x → ∃ b, find? t.ctxs ⟨n, v⟩ = some (afterCycle x b)) ∧
      ∀ c, c.cell ≠ n → find? t.ctxs c = find? s.ctxs c) ∧
  (∀ s : State, let now := s.dev.time + 1
    s.dev.latchDue = false ∨ now.toNat < s.dev.trgT.toNat →
    ∃ t, exec .timeBaseTick s = .next t ∧ SameMem s t ∧ t.dev = { s.dev with time := now } ∧ t.ctxs = s.ctxs ∧ t.cells = s.cells ∧ t.tableOld = [] ∧
      t.launches = s.launches.map fun l => { l with since := if eligible s l ∧ l.placed = 0 then some (l.since.getD now) else none })

/-- R291 to R293, R163: in the cycle that its schedule gives a row of the matrix unit is read or written; a command completes in its last cycle: its tokens
are pushed, and the destination of an ACCRD receives the words that it read. -/
def Sys2Proof.Claims.RowsInTime : Prop :=
  (∀ (s : State) (k : EngCmd) (l r : List RowWork) (w : RowWork), let n := s.ev.n
    let q := s.cell n
    let now := (q.cyc + 1).toNat
    s.Inv → QuietCell s n → q.nest = none → q.engine = [k] → now < k.doneAt → k.work = l ++ w :: r → s.poison = [] →
    (w.cb = [] ∨ w.cb.length = w.n) → w.bad = false → (∀ y ∈ l ++ r, y.wr ≠ some now ∧ y.rd ≠ some now) →
    (w.rd = some now → w.wr ≠ some now → ∃ t w' e, exec .cellCycle s = .next t ∧ SameMem s t ∧ RowRead s n w w' ∧
      (t.cell n).engine = [e] ∧ e.work = l ++ w' :: r ∧ e.push = k.push ∧ e.doneAt = k.doneAt) ∧
    (w.wr = some now → w.rd = none → ∃ t e, exec .cellCycle s = .next t ∧ RowWritten s t n w ∧ (t.cell n).engine = [e] ∧ e.work = l ++ r ∧
      e.push = k.push ∧ e.doneAt = k.doneAt)) ∧
  (∀ (s : State) (k : EngCmd), let n := s.ev.n
    let q := s.cell n
    let now := (q.cyc + 1).toNat
    QuietCell s n → q.nest = none → q.engine = [k] → k.isNest = false → k.doneAt ≤ now → k.slot < 2 →
    (∀ w ∈ k.work, w.rd ≠ some now ∧ w.wr ≠ some now) →
    ∃ t, exec .cellCycle s = .next t ∧ SameMem s t ∧ (t.cell n).engine = [] ∧
      ∀ x, find? s.ctxs ⟨n, k.slot⟩ = some x → ∃ b,
        (k.dest = none → find? t.ctxs ⟨n, k.slot⟩ = some (pushFor (afterCycle x b) k.id k.push)) ∧
        ∀ d, k.dest = some d → ∃ v, find? t.ctxs ⟨n, k.slot⟩ = some (pushFor (writeV (afterCycle x b) d v k.tag k.hand) k.id k.push) ∧
          v.toNat = leNat ((k.work.flatMap (·.data)).flatMap (leBytes 4)) % 2 ^ 4096)

/-- R163, R291 to R293, R300, R301: the rows of the matrix unit in their cycles, the completion of its commands, and the checksum lane, whose comparison,
delays and poison are the model's reading (log entry 74). -/
def Obligations.MatrixTiming : Prop := RowsInTime ∧ ChecksumLane

/-- R358, R361, R362, R364: the latch copies every counter into its shadow at the trigger's time, and not before: those of a die as they stand, those of a cell
as its last cycle left them. A sampled cell writes a SAMPLE record of a context; that it stands in HBM in the step in which it enters the trace queue is
the model's reading (log entry 94). -/
def Obligations.LatchAndSample : Prop :=
  (∀ s : State, s.dev.latchDue = true → s.dev.trgT.toNat ≤ s.dev.time.toNat → NoRecords s →
    ∃ t, exec .triggerLatch s = .next t ∧ SameMem s t ∧
      t.dev = { s.dev with latchDue := false, trgLast := s.dev.trgT, trgNum := s.dev.trgNum + 1, trgClear := false } ∧ t.ctxs = s.ctxs ∧
      (∀ d, (t.die d).pmh = (s.die d).pmd) ∧
      ∀ n q, find? s.cells n = some q → find? t.cells n = some { q with pmh := q.pmcEnd, slipH := #v[slipAt s n 0, slipAt s n 1] }) ∧
  (∀ s : State, s.dev.latchDue = false ∨ s.dev.time.toNat < s.dev.trgT.toNat → exec .triggerLatch s = .next s) ∧
  (∀ s : State, let c := s.ev.ctx
    let q := s.cell c.cell
    let d := s.die (dieOf c.cell)
    let x := s.cx c
    let base := (fld d.loess 16 24 : BitVec 24).toNat * 65536
    let size := 2 ^ (fld d.loess 0 6 : BitVec 6).toNat
    let due := q.cyc.toNat % 2 ^ (8 + (fld q.trcCtl 8 4 : BitVec 4).toNat) = 0 ∧ c.slot ∉ q.sampled
    s.Inv → s.resident c = true → c.slot < 2 → c.cell < 1024 →
    (¬due → exec .sampleRecord s = .next s) ∧
    (due → q.traceN < 32 → q.traceLost = 0 → q.trcCtl.getLsbD 17 = true → q.trcCtl.getLsbD c.slot = true → d.loess.getLsbD 6 = true →
      ∃ t r, exec .sampleRecord s = .next t ∧ Stored s t (base + d.wptr.toNat % size) (leBytes 64 r) ∧ r < 2 ^ 512 ∧
        (t.die (dieOf c.cell)).wptr = d.wptr + 64 ∧ t.ctxs = s.ctxs ∧ r % 16 = 1 ∧ r / 2 ^ 12 % 2 ^ 10 = c.cell ∧ r / 2 ^ 22 % 2 = c.slot ∧
        r / 2 ^ 32 % 2 ^ 32 = x.seq % 2 ^ 32 ∧ r / 2 ^ 64 % 2 ^ 64 = s.dev.time.toNat ∧ r / 2 ^ 192 % 2 ^ 64 = x.pc.toNat ∧
        r / 2 ^ 320 % 2 ^ 64 = x.slip.toNat) ∧
    (due → q.trcCtl.getLsbD 17 = false ∨ q.trcCtl.getLsbD c.slot = false ∨ d.loess.getLsbD 6 = false →
      exec .sampleRecord s = .next (s.setCell c.cell { q with sampled := q.sampled ++ [c.slot] })))

/-- R175, R183, R310: the C marker of an IEND rotates the delay registers that have a next value and records the counters for its S marker. The S marker
commits its instant: the buffered bits reach the scratch bytes, its pending elements become present and CCTR takes the recorded counters. An
IEND of a filling iteration commits nothing (R180). -/
def Obligations.MarkersIssue : Prop :=
  (∀ (s : State) (e : Entry) (rest : List Entry), let c := s.ev.ctx
    let x := s.cx c
    s.resident c = true → x.qC = e :: rest → e.kind = .cMark → e.dataBad = false →
    ∃ t y, exec .delayRotation s = .next t ∧ SameMem s t ∧ find? t.ctxs c = some y ∧ (∀ d, d ≠ c → find? t.ctxs d = find? s.ctxs d) ∧
      y.qC = rest ∧ y.v = x.v ∧ y.s = x.s ∧ y.g = x.g ∧ y.qL = x.qL ∧
      (∀ n : Fin 16, y.d[n] = if x.d[n].valid then
        { x.d[n] with held := x.d[n].next, heldTag := x.d[n].nextTag, f := x.d[n].nextF, valid := false } else x.d[n]) ∧
      y.qS = x.qS.map fun m => if m.kind = .sMark ∧ m.id = e.id then { m with ctrs := x.g.toList.map (·.ctr) } else m) ∧
  (∀ (s : State) (e : Entry) (rest : List Entry) (p : Span), let c := s.ev.ctx
    let x := s.cx c
    s.Inv → s.resident c = true → x.qS = e :: rest → e.kind = .sMark → e.opened = true → e.dataBad = false → (∀ m ∈ x.qC, m.kind = .cMark → m.id ≠ e.id) →
    (∀ m ∈ x.qL ++ x.qS, e.id ≤ m.id) → (∀ l ∈ x.loads, e.id ≤ l.id) → (∀ l ∈ x.stores, e.id ≤ l.id) → (∀ l ∈ x.scalars, e.id < l.id) →
    (∀ k ∈ s.copies, k.ctx = c → k.orphan = false → e.id ≤ k.eid) →
    (∀ q ∈ x.port.toList, ∀ n, q.write = true → q.chan = some n → ∀ y ∈ (s.chan ⟨x.pid, n⟩).transit, y.pend ≠ some e.inst) →
    (s.cell c.cell).trcCtl = 0 → (s.part x.pid).record = none → x.replay = none → x.commits.filter (·.inst = e.inst) = [p] → p.addr + 512 ≤ 0x400000 →
    e.ctrs.length = 16 →
    ∃ t y, exec .commit s = .next t ∧ find? t.ctxs c = some y ∧ y.qS = rest ∧ y.commits = x.commits.filter (·.inst ≠ e.inst) ∧
      y.instants = x.instants.filter (· ≠ e.inst) ∧ (∀ n : Fin 16, y.g[n] = { x.g[n] with cctr := e.ctrs.getD n.val 0 }) ∧
      (∀ q ∈ x.port.toList, ∀ n, q.write = true → q.chan = some n →
        (t.chan ⟨x.pid, n⟩).marks.filter (·.pend.isSome) =
          (s.chan ⟨x.pid, n⟩).marks.filter fun m => decide (m.pend.isSome = true ∧ m.pend ≠ some e.inst)) ∧
      (∀ j, j < 512 → let k := scratchKey c.cell (p.addr + j)
        t.byte k = (s.byte k &&& ~~~(fld p.msk (8 * j) 8)) ||| (fld p.data (8 * j) 8 &&& fld p.msk (8 * j) 8)) ∧
      ∀ k, (k < scratchKey c.cell p.addr ∨ scratchKey c.cell (p.addr + 512) ≤ k) → t.byte k = s.byte k) ∧
  (∀ (s : State) (e : Entry) (rest : List Entry), let c := s.ev.ctx
    let x := s.cx c
    s.resident c = true → x.qS = e :: rest → e.kind = .sMark → commitReady s c e = true → e.opened = false → e.dataBad = false →
    ∃ t, exec .commit s = .next t ∧ SameMem s t ∧ t.chans = s.chans ∧ find? t.ctxs c = some { x with qS := rest, acted := x.acted ||| 8 } ∧
      ∀ d, d ≠ c → find? t.ctxs d = find? s.ctxs d)

/-! ### Launches -/

namespace Sys2Proof.Claims

/-- LAUNCH and LAUNCHI of record address s[A], with the address of the group count. -/
def launchForms (d a b : BitVec 6) (ua ub : Bool) (k : Tag) : List (Instr × List (BitVec 6 × Bool)) :=
  [(.launch ⟨k, d, a, ua⟩, [(a, ua)]), (.launchi ⟨k, d, a, ua, b, ub⟩, [(a, ua), (b, ub)])]

/-- A page on this device, stored uncompressed, that partition `pid` translates `va` to. -/
def PageAt (s : State) (pid : Nat) (va : Word) (pa : Nat) : Prop :=
  ∃ l, walk s pid va .read = .ok l ∧ l.far s = false ∧ l.entry.cmp = 0 ∧ l.pa = pa

/-- The launch that a controller makes of a record with one die and no binding block. -/
def launchOf (s : State) (pid ctrl : Nat) (r : BitVec 512) (cnt : Option Word) (hd : BitVec 512) : Launch :=
  { pid := pid, ctrl := ctrl, order := s.dev.nextOrder, cls := Rec.cls r, record := r, countAt := cnt
    groups := if cnt = none then some 1 else none, hdr := hd }

end Sys2Proof.Claims

/-- R238, R239, R312 to R316, R323: LAUNCH and LAUNCHI, once the earlier accesses have performed. An accepted launch is pending under the partition's next
sequence number, which the destination receives; one whose record is ill-formed counts as retired, and admission halts. -/
def Obligations.LaunchesAccepted : Prop :=
  (∀ (k : Tag) (d a b : BitVec 6) (ua ub : Bool), ∀ x ∈ launchForms d a b ua ub k, ∀ (s : State) (c : Ctx) (B : List (Byte × Bool)), let i := x.1
    let va := readS s c a
    let cnt : Option Word := if x.2.length = 2 then some (readS s c b) else none
    let r := BitVec.ofNat 512 (leNat (B.map (·.1)))
    let p := s.part c.pid
    let n := p.nextSeq
    let ctrl := dieOf s.cur.cell
    let y := writeS (killS c x.2) d (BitVec.ofNat 64 n) k c.handler
    Present s k c → (∀ z ∈ x.2, ReadableS c k z.1) → FreeS c d → va &&& 63 = 0 → (cnt.getD 0) &&& 3 = 0 → Performed s c →
    readVirt (s.setMe c) s.cur .read va 64 = .ok B → hbmBad va B = none → n < 2 ^ 48 →
    (∀ l : Launch, examine (s.setMe c) c.pid ctrl r cnt = (l, none) → pendingCount s l.ctrl < (if l.ctrl = 4 then 64 else 256) → (∀ q ∈ Rec.preds r, q ≠ 0 ∧ q < n) →
      Goes s i { s.setPart c.pid { p with nextSeq := n + 1 } with
        dev := { s.dev with nextOrder := s.dev.nextOrder + 1 }, launches := s.launches ++ [{ l with seq := n }] } y) ∧
    (Rec.ok r = false → pendingCount s ctrl < 64 → ∃ t l, exec i s = .next t ∧ t.ctxs = (goOn s y).ctxs ∧ l.pid = c.pid ∧ l.seq = n ∧ l.phase = .retired ∧
      t.launches = (s.launches.filter fun z => z.pid ≠ c.pid ∨ z.seq ≠ n) ++ [l] ∧ (t.part c.pid).halted = true)) ∧
  (∀ (s : State) (pid ctrl pa : Nat) (r : BitVec 512) (cnt : Option Word), let hd := BitVec.ofNat 512 (numAt s pa 64)
    Rec.ok r = true → Rec.d r = 1 → Rec.bind r = 0 → PageAt s pid (Rec.khdr r) pa → CleanAt s pa 64 → Hdr'.ok hd = true → Hdr'.hasDies hd = false →
    examine s pid ctrl r cnt = (launchOf s pid ctrl r cnt hd, none))

namespace Sys2Proof.Claims

/-- The launch that an event of launches names. -/
def named? (s : State) : Option Launch := s.launches.find? fun l => l.pid == s.ev.n && l.seq == s.ev.m

/-- The state with launch `l` in the place of the one with its partition and number. -/
def relaunch (s : State) (l : Launch) : State :=
  { s with launches := s.launches.map fun x => if x.pid = l.pid ∧ x.seq = l.seq then l else x }

/-- The context of position (x, y) of a group of launch `l` that has been placed at `p` (R322). -/
def Admitted (l : Launch) (p : Place) (x y : Nat) (z : Ctx) : Prop :=
  let r := l.record
  z.pid = l.pid ∧ z.seq = l.seq ∧ z.phase = .image ∧ z.pc = fld l.hdr 0 64 ∧ z.entry = z.pc ∧ z.s[1].val = Rec.param r ∧
    z.s[2].val = BitVec.ofNat 64 (x + Rec.w r * y) ∧ z.s[3].val = BitVec.ofNat 64 l.placed ∧
    (∀ n : Fin 64, n.val = 0 ∨ 4 ≤ n.val → z.s[n] = {}) ∧ (∀ n : Fin 32, z.v[n] = {}) ∧ (∀ n : Fin 8, z.m[n] = 0) ∧
    (∀ n : Fin 16, z.a[n] = {} ∧ z.d[n] = {} ∧ z.g[n] = {}) ∧ (∀ n : Fin 6, z.looptab[n] = (fld l.hdr (64 + 8 * n.val) 8 : BitVec 8).setWidth 64) ∧
    z.x = x ∧ z.y = y ∧ z.z = 0 ∧ z.width = Rec.w r ∧ z.height = Rec.h r ∧ z.depth = 1 ∧ z.zdies = [p.die] ∧
    z.basei = Rec.basei r ∧ z.det = Rec.det r ∧ z.chk = Rec.chk r ∧ z.layoutBase = Rec.layout r ∧ z.preds = Rec.preds r ∧
    z.qL = [] ∧ z.qC = [] ∧ z.qS = [] ∧ z.iopen = false ∧ z.loops = [] ∧ z.trap = {}

end Sys2Proof.Claims

/-- R319, R320 to R325: the group count of a LAUNCHI; ageing, whose thresholds firmware sets and no CSR shows (the agenda's entry for it is the model's own: log
entry 5); and admission of the first launch, in the order of its controller, that a placement and every condition admit (the order of placements: log
entry 84). -/
def Sys2Proof.Claims.LaunchesPlaced : Prop :=
  (∀ (s : State) (l : Launch) (a : Word) (pa : Nat), named? s = some l → l.countAt = some a → l.groups = none → readyButCount s l = true →
    a.toNat % 4 = 0 → outOfRange a 4 = false → PageAt s l.pid a pa → CleanAt s pa 4 → (numAt s pa 4 ≤ 1 ∨ l.ports = []) →
    let g := numAt s pa 4
    (g ≠ 0 → exec .launchiCountRead s = .next (relaunch s { l with groups := some g })) ∧
    (g = 0 → exec .launchiCountRead s = .next (relaunch s { l with groups := some 0, phase := .retired }))) ∧
  (∀ (s : State) (l : Launch) (t0 : Word), named? s = some l → l.since = some t0 → eligible s l = true →
    let bound := if l.cls = 2 then s.dev.ageing2 else if l.cls = 3 then s.dev.ageing3 else 0
    (bound ≠ 0 → 1000 * bound ≤ (s.dev.time - t0).toNat →
      exec .launchAgeing s = .next (relaunch s { l with cls := l.cls - 1, since := some s.dev.time })) ∧
    (bound = 0 ∨ (s.dev.time - t0).toNat < 1000 * bound → exec .launchAgeing s = .next s)) ∧
  (∀ (s : State) (cls us : Nat) (rest : List Act), running s = true → s.agenda = .firmware (.ageing cls us) :: rest →
    ∃ t, step s = .next t ∧ SameMem s t ∧ t.ctxs = s.ctxs ∧ t.launches = s.launches ∧ t.dev = { s.dev with
      ageing2 := if cls = 2 then us else s.dev.ageing2, ageing3 := if cls = 3 then us else s.dev.ageing3 }) ∧
  (∀ (s : State) (a b n : Nat), readCsr { s with dev := { s.dev with ageing2 := a, ageing3 := b } } n = readCsr s n) ∧
  (∀ (s : State) (pre post : List Launch) (l : Launch) (p : Place), candidates s s.ev.n = pre ++ l :: post →
    (∀ y ∈ pre, placement s y = none ∨ ∃ ps, placement s y = some ps ∧ admissible s y ps = .waits) →
    placement s l = some [p] → admissible s l [p] = .ok → l.ports = [] → Rec.d l.record = 1 →
    p.row + Rec.h l.record ≤ 12 → p.col + Rec.w l.record ≤ 12 →
    let at' (x y : Nat) : CtxId := ⟨cellAt p.die (p.row + y) (p.col + x), p.slot⟩
    ∃ t, exec .groupAdmission s = .next t ∧ SameMem s t ∧
      (∀ x y, x < Rec.w l.record → y < Rec.h l.record → ∃ z, find? t.ctxs (at' x y) = some z ∧ Admitted l p x y z ∧
        ∀ b, b < 16 → l.bars.getLsbD b = true →
          let g := t.bar (clusterOf (at' x y).cell, b)
          g.owner = some l.pid ∧ l.seq ∈ g.users) ∧
      (∀ c, (∀ x y, x < Rec.w l.record → y < Rec.h l.record → c ≠ at' x y) → find? t.ctxs c = find? s.ctxs c) ∧
      t.launches = (relaunch s { l with
        placed := l.placed + 1, since := none, phase := if l.groups = some (l.placed + 1) then .running else .pending }).launches) ∧
  (∀ s : State, (∀ l ∈ candidates s s.ev.n, placement s l = none) → exec .groupAdmission s = .next s)

/-- R187, R322: the scratch image of an admitted context is copied, in one step (the model's choice: log entry 85), and the context then runs; the retirement tracker frees an entry, whose stores have then
performed, and a launch of which nothing is left retires. -/
def Sys2Proof.Claims.ImagesAndTracker : Prop :=
  (∀ (s : State) (l : Launch), let c := s.ev.ctx
    let x := s.cx c
    s.resident c = true → x.phase = .image → s.launches.find? (fun l => l.pid == x.pid && l.seq == x.seq) = some l →
    (Hdr'.slen l.hdr = 0 → exec .scratchImageLoaded s = .next (s.setCx c { x with phase := .running })) ∧
    (∀ leaf : Leaf, let k := imageCopy s c l
      0 < Hdr'.slen l.hdr → s.Inv → s.poison = [] → c.cell < Config.cells → Hdr'.soff l.hdr + Hdr'.slen l.hdr ≤ 0x400000 →
      (Hdr'.simg l.hdr).toNat % 4096 + Hdr'.slen l.hdr ≤ 4096 → (Hdr'.simg l.hdr).toNat < 2 ^ 56 →
      copyLeaf s k k.va = .ok leaf → leaf.far s = false → leaf.entry.cmp = 0 → leaf.pa + Hdr'.slen l.hdr ≤ Config.hbmEnd →
      ∃ t y, exec .scratchImageLoaded s = .next t ∧ find? t.ctxs c = some y ∧ Alike y { x with phase := .running } ∧
        (∀ d, d ≠ c → find? t.ctxs d = find? s.ctxs d) ∧
        (∀ j, j < Hdr'.slen l.hdr → t.byte (scratchKey c.cell (Hdr'.soff l.hdr + j)) = s.byte (leaf.pa + j)) ∧
        ∀ a, (∀ j, j < Hdr'.slen l.hdr → a ≠ scratchKey c.cell (Hdr'.soff l.hdr + j)) → t.byte a = s.byte a)) ∧
  (∀ (s : State) (e : Track) (rest : List Track), let n := s.ev.n
    (s.cell n).tracker = e :: rest → (s.cells.map (·.1)).Nodup →
    (∀ id p q, e = .copy id p q → ∀ k ∈ s.copies, k.id ≠ id) →
    ∃ t, exec .retirementTrackerFree s = .next t ∧ (t.cell n).tracker = rest ∧ t.ctxs = s.ctxs ∧
      (∀ id p q, e = .copy id p q → SameMem s t) ∧
      (∀ p q k st, e = .stores p q k [st] [] → t.mem = (perform s st.cells).mem) ∧
      ∀ l ∈ s.launches, l.phase = .running → (∃ g, l.groups = some g ∧ g ≤ l.placed) →
        (∀ y ∈ s.ctxs, y.2.pid ≠ l.pid ∨ y.2.seq ≠ l.seq) → (∀ y ∈ s.saved, y.2.ctx.pid ≠ l.pid ∨ y.2.ctx.seq ≠ l.seq) →
        (∀ y ∈ s.cells, ∀ u ∈ (if y.1 = n then rest else y.2.tracker),
          (∀ id p q, u = .copy id p q → p ≠ l.pid ∨ q ≠ l.seq) ∧ ∀ p q k st r, u = .stores p q k st r → p ≠ l.pid ∨ q ≠ l.seq) →
        { l with phase := .retired } ∈ t.launches)

/-- R187, R319 to R325: group counts, ageing, admission, scratch images and the retirement tracker. Firmware's agenda entry, the order of placements and the
copy of a whole image in one step are the model's (log entries 5, 84 and 85). -/
def Obligations.LaunchProgress : Prop := LaunchesPlaced ∧ ImagesAndTracker

/-! ### Words that are no instruction; pre-emption, stops, resumption and the deadlock detector -/

/-- R229 to R231, R335, R336: a word that is no instruction stops the context with its fault at its own address; one that a resident routine serves enters
that routine, whether its clock is present or not (a condition that cannot be evaluated counts as absent: log entry 17); such a word belongs to the C queue
or, with an extension opcode, to the S queue. One that stands behind other entries of its queue waits there and nothing later routes. A stopped context has left its slot; one whose nest
has issued stays until that has run to its end. -/
def Obligations.InvalidWords : Prop :=
  (∀ (w : Word) (s : State), s.resident s.cur = true → (∀ q, queueOfWord w = some q → s.me.queue q = []) →
    (decode w = .error .reservedField →
      exec (.invalidWord w) s = .next (fatalStop s s.cur s.me.pc w .reservedField {})) ∧
    (decode w = .error .illegalOpcode →
      exec (.invalidWord w) s = .next (fatalStop s s.cur s.me.pc w .illegalOpcode {}))) ∧
  (∀ w : Word, (decode w = .error .emulation → queueOfWord w = some .c) ∧ ∀ n, decode w = .error (.extension n) → queueOfWord w = some .s) ∧
  (∀ (w : Word) (s : State) (b : Bool) (c : Ctx) (start : Nat), s.resident s.cur = true →
    decode w = .error .emulation ∨ (∃ n, decode w = .error (.extension n) ∧ s.dev.extl.getLsbD n.toNat = true) →
    presence s.me (fld w 53 7) = .ok (b, c) ∨ ((∃ code i, presence s.me (fld w 53 7) = .error (.fatal code i)) ∧ b = false ∧ c = s.me) →
    (∀ q, queueOfWord w = some q → c.queue q = []) → c.trap.emu = false → (s.cell s.cur.cell).trcCtl = 0 →
    find? s.dev.routines (fld w 45 8) = some start →
    ∃ t, exec (.invalidWord w) s = .next t ∧ SameMem s t ∧ t.me = { c with
      trap := { c.trap with epc := c.pc + 8, cause := 0, addr := c.pc, info := w, emu := true }
      emuWord := w, emuPresent := b, waiting := none, emuLoops := c.loops, emuReact := c.react, loops := [], pc := BitVec.ofNat 64 start }) ∧
  (∀ (w : Word) (s : State) (q : Queue), decode w = .error .illegalOpcode → queueOfWord w = some q → s.me.queue q ≠ [] → (s.me.queue q).length < 32 →
    ∃ t e, exec (.invalidWord w) s = .next t ∧ SameMem s t ∧ e.stop = true ∧ e.err = some (.fatal .illegalOpcode {}) ∧ e.pc = s.me.pc ∧
      t.me = ({ s.me with nextId := s.me.nextId + 1, waiting := none } : Ctx).setQueue q (s.me.queue q ++ [e])) ∧
  (∀ (s : State) (c : CtxId) (pc w : Word) (code : Code) (i : Info) (nested : Bool),
    let t := fatalStop s c pc w code i nested
    ((∀ n, (s.cell c.cell).nest = some n → n.slot ≠ c.slot) → t.resident c = false) ∧
    (∀ n, (s.cell c.cell).nest = some n → n.slot = c.slot → ∃ y r, find? t.ctxs c = some y ∧ y.phase = .dying ∧ y.qL = [] ∧ y.qC = [] ∧ y.qS = [] ∧
      y.instants = [] ∧ y.stopped = some r ∧ r.pc = pc ∧ r.word = w ∧ r.code = code ∧ r.info = i ∧ r.nested = nested))

namespace Sys2Proof.Claims

/-- Context `x` of slot `c` has nothing in flight, its ports are unbound, and nothing records it. -/
def AtRest (s : State) (c : CtxId) (x : Ctx) : Prop :=
  find? s.ctxs c = some x ∧ x.phase = .running ∧ x.loads = [] ∧ x.scalars = [] ∧ x.stores = [] ∧ x.reissue = none ∧ (∀ p ∈ x.port.toList, p.chan = none) ∧
    (∀ k ∈ s.copies, k.ctx ≠ c) ∧ (s.part x.pid).record = none ∧
    ∃ q, find? s.cells c.cell = some q ∧ q.engine = [] ∧ q.nest = none ∧ q.trcCtl = 0

/-- The token FIFOs as a save finds them: those set aside, with what a hook has left in its own (the model's reading of R340: log entry 119). -/
def joined (x : Ctx) : Ctx :=
  match x.asideTok with
  | some f => { x with tok := Vector.ofFn fun i => ⟨f[i].avail + x.tok[i].avail, f[i].held + x.tok[i].held, 0⟩, asideTok := none }
  | none => x

/-- The registers of a context as its save finds them: the request is gone, the entries and tokens set aside stand in the queues again (R340). -/
def asSaved (x : Ctx) : Ctx :=
  { joined x with qL := x.aside.1 ++ x.qL, qC := x.aside.2.1 ++ x.qC, qS := x.aside.2.2 ++ x.qS, aside := ([], [], []), saveNow := false, forced := false
                  afterTret := false, waiting := none, trap := { x.trap with pend := false } }

/-- The state that writing the save area leaves. -/
def areaOf (s : State) (c : CtxId) (x : Ctx) : Except (Word × WalkFail × State) State :=
  let s1 := s.setCx c (asSaved x)
  writeArea s1 c (imageArea s1 c)

/-- In `t` context `x` of slot `c` has been saved, with its area written as in `u`: the slot is free, the save holds its registers, its TLBs are empty and
it has acknowledged every invalidation (R340, R342, R347). -/
def SavedIn (s t u : State) (c : CtxId) (x : Ctx) (watchdog : Bool) : Prop :=
  t.resident c = false ∧ t.mem = u.mem ∧ (∀ d, d ≠ c → find? t.ctxs d = find? s.ctxs d) ∧
    ∃ v, (c, v) ∈ t.saved ∧ v.ctx = { asSaved x with tlb := [], stlb := .replicate 18 [], inval := [], pendCount := 0 } ∧ v.copies = [] ∧ v.nest = none ∧ v.resume = false ∧
      v.forWatchdog = watchdog ∧ v.pinned = (imageArea (s.setCx c (asSaved x)) c).isNone

/-- The PREEMPT hook would run (R340). -/
def HookRuns (x : Ctx) : Prop := x.trap.hook = true ∧ x.handler = false ∧ x.trap.base.getLsbD 0 = true

/-- A pre-emption begins: the entries and the token FIFOs are set aside, the request is gone, and what the save will be is noted (R340). -/
def begun (x : Ctx) (sub : BitVec 8) (watchdog stop : Bool) : Ctx :=
  { x with aside := (x.qL, x.qC, x.qS), qL := [], qC := [], qS := [], asideTok := some x.tok, tok := .replicate 4 {}, asideAt := x.nextId
           forcedSub := sub, forced := watchdog, stopSave := stop, afterTret := false
           waiting := none, trap := { x.trap with pend := false } }

/-- The PREEMPT hook begins: the handler of code 3 runs (R332, R340). -/
def inHook (x : Ctx) (sub : BitVec 8) : Ctx := inHandler (begun x sub false false) x.pc 0 3 sub 0 0

/-- The save begins without the hook; where the hook is on and no handler is there, the trap registers say what it would have found (R332). -/
def unhooked (x : Ctx) (sub : BitVec 8) : Ctx :=
  let y := begun x sub false false
  if x.trap.hook = true ∧ x.handler = false then
    { y with trap := { y.trap with epc := x.pc, cause := 0#45 ++ 0#3 ++ sub ++ 3#8, addr := 0, info := 0 } }
  else y

/-- The context is at a routing boundary outside instants and handlers, and no save has begun (R339). -/
def AtBoundary (x : Ctx) : Prop := x.iopen = false ∧ x.handler = false ∧ x.saveNow = false ∧ x.trap.preh = false

/-- The context is at a pre-emption point: such a boundary, or the one after a handler's TRET (R339), also where that lies inside an open instant (the
model's reading: log entry 27). -/
def AtPoint (x : Ctx) : Prop := (x.iopen = false ∨ x.afterTret = true) ∧ x.handler = false ∧ x.saveNow = false ∧ x.trap.preh = false

end Sys2Proof.Claims

/-- R339 to R343, R346, R348, R367: a request; pre-emption at a boundary and when its bound expires, with the hook and without; the save that follows the hook;
precise stops; the watchdog of invalidation; and resumption. The point after a TRET inside an open instant, with SUB 1, is the model's reading (log
entry 27). -/
def Obligations.Preemption : Prop :=
  (∀ s : State, exec .firmwarePreemptionRequest s = .next { s with ctxs := s.ctxs.map fun y =>
    (y.1, if y.2.pid = s.ev.n ∧ y.2.saveNow = false ∧ y.2.trap.preh = false then { y.2 with trap := { y.2.trap with pend := true } } else y.2) }) ∧
  (∀ (s : State) (x : Ctx), let c := s.ev.ctx
    let sub : BitVec 8 := if x.iopen then 1 else 0
    AtRest s c x → x.trap.pend = true → AtPoint x →
    (HookRuns x → exec .preemptionTake s = .next (s.setCx c (inHook x sub))) ∧
    (¬ HookRuns x → ∀ u, areaOf s c (unhooked x sub) = .ok u → ∃ t, exec .preemptionTake s = .next t ∧ SavedIn s t u c (unhooked x sub) false)) ∧
  (∀ (s : State) (x : Ctx), let c := s.ev.ctx
    AtRest s c x → x.saveNow = true → x.qL = [] → x.qC = [] → x.qS = [] → ∀ u, areaOf s c x = .ok u →
    ∃ t, exec .preemptionTake s = .next t ∧ SavedIn s t u c x x.forced) ∧
  (∀ (s : State) (x : Ctx), let c := s.ev.ctx
    AtRest s c x → x.trap.pend = true → x.saveNow = false → x.trap.preh = false →
    (HookRuns x → exec .preemptBoundExpiry s = .next (s.setCx c (inHook x 1))) ∧
    (¬ HookRuns x → ∀ u, areaOf s c (unhooked x 1) = .ok u →
      ∃ t, exec .preemptBoundExpiry s = .next t ∧ SavedIn s t u c (unhooked x 1) false)) ∧
  (∀ (s : State) (x : Ctx), let c := s.ev.ctx
    let y := begun { x with stopReq := false, replay := none } 0 false true
    AtRest s c x → x.stopReq = true → AtBoundary x → ∀ u, areaOf s c y = .ok u →
    ∃ t, exec .preciseStop s = .next t ∧ SavedIn s t u c y false) ∧
  (∀ (s : State) (x : Ctx), let c := s.ev.ctx
    let y := begun x 1 true false
    AtRest s c x → x.pendCount ≠ 0 → x.saveNow = false → x.trap.preh = false → ∀ u, areaOf s c y = .ok u →
    ∃ t, exec .invalidationWatchdogExpiry s = .next t ∧ SavedIn s t u c y true) ∧
  (∀ (s : State) (v : Saved), let c := s.ev.ctx
    s.saved = [(c, v)] → v.resume = true → v.pinned = true → s.resident c = false → v.nest = none → v.nestCmd = none →
    (∀ p ∈ v.ctx.port.toList, p.chan = none) → (s.cell c.cell).trcCtl = 0 →
    ∃ t, exec .contextResume s = .next t ∧ SameMem s t ∧ t.saved = [] ∧ t.copies = s.copies ++ v.copies.map (fun (k : CopyOp) => { k with held := [] }) ∧
      (∃ y, find? t.ctxs c = some y ∧ y = { v.ctx with reissue := none, tlb := y.tlb, stlb := y.stlb, inval := [], pendCount := 0 } ∧
        ∀ e, e ∈ y.tlb ↔ e ∈ v.ctx.tlb ∧ e.outside v.ctx.inval = true) ∧ (t.cell c.cell).icache = [] ∧
      ∀ d, d ≠ c → find? t.ctxs d = find? s.ctxs d)

/-- R120 to R122: the detector does nothing until it fires; it then grows the smallest full channel's Silt extent to max(2C, n) slots at the lowest free range
of the pool, or, where no channel is full, stops every context of the partition with CHANNEL_DEADLOCK. The order of the report and the stops, the context's
own PC and the word 0 are the model's reading (log entry 63). -/
def Obligations.Deadlock : Prop :=
  (∀ s : State, detectorFires s s.ev.n = false → exec .deadlockDetectorFire s = .next s) ∧
  (∀ (s : State) (i : ChanId) (a : Nat), let ch := s.chan i
    let n := max (2 * ch.c) ch.n
    i.pid = s.ev.n → detectorFires s s.ev.n = true → smallest s (fullChans s s.ev.n) = some i → ch.silt = 0 → n ≤ 2 ^ 24 →
    extentBytes ch n ≤ 4096 * (fld (s.part i.pid).siltLim 32 32 : BitVec 32).toNat → freeRange s i.pid (extentBytes ch n) = some a →
    ∃ t, exec .deadlockDetectorFire s = .next t ∧
      t.chan i = { ch with
        sbase := BitVec.ofNat 64 a, slog := Nat.log2 n, shead := 0, stail := 0, grown := if ch.grown = 255 then 255 else ch.grown + 1 } ∧
      ∀ c x, find? t.ctxs c = some x → x.pid = i.pid → x.blocked = 0) ∧
  (∀ (s : State) (c : CtxId) (x : Ctx), detectorFires s s.ev.n = true → fullChans s s.ev.n = [] → partChans s s.ev.n = [] →
    (s.ctxs.filter fun y => y.2.pid = s.ev.n) = [(c, x)] → find? s.ctxs c = some x →
    exec .deadlockDetectorFire s = .next (fatalStop (hostEvent s s.ev.n 3 0 0 0 0) c x.pc 0 .channelDeadlock {}))

/-! ### Host commands -/

namespace Sys2Proof.Claims

/-- The commands with their operation codes (R375). -/
def cmds : List (Nat × Instr) :=
  [(1, .cmdLaunch), (2, .cmdTable), (3, .cmdTrigger), (4, .cmdRecord), (5, .cmdReplay), (6, .cmdPreempt), (7, .cmdResume), (8, .cmdStop),
   (9, .cmdDiscard), (10, .cmdReset), (11, .cmdClass), (12, .cmdDump), (13, .cmdConfig), (14, .cmdLoess), (15, .cmdAttest)]

/-- Where a command's completion record goes in HBM, and the record (R375). -/
def recordAt (c : Command) : Nat := Cmd.field c 8 8 % 2 ^ 48
def recordOf (c : Command) (st res : Nat) : List Byte := leBytes 4 (Cmd.tag c) ++ [BitVec.ofNat 8 st, 0, 0, 0] ++ leBytes 8 res

/-- The completion record of a command goes to this device's HBM. -/
def Reachable (s : State) (c : Command) : Prop :=
  Cmd.field c 8 8 / 2 ^ 48 = s.dev.devNum.toNat ∧ recordAt c + 16 ≤ Config.hbmEnd

/-- Command `c` of operation `n` arrives at the port; its partition has no other command. -/
def Arrives (s : State) (n : Nat) (c : Command) : Prop :=
  s.Inv ∧ s.ev.flag = false ∧ c = Cmd.withOp s.ev.cmd n ∧ (s.part (Cmd.pid c)).ordered = [] ∧ (s.part (Cmd.pid c)).unordered = [] ∧ Reachable s c

/-- The partition with the command in its sequence. -/
def queued (s : State) (c : Command) : State := s.setPart (Cmd.pid c) { s.part (Cmd.pid c) with ordered := [{ cmd := c }] }

/-- No command of the partition is left. -/
def Idle (t : State) (c : Command) : Prop := (t.part (Cmd.pid c)).ordered = [] ∧ (t.part (Cmd.pid c)).unordered = []

/-- The command is done: its record, with status `st` and result `res`, is all that memory holds beyond what it held. -/
def Done (s t : State) (c : Command) (st res : Nat) : Prop := Stored s t (recordAt c) (recordOf c st res) ∧ Idle t c

/-- The record stands in memory. -/
def Told (t : State) (c : Command) (st res : Nat) : Prop :=
  (∀ j (h : j < (recordOf c st res).length), t.byte (recordAt c + j) = (recordOf c st res)[j]) ∧ Idle t c

/-- The rest of the machine is as before. -/
def SameRest (s t : State) : Prop :=
  t.ctxs = s.ctxs ∧ t.saved = s.saved ∧ t.launches = s.launches ∧ t.chans = s.chans ∧ t.copies = s.copies ∧ t.cells = s.cells ∧ t.bars = s.bars ∧
    t.islands = s.islands

/-- The cell and slot that a command names: all of the partition, or one (R375). -/
def naming (c : Command) (i : CtxId) : Prop :=
  (Cmd.field c 16 2 = 0xFFFF ∧ Cmd.field c 18 1 = 0xFF) ∨ (Cmd.field c 16 2 = i.cell ∧ Cmd.field c 18 1 = i.slot ∧ i.cell < Config.cells ∧ i.slot < 2)

end Sys2Proof.Claims

/-- R315, R317, R326, R338, R360, R370, R371, R375, R376, R379, R388: a command with a reserved byte set does nothing; the commands that complete at once. The
model's readings: a CLASS that names no launch completes with OK (log entry 89), the header of the host's dump has LOOP 7 (log entry 90), and CONFIG does
not check where the event queue stands (log entry 91). -/
def Obligations.HostCommands : Prop :=
  (∀ x ∈ cmds, ∀ (s : State) (c : Command), Arrives s x.1 c → Cmd.reservedZero c = false →
    ∃ t, exec x.2 s = .next t ∧ Done s t c 2 0 ∧ SameRest s t ∧ t.dev = s.dev ∧ t.dies = s.dies) ∧
  (∀ (s : State) (c : Command), Arrives s 1 c → Cmd.reservedZero c = true →
    let p := s.part (Cmd.pid c)
    let die := Cmd.field c 16 1
    let a := Cmd.word c 24
    (p.configured = false → ∃ t, exec .cmdLaunch s = .next t ∧ Done s t c 2 0 ∧ SameRest s t) ∧
    (∀ (B : List (Byte × Bool)) (l : Launch), p.configured = true → die < 4 ∨ die = 7 → a &&& 63 = 0 →
      ctrlRead (queued s c) (Cmd.pid c) a 64 = .ok B → (∀ b ∈ B, b.2 = false) →
      examine (queued s c) (Cmd.pid c) (if die = 7 then 4 else die) (BitVec.ofNat 512 (leNat (B.map (·.1)))) none = (l, none) →
      pendingCount s l.ctrl < (if l.ctrl = 4 then 64 else 256) → p.nextSeq < 2 ^ 48 → (∀ q ∈ Rec.preds (BitVec.ofNat 512 (leNat (B.map (·.1)))), q ≠ 0 ∧ q < p.nextSeq) →
      ∃ t, exec .cmdLaunch s = .next t ∧ Done s t c 0 p.nextSeq ∧ t.ctxs = s.ctxs ∧ t.launches = s.launches ++ [{ l with seq := p.nextSeq }] ∧
        (t.part (Cmd.pid c)).nextSeq = p.nextSeq + 1)) ∧
  (∀ (s : State) (c : Command), Arrives s 4 c → Cmd.reservedZero c = true →
    let base := Cmd.field c 24 8
    let cap := Cmd.field c 32 8
    (Cmd.field c 16 1 = 0 → ∃ t, exec .cmdRecord s = .next t ∧ Done s t c 0 0 ∧ SameRest s t ∧ (t.part (Cmd.pid c)).record = none) ∧
    (Cmd.field c 16 1 = 1 → base + cap ≤ Config.hbmEnd → ∃ t, exec .cmdRecord s = .next t ∧ Done s t c 0 0 ∧ SameRest s t ∧
      (t.part (Cmd.pid c)).record = some { base := base, cap := cap })) ∧
  (∀ (s : State) (c : Command) (i : CtxId) (v : Saved), Arrives s 9 c → Cmd.reservedZero c = true → naming c i → s.saved = [(i, v)] →
    v.ctx.pid = Cmd.pid c → v.ctx.instants = [] → v.ctx.commits = [] → (∀ p ∈ v.ctx.port.toList, p.chan = none) → s.launches = [] →
    ∃ t, exec .cmdDiscard s = .next t ∧ Done s t c 0 0 ∧ t.saved = [] ∧ t.ctxs = s.ctxs ∧ t.copies = s.copies) ∧
  (∀ (s : State) (c : Command), Arrives s 11 c → Cmd.reservedZero c = true → Cmd.field c 22 1 ≤ 3 →
    ∃ t, exec .cmdClass s = .next t ∧ Done s t c 0 0 ∧ t.ctxs = s.ctxs ∧
      t.launches = s.launches.map fun l => if l.pid = Cmd.pid c ∧ l.seq = Cmd.field c 16 6 ∧ l.phase = .pending ∧ l.cls ≠ Cmd.field c 22 1 then
        { l with cls := Cmd.field c 22 1, since := none } else l) ∧
  (∀ (s : State) (c : Command) (i : CtxId) (v : Saved), Arrives s 12 c → Cmd.reservedZero c = true → naming c i → s.saved = [(i, v)] →
    v.ctx.pid = Cmd.pid c →
    let o := Cmd.field c 24 8 % 2 ^ 48
    let hdr := dumpHeader 64 64 false false 0 {}
    Cmd.word c 24 &&& 63 = 0 → Cmd.field c 24 8 / 2 ^ 48 = s.dev.devNum.toNat → o + 64 ≤ Config.hbmEnd → numAt s (o + 8) 8 = 0 →
    (recordAt c + 16 ≤ o ∨ o + 64 ≤ recordAt c) →
    ∃ t, exec .cmdDump s = .next t ∧ Told t c 0 0 ∧ SameRest s t ∧ (∀ j (h : j < hdr.length), t.byte (o + 16 + j) = hdr[j]) ∧
      ∀ k, (k < o + 16 ∨ o + 64 ≤ k) → (k < recordAt c ∨ recordAt c + 16 ≤ k) → t.byte k = s.byte k) ∧
  (∀ (s : State) (c : Command), Arrives s 13 c → Cmd.reservedZero c = true →
    let area := Cmd.word c 24
    let cap := Cmd.field c 40 4
    (area.toNat % 0x800000 = 0 → (∃ n, cap = 2 ^ n) → ∃ t, exec .cmdConfig s = .next t ∧ Done s t c 0 0 ∧ SameRest s t ∧
      t.part (Cmd.pid c) = { s.part (Cmd.pid c) with configured := true, areaBase := area, evBase := Cmd.word c 32, evCap := cap, evNum := 0 }) ∧
    (area.toNat % 0x800000 ≠ 0 ∨ (∀ n, cap ≠ 2 ^ n) → ∃ t, exec .cmdConfig s = .next t ∧ Done s t c 2 0 ∧ SameRest s t)) ∧
  (∀ (s : State) (c : Command), Arrives s 14 c → Cmd.reservedZero c = true →
    let die := Cmd.field c 16 1
    let w := Cmd.word c 24 &&& 0x000000FFFFFF007F
    let size := w.toNat % 64
    let base := w.toNat / 65536 * 65536
    die < 4 → 16 ≤ size → size ≤ 34 → base % 2 ^ size = 0 → base + 2 ^ size ≤ Config.hbmEnd →
    let d := s.die die
    ∃ t, exec .cmdLoess s = .next t ∧ Done s t c 0 0 ∧ SameRest s t ∧
      t.die die = (if w.getLsbD 6 = true ∧ d.loess.getLsbD 6 = false then { d with loess := w, wptr := 0, lost := 0 } else { d with loess := w })) ∧
  (∀ (s : State) (c : Command), Arrives s 15 c → Cmd.reservedZero c = true →
    (s.dev.leaf < 2 ^ 20 → ∃ t, exec .cmdAttest s = .next t ∧ Told t c 0 0 ∧ SameRest s t ∧ t.dev = { s.dev with leaf := s.dev.leaf + 1 }) ∧
    (2 ^ 20 ≤ s.dev.leaf → ∃ t, exec .cmdAttest s = .next t ∧ Done s t c 7 0 ∧ SameRest s t ∧ t.dev = s.dev))

namespace Sys2Proof.Claims

/-- The commands of partition `n` move on, and `r` alone is in progress, in its sequence. -/
def InSequence (s : State) (n : Nat) (r : CmdRun) : Prop :=
  s.Inv ∧ s.ev.flag = true ∧ s.ev.n = n ∧ Cmd.pid r.cmd = n ∧ r.started = true ∧ (s.part n).ordered = [r] ∧ (s.part n).unordered = [] ∧ Reachable s r.cmd

/-- The same for a command outside the sequence. -/
def BesideSequence (s : State) (n : Nat) (r : CmdRun) : Prop :=
  s.Inv ∧ s.ev.flag = true ∧ s.ev.n = n ∧ Cmd.pid r.cmd = n ∧ r.started = true ∧ (s.part n).ordered = [] ∧ (s.part n).unordered = [r] ∧ Reachable s r.cmd

/-- The command has started and goes on, in its sequence or beside it. -/
def Goes1 (s t : State) (c : Command) (ordered : Bool) : Prop :=
  SameMem s t ∧ ∃ r, r.cmd = c ∧ r.started = true ∧ (t.part (Cmd.pid c)).ordered = (if ordered then [r] else []) ∧
    (t.part (Cmd.pid c)).unordered = (if ordered then [] else [r])

/-- No context of partition `n` has an invalidation to acknowledge (R346, R348). -/
def Acknowledged (s : State) (n : Nat) : Prop :=
  (∀ y ∈ s.ctxs, y.2.pid = n → y.2.pendCount = 0) ∧ ∀ v ∈ s.saved, v.2.ctx.pid = n → v.2.forWatchdog = false

/-- The range that a TABLE command invalidates (R375). -/
def rangeOf (c : Command) : Nat × Nat := if Cmd.field c 48 8 = 2 ^ 64 - 1 then (0, 2 ^ 56) else (Cmd.field c 40 8 % 2 ^ 56, Cmd.field c 48 8)

/-- The invalidation of a TABLE command has been posted (R346): the serial is set, context `x` of slot `d` has it to acknowledge, and no TLB of a cell or
a die holds what it covers. -/
def Posted (s t : State) (c : Command) (d : CtxId) (x : Ctx) : Prop :=
  let S := BitVec.ofNat 16 (Cmd.field c 16 2)
  SameMem s t ∧ (t.part (Cmd.pid c)).serial = S ∧
    find? t.ctxs d = some { x with pendSerial := S, pendCount := x.pendCount + 1, inval := x.inval ++ [rangeOf c] } ∧
    (∀ n e, e ∈ (t.cell n).tlb ↔ e ∈ (s.cell n).tlb ∧ (e.1 = Cmd.pid c → e.2.outside [rangeOf c] = true)) ∧
    ∀ n e, e ∈ (t.die n).tlb ↔ e ∈ (s.die n).tlb ∧ (e.1 = Cmd.pid c → e.2.outside [rangeOf c] = true)

end Sys2Proof.Claims

/-- R323, R338, R339, R343, R346, R358, R367, R373, R375, R377: the commands that complete later, what starts them and what completes them; TABLE; and RESET. The
model's readings: TABLE writes as it starts and posts once the next tick has passed (log entry 88), what RESET sets (log entry 86), saves by the watchdog
(log entry 79) and forced saves while a partition replays (log entry 92). -/
def Obligations.HostWaits : Prop :=
  (∀ (s : State) (c : Command), Arrives s 2 c → Cmd.reservedZero c = true →
    let S := BitVec.ofNat 16 (Cmd.field c 16 2)
    let a := Cmd.field c 24 8
    let T := numAt s a 8
    let V : Word := BitVec.ofNat 64 (numAt s (a + 8) 8)
    let pid := Cmd.pid c
    let p := s.part pid
    let ran (t : State) (q : Part) : Prop := Done s t c 0 0 ∧ t.part pid = q ∧ SameRest s t
    s.tableOld = [] → Acknowledged s pid →
    (Cmd.field c 48 8 = 0 → Cmd.field c 32 4 = 0 → ∃ t, exec .cmdTable s = .next t ∧ ran t { p with serial := S }) ∧
    (Cmd.field c 48 8 = 0 → Cmd.field c 32 4 = 1 → a % 8 = 0 → a + 16 ≤ Config.hbmEnd →
      (T = 2 ^ 63 + 0x100 → ∃ t, exec .cmdTable s = .next t ∧ ran t { p with serial := S, root := V &&& 0xFFFFFFC001 }) ∧
      (T = 2 ^ 63 + 0x101 → ∃ t, exec .cmdTable s = .next t ∧ ran t { p with serial := S, rdt := V &&& 0xFFFFFFF000 }) ∧
      (T = 2 ^ 63 + 0x108 → ∃ t, exec .cmdTable s = .next t ∧ ran t { p with serial := S, chanBase := V &&& 0xFFFFFFF000 }) ∧
      (T = 2 ^ 63 + 0x109 → ∃ t, exec .cmdTable s = .next t ∧ ran t { p with serial := S, chanLimit := V &&& 0x1FFFF }) ∧
      (2 ^ 63 ≤ T → T ∉ [2 ^ 63 + 0x100, 2 ^ 63 + 0x101, 2 ^ 63 + 0x108, 2 ^ 63 + 0x109] →
        ∃ t, exec .cmdTable s = .next t ∧ Done s t c 2 0 ∧ SameRest s t ∧ t.part pid = p) ∧
      (T % 8 = 0 → T + 8 ≤ Config.hbmEnd → ∃ t old, exec .cmdTable s = .next t ∧ SameRest s t ∧
        t.part pid = { p with ordered := [{ cmd := c, started := true }] } ∧ numAt t T 8 = V.toNat ∧ t.tableOld = [old] ∧
        (∀ j, j < 8 → (T + j, s.byte (T + j)) ∈ old) ∧ ∀ k, (k < T ∨ T + 8 ≤ k) → t.byte k = s.byte k)) ∧
    (∀ d x, Cmd.field c 48 8 ≠ 0 → Cmd.field c 32 4 = 0 → find? s.ctxs d = some x → x.pid = pid →
      ∃ t, exec .cmdTable s = .next t ∧ Goes1 s t c true ∧ Posted s t c d x)) ∧
  (∀ (s : State) (r : CmdRun), InSequence s s.ev.n r →
    (Cmd.op r.cmd = 2 → r.resumed = false → s.tableOld ≠ [] → exec .cmdTable s = .next s) ∧
    (Cmd.op r.cmd = 2 → r.resumed = false → s.tableOld = [] → Cmd.field r.cmd 48 8 = 0 → Acknowledged s s.ev.n →
      ∃ t, exec .cmdTable s = .next t ∧ Done s t r.cmd 0 0 ∧ SameRest s t ∧ (t.part s.ev.n).serial = BitVec.ofNat 16 (Cmd.field r.cmd 16 2)) ∧
    (Cmd.op r.cmd = 2 → r.resumed = false → s.tableOld = [] → Cmd.field r.cmd 48 8 ≠ 0 → ∀ d x, find? s.ctxs d = some x → x.pid = s.ev.n →
      x.pendCount ≠ -1 → ∃ t, exec .cmdTable s = .next t ∧ Goes1 s t r.cmd true ∧ Posted s t r.cmd d x) ∧
    (Cmd.op r.cmd = 2 → r.resumed = true → Acknowledged s s.ev.n → ∃ t, exec .cmdTable s = .next t ∧ Done s t r.cmd 0 0 ∧ SameRest s t) ∧
    (Cmd.op r.cmd = 7 → (∀ v ∈ s.saved, v.2.ctx.pid = s.ev.n → v.2.resume = false) →
      ∃ t, exec .cmdResume s = .next t ∧ Done s t r.cmd 0 0 ∧ SameRest s t)) ∧
  (∀ (s : State) (r : CmdRun), BesideSequence s s.ev.n r →
    (Cmd.op r.cmd = 3 → s.dev.latchDue = false → ∃ t, exec .cmdTrigger s = .next t ∧ Done s t r.cmd 0 0 ∧ SameRest s t) ∧
    (Cmd.op r.cmd = 6 → (∀ y ∈ s.ctxs, y.2.pid ≠ s.ev.n) → ∃ t, exec .cmdPreempt s = .next t ∧ Done s t r.cmd 0 0 ∧ SameRest s t) ∧
    (Cmd.op r.cmd = 8 → (∀ y ∈ s.ctxs, y.2.pid ≠ s.ev.n) → (∀ v ∈ s.saved, v.2.ctx.pid = s.ev.n → v.2.ctx.stopReq = false) → ∃ t, exec .cmdStop s = .next t ∧ Done s t r.cmd 0 0 ∧ SameRest s t)) ∧
  (∀ (s : State) (c : Command), Arrives s 3 c → Cmd.reservedZero c = true → s.dev.trgT.toNat < s.dev.time.toNat →
    ∃ t, exec .cmdTrigger s = .next t ∧ Goes1 s t c false ∧ SameRest s t ∧
      t.dev = { s.dev with trgT := if Cmd.word c 16 = 0 then s.dev.time + 1000 else Cmd.word c 16, latchDue := true }) ∧
  (∀ (s : State) (c : Command) (d : CtxId) (x : Ctx), Arrives s 6 c → Cmd.reservedZero c = true → find? s.ctxs d = some x → x.pid = Cmd.pid c →
    x.saveNow = false → x.trap.preh = false →
    ∃ t, exec .cmdPreempt s = .next t ∧ Goes1 s t c false ∧ find? t.ctxs d = some { x with trap := { x.trap with pend := true } }) ∧
  (∀ (s : State) (c : Command) (i : CtxId) (v : Saved), Arrives s 7 c → Cmd.reservedZero c = true → (i, v) ∈ s.saved → v.ctx.pid = Cmd.pid c →
    ∃ t, exec .cmdResume s = .next t ∧ Goes1 s t c true ∧ t.ctxs = s.ctxs ∧ (t.part (Cmd.pid c)).halted = false ∧
      t.saved = s.saved.map fun w => (w.1, if w.2.ctx.pid = Cmd.pid c then { w.2 with resume := true } else w.2)) ∧
  (∀ (s : State) (c : Command) (d : CtxId) (x : Ctx), Arrives s 8 c → Cmd.reservedZero c = true → find? s.ctxs d = some x → x.pid = Cmd.pid c →
    naming c d → ∃ t, exec .cmdStop s = .next t ∧ Goes1 s t c false ∧ find? t.ctxs d = some { x with stopReq := true }) ∧
  (∀ (s : State) (c : Command), Arrives s 5 c → Cmd.reservedZero c = true → Cmd.field c 24 8 + Cmd.field c 32 8 ≤ Config.hbmEnd →
    let reached := ((s.part (Cmd.pid c)).serial - BitVec.ofNat 16 (Cmd.field c 16 2)).toNat < 2 ^ 15
    (¬ reached → ∃ t, exec .cmdReplay s = .next t ∧ Goes1 s t c true ∧ SameRest s t) ∧
    (reached → ∃ t, exec .cmdReplay s = .next t ∧ Goes1 s t c true ∧ t.ctxs = s.ctxs ∧ (t.part (Cmd.pid c)).replaying = true ∧
      ∀ i v, (i, v) ∈ s.saved → v.ctx.pid = Cmd.pid c → v.ctx.forcedSub = 0 → ∃ w, (i, w) ∈ t.saved ∧ w.resume = true ∧ w.ctx.replay.isSome = true)) ∧
  (∀ (s : State) (r : CmdRun), InSequence s s.ev.n r → Cmd.op r.cmd = 5 → r.resumed = true → (∀ y ∈ s.ctxs, y.2.pid ≠ s.ev.n) →
    (∀ v ∈ s.saved, v.2.ctx.pid = s.ev.n → v.2.resume = false) → (s.part s.ev.n).broken = false → (s.part s.ev.n).diverged = none →
    ∃ t, exec .cmdReplay s = .next t ∧ Done s t r.cmd 3 0 ∧ SameRest s t ∧ (t.part s.ev.n).replaying = false) ∧
  (∀ (s : State) (r : CmdRun), s.Inv → (s.part s.ev.n).ordered = [r] → (s.part s.ev.n).unordered = [] → Cmd.pid r.cmd = s.ev.n → r.started = true →
    Cmd.op r.cmd = 5 → r.resumed = false → Reachable s r.cmd →
    (r.datum + 1000 * s.dev.replayBound ≤ s.dev.time.toNat → ∃ t, exec .replayWatchdogExpiry s = .next t ∧ Done s t r.cmd 6 0 ∧ SameRest s t) ∧
    (s.dev.time.toNat < r.datum + 1000 * s.dev.replayBound → exec .replayWatchdogExpiry s = .next s)) ∧
  (∀ (s : State) (c : Command) (d : CtxId) (x : Ctx), let pid := Cmd.pid c
    Arrives s 10 c → Cmd.reservedZero c = true → s.ctxs = [(d, x)] → AtRest s d x → x.pid = pid → x.instants = [] → x.commits = [] → s.saved = [] →
    s.chans = [] → s.copies = [] →
    ∃ t, exec .cmdReset s = .next t ∧ Done s t c 0 0 ∧ t.ctxs = [] ∧ t.launches = s.launches.filter (·.pid ≠ pid) ∧
      t.part pid = { s.part pid with
        root := 0, rdt := 0, serial := 0, chanBase := 0, chanLimit := 0, siltPool := 0, siltLim := 0, siltUsed := [], nextSeq := 1
        halted := false, replaying := false, diverged := none, broken := false } ∧
      (∀ n, let q := t.cell n
        q.cyc = (s.cell n).cyc ∧ q.pmc = .replicate 8 0 ∧ q.pms = .replicate 8 0 ∧ q.pmh = .replicate 8 0 ∧ q.slipH = .replicate 2 0 ∧ q.trcCtl = 0 ∧
          q.bp = .replicate 2 0 ∧ q.bpi = .replicate 2 0 ∧ q.slots = .replicate 16 2 ∧ ∀ e ∈ q.tlb, e.1 ≠ pid) ∧
      (∀ n, let e := t.die n
        e.loess = 0 ∧ e.wptr = 0 ∧ e.lost = 0 ∧ e.pmd = .replicate 16 0 ∧ e.pms = .replicate 16 0 ∧ e.pmh = .replicate 16 0 ∧ ∀ y ∈ e.tlb, y.1 ≠ pid))

/-! ### The fabric, power, islands and soft errors -/

/-- R16, R17, R374, R386 to R388: fabric reads and writes of HBM, of the attestation log and of reserved offsets, and a command written to the port; power
lost and restored. What a power-on empties, keeps and logs (log entry 98) and what walks read after a fabric write (log entry 43) are the model's readings. -/
def Obligations.FabricAndPower : Prop :=
  (∀ (s : State) (off len : Nat), s.ev.fab = .read off len → off + len ≤ Config.hbmEnd →
    exec .fabricAccess s = .next { s with dev := { s.dev with
      fabErr := false, fabResult := (List.range len).map fun j => s.byte (off + j), fabBad := (List.range len).any fun j => s.bad (off + j) } }) ∧
  (∀ (s : State) (off : Nat) (b : List Byte), s.Inv → s.ev.fab = .write off b → off + b.length ≤ Config.hbmEnd →
    ∃ t old, exec .fabricAccess s = .next t ∧ Stored s t off b ∧ t.dev = { s.dev with fabErr := false, fabResult := [], fabBad := false } ∧
      t.ctxs = s.ctxs ∧ t.tableOld = old :: s.tableOld ∧ ∀ j, j < b.length → (off + j, s.byte (off + j)) ∈ old) ∧
  (∀ (s : State) (j : Nat) (e : BitVec 512), s.dev.log[j]? = some e → j < 1024 → s.ev.fab = .read (ctlBase + 0x10000 + 64 * j) 64 →
    ∃ t, exec .fabricAccess s = .next t ∧ SameMem s t ∧ t.dev.fabErr = false ∧ t.dev.fabResult = leBytes 64 e.toNat) ∧
  (∀ (s : State) (b : List Byte), s.ev.fab = .write ctlBase b → b.length = 64 →
    ∃ t, exec .fabricAccess s = .next t ∧
      t = { arriveCmd s (BitVec.ofNat 512 (leNat b)) with
        dev := { (arriveCmd s (BitVec.ofNat 512 (leNat b))).dev with fabErr := false, fabResult := [], fabBad := false } }) ∧
  (∀ (s : State) (off len : Nat) (b : List Byte), (s.ev.fab = .read off len ∧ 0 < len) ∨ (s.ev.fab = .write off b ∧ 0 < b.length) →
    Config.hbmEnd ≤ off → off < ctlBase →
    exec .fabricAccess s = .next { s with dev := { s.dev with fabErr := true, fabResult := [], fabBad := false } }) ∧
  (∀ s : State, ∃ t, exec .powerLoss s = .next t ∧ t.mem = [] ∧ t.poison = [] ∧ t.ctxs = [] ∧ t.saved = [] ∧ t.parts = [] ∧ t.chans = [] ∧
    t.launches = [] ∧ t.copies = [] ∧ t.cells = [] ∧ t.dies = [] ∧ t.islands = [] ∧ t.bars = [] ∧ t.dev.powered = false ∧ t.dev.booted = false ∧
    t.dev.leaf = s.dev.leaf ∧ t.dev.minVersion = s.dev.minVersion ∧ t.dev.time = s.dev.time ∧ t.dev.log = []) ∧
  (∀ s : State, let b := s.ev.boot
    let missing := ∃ n, n < 32 ∧ b.extl.getLsbD n = true ∧ find? b.routines (BitVec.ofNat 8 (0xE0 + n)) = none
    ∃ t, exec .powerOn s = .next t ∧ t.mem = [] ∧ t.ctxs = [] ∧ t.parts = [] ∧ t.dev.powered = true ∧ t.dev.leaf = s.dev.leaf ∧
    (s.ev.n < s.dev.minVersion ∨ s.ev.m < s.dev.minVersion ∨ missing → t.dev.booted = false ∧ t.dev.log = [] ∧ t.dev.cmeta = 0 ∧ t.dev.extl = 0) ∧
    (s.dev.minVersion ≤ s.ev.n → s.dev.minVersion ≤ s.ev.m → ¬ missing →
      t.dev.booted = (Config.imageVerifies (s.free 0) && Config.imageVerifies (s.free 1))) ∧
    (t.dev.booted = true → t.dev.cmeta = b.cmeta &&& 0xFFFF000000 ∧ t.dev.extl = b.extl.setWidth 64 ∧ t.dev.routines = b.routines ∧
      t.dev.region = b.region ∧ t.dev.log.length = (if b.routines = [] then 2 else 3) ∧
      ∀ n, n < t.dev.log.length → ∃ e, t.dev.log[n]? = some e ∧ (fld e 256 32 : BitVec 32) = BitVec.ofNat 32 (n + 1) ∧
        (fld e 288 32 : BitVec 32) = BitVec.ofNat 32 n ∧ (fld e 320 192 : BitVec 192) = 0))

namespace Sys2Proof.Claims

/-- Nobody has configured an event queue, so that no event is written (R379). -/
def Unheard (s : State) : Prop := ∀ p ∈ s.parts, p.2.configured = false

/-- Island `k` belongs with island `n`: itself, or a compute island of the same lock group (R384). -/
def Mates (s : State) (n k : Nat) : Prop := k = n ∨ (n < 12 ∧ k < 12 ∧ (s.island k).group = (s.island n).group)

/-- A frequency under a clamp to `v` (R383, R385). -/
def Clamped (v f g : BitVec 16) : Prop :=
  (f.toNat ≤ v.toNat → g = f) ∧ (v.toNat < f.toNat → 600 ≤ v.toNat → g = v) ∧ (v.toNat < f.toNat → v.toNat < 600 → g = 600)

/-- The compute islands whose lock group has an island over SRAM island `n` (R384). -/
def Over (s : State) (n k : Nat) : Prop := k < 12 ∧ ∃ j, j < 12 ∧ j / 3 = (n - 12) / 2 ∧ Mates s j k

/-- In `t` island `k` runs at its target, or as fast below it as the SRAM islands under its lock group and R383 allow (R384, R385). -/
def Aimed (s t : State) (k : Nat) : Prop :=
  let f := (t.island k).freq
  f.toNat ≤ (t.island k).target.toNat ∧ (∀ j r, j < 12 → Mates s k j → r < 2 → f.toNat ≤ (t.island (12 + 2 * (j / 3) + r)).freq.toNat) ∧
    (f = (t.island k).target ∨ f = 2400 ∨ ∃ j r, j < 12 ∧ Mates s k j ∧ r < 2 ∧ f = (t.island (12 + 2 * (j / 3) + r)).freq)

/-- Nothing but the islands has changed. -/
def OnlyIslands (s t : State) : Prop := t = { s with islands := t.islands }

end Sys2Proof.Claims

/-- R299, R383 to R385: the clamps and their release, frequency changes, islands that change their lock group, and the slot table. A compute island never
comes to outrun the SRAM islands under it. Frequencies, targets and groups outside the lock groups concerned stay. The SRAM islands under a compute island,
the return to the target, the 600 MHz floor and a clamped island that joins a group are the model's readings (log entry 96). -/
def Obligations.IslandsAndSlots : Prop :=
  (∀ (s : State) (thermal : Bool), let n := s.ev.n
    n < 32 → Unheard s →
    ∃ t, exec (if thermal then .thermalClamp else .currentClamp) s = .next t ∧ OnlyIslands s t ∧ ∀ k,
      (¬ Mates s n k → ¬ (12 ≤ n ∧ n < 20 ∧ Over s n k) → t.island k = s.island k) ∧
      (12 ≤ n → n < 20 → Over s n k → t.island k = { s.island k with
        freq := if (s.island k).freq.toNat ≤ (t.island n).freq.toNat then (s.island k).freq else (t.island n).freq }) ∧
      (Mates s n k → Clamped s.ev.val (s.island k).freq (t.island k).freq ∧ (t.island k).target = (s.island k).target ∧
        (t.island k).group = (s.island k).group ∧ (t.island k).clt = ((s.island k).clt || (decide (k = n) && thermal)) ∧
        (t.island k).cli = ((s.island k).cli || (decide (k = n) && !thermal)))) ∧
  (∀ s : State, let n := s.ev.n
    let left (k : Nat) : Bool × Bool := let i := s.island k
      if k = n then (if s.ev.flag then (false, i.cli) else (i.clt, false)) else (i.clt, i.cli)
    n < 32 → ∃ t, exec .clampRelease s = .next t ∧ OnlyIslands s t ∧
      (∀ k, ((t.island k).clt, (t.island k).cli) = left k ∧ (t.island k).target = (s.island k).target ∧ (t.island k).group = (s.island k).group) ∧
      ((∃ k, Mates s n k ∧ left k ≠ (false, false)) → ∀ k, (t.island k).freq = (s.island k).freq) ∧
      ((∀ k, Mates s n k → left k = (false, false)) → ∀ k,
        (n < 12 → Mates s n k → Aimed s t k) ∧ (12 ≤ n → k = n → (t.island k).freq = (s.island k).target) ∧
        (12 ≤ n → n < 20 → Over s n k → (∀ j, Mates s k j → left j = (false, false)) → Aimed s t k) ∧
        (¬ Mates s n k → ¬ (12 ≤ n ∧ n < 20 ∧ Over s n k) → (t.island k).freq = (s.island k).freq))) ∧
  (∀ s : State, let n := s.ev.n
    let v := s.ev.val
    n < 12 → s.ev.flag = false → 600 ≤ v.toNat → v.toNat ≤ 2400 →
    v.toNat ≤ (s.island (12 + 2 * (n / 3))).freq.toNat → v.toNat ≤ (s.island (13 + 2 * (n / 3))).freq.toNat →
    (∀ k, Mates s n k → k / 3 = n / 3) → (∀ k, Mates s n k → (s.island k).clt = false ∧ (s.island k).cli = false) →
    ∃ t, exec .lockGroupFrequencyChange s = .next t ∧ OnlyIslands s t ∧
      ∀ k, t.island k = s.island k ∧ ¬ Mates s n k ∨ t.island k = { s.island k with freq := v, target := v } ∧ Mates s n k) ∧
  (∀ s : State, let n := s.ev.n
    n < 32 → s.ev.flag = false → s.ev.val.toNat < 600 ∨ 2400 < s.ev.val.toNat → exec .lockGroupFrequencyChange s = .next s) ∧
  (∀ s : State, let n := s.ev.n
    n < 12 → s.ev.flag = true → s.ev.grp.toNat < 12 → (∀ y ∈ s.ctxs, islandOf y.1.cell ≠ n) →
    (∀ k, k < 12 → k ≠ n → (s.island k).group ≠ s.ev.grp) →
    ∃ t, exec .lockGroupFrequencyChange s = .next t ∧ OnlyIslands s t ∧ t.island n = { s.island n with group := s.ev.grp } ∧
      ∀ k, k ≠ n → t.island k = s.island k) ∧
  (∀ (s : State) (k : Nat), let n := s.ev.n
    let i := s.island n
    let j := s.island k
    let f := if (i.cli || i.clt) && decide (i.freq.toNat < j.freq.toNat) then i.freq else j.freq
    n < 12 → s.ev.flag = true → s.ev.grp.toNat < 12 → (∀ y ∈ s.ctxs, islandOf y.1.cell ≠ n) → k < 12 → k ≠ n →
    (∀ m, m < 12 → m ≠ n → ((s.island m).group = s.ev.grp ↔ m = k)) → j.freq.toNat ≤ 2400 → j.target.toNat ≤ 2400 →
    (∀ r, r < 2 → let q := (s.island (12 + 2 * (n / 3) + r)).freq
      j.freq.toNat ≤ q.toNat ∧ j.target.toNat ≤ q.toNat) →
    ∃ t, exec .lockGroupFrequencyChange s = .next t ∧ OnlyIslands s t ∧ t.island n = { i with group := s.ev.grp, target := j.target, freq := f } ∧
      t.island k = { j with freq := f } ∧ ∀ m, m ≠ n → m ≠ k → t.island m = s.island m) ∧
  (∀ (s : State) (y : CtxId × Ctx), y ∈ s.ctxs → islandOf y.1.cell = s.ev.n → s.ev.flag = true → exec .lockGroupFrequencyChange s = .next s) ∧
  (∀ s : State, let n := s.ev.n
    ∃ t, exec .slotTableWrite s = .next t ∧ t = s.setCell n { s.cell n with slots := (s.cell n).slots.set s.ev.grp.toFin (s.ev.val.setWidth 2) })

/-- R40, R349 to R351, R385: a corrected error changes no data; an uncorrected one poisons its unit or its register; an error in a cache drops the line; a
thermal shutdown of a device without contexts resets its partitions and asks for power to be removed. -/
def Obligations.SoftErrors : Prop :=
  let quiet (s : State) : Prop := s.dev.softLimit = 0 ∧ s.resident s.ev.ctx = false
  let counted (s t : State) : Prop := SameMem s t ∧ t.poison = s.poison ∧ t.ctxs = s.ctxs ∧ t.dev = { s.dev with softErrs := s.dev.softErrs + 1 }
  (∀ s : State, quiet s → s.ev.flag = true → s.ev.space ≠ .cache → ∃ t, exec .softError s = .next t ∧ counted s t) ∧
  (∀ s : State, quiet s → s.ev.space = .cache → ∃ t, exec .softError s = .next t ∧ counted s t ∧
    (t.cell s.ev.ctx.cell).dcache = (s.cell s.ev.ctx.cell).dcache.filter (·.1 ≠ s.ev.n / 64 * 64) ∧
    (t.cell s.ev.ctx.cell).icache = (s.cell s.ev.ctx.cell).icache.filter (·.1 ≠ s.ev.n / 8 * 8)) ∧
  (∀ s : State, s.ev.flag = false → s.ev.space ∈ [SoftSpace.hbm, .scratch, .acc, .tile] →
    ∃ t, exec .softError s = .next t ∧ SameMem s t ∧ t.ctxs = s.ctxs ∧ t.bad s.ev.n = true ∧ ∀ k, unitOf k ≠ unitOf s.ev.n → t.bad k = s.bad k) ∧
  (∀ (s : State) (x : Ctx), let c := s.ev.ctx
    s.ev.flag = false → find? s.ctxs c = some x →
    (∀ m : Fin 64, s.ev.m = m.val → s.ev.space = .scalar → ∃ t y, exec .softError s = .next t ∧ SameMem s t ∧ find? t.ctxs c = some y ∧
      y = (if m.val = 0 then x else { x with s := x.s.set m { x.s[m] with bad := true } })) ∧
    (∀ m : Fin 32, s.ev.m = m.val → s.ev.space = .vector → ∃ t, exec .softError s = .next t ∧ SameMem s t ∧
      find? t.ctxs c = some { x with v := x.v.set m { x.v[m] with bad := x.v[m].bad ||| (1 <<< (s.ev.n % 64)) } }) ∧
    (∀ f, s.ev.space = .file f → ∃ t y, exec .softError s = .next t ∧ SameMem s t ∧ find? t.ctxs c = some y ∧ (f, s.ev.m) ∈ y.badRegs ∧
      y.s = x.s ∧ y.v = x.v) ∧
    (∀ (m : Fin 4) (e : NqEntry), let k := s.ev.grp.toNat
      s.ev.m = m.val → s.ev.space = .queue → (x.nq[m])[k]? = some e →
      ∃ t, exec .softError s = .next t ∧ SameMem s t ∧
        find? t.ctxs c = some { x with nq := x.nq.set m ((x.nq[m]).set k { e with bad := e.bad ||| (1 <<< (s.ev.n % 64)) }) }) ∧
    (∀ l : Load, s.ev.space = .loads → x.loads[s.ev.m]? = some l → l.cells = [] → ∃ t, exec .softError s = .next t ∧ SameMem s t ∧
      find? t.ctxs c = some { x with loads := x.loads.set s.ev.m { l with bad := l.bad ||| (1 <<< (s.ev.n % 64)) } }) ∧
    (∀ e : Entry, s.ev.space = .stores → (x.qS.filter (·.passed))[s.ev.m]? = some e → ∃ t, exec .softError s = .next t ∧ SameMem s t ∧
      find? t.ctxs c = some { x with qS := x.qS.map fun y => if y.kind = .instr ∧ y.id = e.id then { y with dataBad := true } else y })) ∧
  (∀ (s : State) (p : Part), s.parts = [(0, p)] → s.ctxs = [] → s.saved = [] → s.chans = [] → s.copies = [] →
    ∃ t, exec .thermalShutdown s = .next t ∧ SameMem s t ∧ t.ctxs = [] ∧ t.dev = { s.dev with powerOff := true, trgClear := true } ∧ (t.part 0).root = 0 ∧
      (t.part 0).nextSeq = 1 ∧ ∀ l ∈ t.launches, l.pid ≠ 0)

/-! ### The scalar register group -/

/-- R252: the register group: the result of each of its 24 instructions, division by zero and the division of −2⁶³ by −1 among them; the functions that are not
listed; and the word of the rule's example. -/
def Obligations.RegisterGroup : Prop :=
  ScalarRegisterGroup ∧
  (∀ w : Word, (fld w 45 8 : BitVec 8) = 0x19 → 0x18 ≤ (fld w 16 8 : BitVec 8).toNat → decode w = .error .illegalOpcode) ∧
  encode (.add ⟨0, 2, 2, false, 3, false⟩) = some 0x0003210206000000
end

