-- ==== Sys2Proof/Laws/State.lean ====
section
/-! SUPPORT. What each update of the state leaves and changes: one lemma for each field and update, and reading back what was written. -/

namespace Sys2Proof.Laws

open Sys2Proof Sys2Proof.Machine

/-! ### Association lists -/

@[simp] theorem find_put_self {κ α : Type} [DecidableEq κ] (l : List (κ × α)) (k : κ) (a : α) :
    find? (put l k a) k = some a := by
  induction l with
  | nil => simp [put, find?]
  | cons x l ih => by_cases h : x.1 = k <;> simp [put, find?, h, ih]

theorem find_put_other {κ α : Type} [DecidableEq κ] (l : List (κ × α)) {k j : κ} (a : α) (h : j ≠ k) :
    find? (put l k a) j = find? l j := by
  induction l with
  | nil => simp [put, find?, Ne.symm h]
  | cons x l ih =>
    by_cases h1 : x.1 = k
    · have h2 : ¬ k = j := Ne.symm h
      have h3 : ¬ x.1 = j := fun e => h2 (h1 ▸ e)
      simp [put, find?, h1, h2]
    · simp only [put, if_neg h1, find?, ih]

@[simp] theorem put_put {κ α : Type} [DecidableEq κ] (l : List (κ × α)) (k : κ) (a b : α) :
    put (put l k a) k b = put l k b := by
  induction l with
  | nil => simp [put]
  | cons x l ih => by_cases h : x.1 = k <;> simp [put, h, ih]

/-! ### setCx -/

@[simp] theorem setCx_mem (s : State) (c : CtxId) (x : Ctx) : (s.setCx c x).mem = s.mem := rfl
@[simp] theorem setCx_poison (s : State) (c : CtxId) (x : Ctx) : (s.setCx c x).poison = s.poison := rfl
@[simp] theorem setCx_metaOk (s : State) (c : CtxId) (x : Ctx) : (s.setCx c x).metaOk = s.metaOk := rfl
@[simp] theorem setCx_tableOld (s : State) (c : CtxId) (x : Ctx) : (s.setCx c x).tableOld = s.tableOld := rfl
@[simp] theorem setCx_past (s : State) (c : CtxId) (x : Ctx) : (s.setCx c x).past = s.past := rfl
@[simp] theorem setCx_cur (s : State) (c : CtxId) (x : Ctx) : (s.setCx c x).cur = s.cur := rfl
@[simp] theorem setCx_agenda (s : State) (c : CtxId) (x : Ctx) : (s.setCx c x).agenda = s.agenda := rfl
@[simp] theorem setCx_ev (s : State) (c : CtxId) (x : Ctx) : (s.setCx c x).ev = s.ev := rfl
@[simp] theorem setCx_fresh (s : State) (c : CtxId) (x : Ctx) : (s.setCx c x).fresh = s.fresh := rfl
@[simp] theorem setCx_ctxs (s : State) (c : CtxId) (x : Ctx) : (s.setCx c x).ctxs = put s.ctxs c x := rfl
@[simp] theorem setCx_saved (s : State) (c : CtxId) (x : Ctx) : (s.setCx c x).saved = s.saved := rfl
@[simp] theorem setCx_cells (s : State) (c : CtxId) (x : Ctx) : (s.setCx c x).cells = s.cells := rfl
@[simp] theorem setCx_parts (s : State) (c : CtxId) (x : Ctx) : (s.setCx c x).parts = s.parts := rfl
@[simp] theorem setCx_chans (s : State) (c : CtxId) (x : Ctx) : (s.setCx c x).chans = s.chans := rfl
@[simp] theorem setCx_bars (s : State) (c : CtxId) (x : Ctx) : (s.setCx c x).bars = s.bars := rfl
@[simp] theorem setCx_launches (s : State) (c : CtxId) (x : Ctx) : (s.setCx c x).launches = s.launches := rfl
@[simp] theorem setCx_copies (s : State) (c : CtxId) (x : Ctx) : (s.setCx c x).copies = s.copies := rfl
@[simp] theorem setCx_dies (s : State) (c : CtxId) (x : Ctx) : (s.setCx c x).dies = s.dies := rfl
@[simp] theorem setCx_islands (s : State) (c : CtxId) (x : Ctx) : (s.setCx c x).islands = s.islands := rfl
@[simp] theorem setCx_dev (s : State) (c : CtxId) (x : Ctx) : (s.setCx c x).dev = s.dev := rfl

/-! ### setMe -/

@[simp] theorem setMe_mem (s : State) (x : Ctx) : (s.setMe x).mem = s.mem := rfl
@[simp] theorem setMe_poison (s : State) (x : Ctx) : (s.setMe x).poison = s.poison := rfl
@[simp] theorem setMe_metaOk (s : State) (x : Ctx) : (s.setMe x).metaOk = s.metaOk := rfl
@[simp] theorem setMe_tableOld (s : State) (x : Ctx) : (s.setMe x).tableOld = s.tableOld := rfl
@[simp] theorem setMe_past (s : State) (x : Ctx) : (s.setMe x).past = s.past := rfl
@[simp] theorem setMe_cur (s : State) (x : Ctx) : (s.setMe x).cur = s.cur := rfl
@[simp] theorem setMe_agenda (s : State) (x : Ctx) : (s.setMe x).agenda = s.agenda := rfl
@[simp] theorem setMe_ev (s : State) (x : Ctx) : (s.setMe x).ev = s.ev := rfl
@[simp] theorem setMe_fresh (s : State) (x : Ctx) : (s.setMe x).fresh = s.fresh := rfl
@[simp] theorem setMe_ctxs (s : State) (x : Ctx) : (s.setMe x).ctxs = put s.ctxs s.cur x := rfl
@[simp] theorem setMe_saved (s : State) (x : Ctx) : (s.setMe x).saved = s.saved := rfl
@[simp] theorem setMe_cells (s : State) (x : Ctx) : (s.setMe x).cells = s.cells := rfl
@[simp] theorem setMe_parts (s : State) (x : Ctx) : (s.setMe x).parts = s.parts := rfl
@[simp] theorem setMe_chans (s : State) (x : Ctx) : (s.setMe x).chans = s.chans := rfl
@[simp] theorem setMe_bars (s : State) (x : Ctx) : (s.setMe x).bars = s.bars := rfl
@[simp] theorem setMe_launches (s : State) (x : Ctx) : (s.setMe x).launches = s.launches := rfl
@[simp] theorem setMe_copies (s : State) (x : Ctx) : (s.setMe x).copies = s.copies := rfl
@[simp] theorem setMe_dies (s : State) (x : Ctx) : (s.setMe x).dies = s.dies := rfl
@[simp] theorem setMe_islands (s : State) (x : Ctx) : (s.setMe x).islands = s.islands := rfl
@[simp] theorem setMe_dev (s : State) (x : Ctx) : (s.setMe x).dev = s.dev := rfl

/-! ### setCell -/

@[simp] theorem setCell_mem (s : State) (n : Nat) (x : Cell) : (s.setCell n x).mem = s.mem := rfl
@[simp] theorem setCell_poison (s : State) (n : Nat) (x : Cell) : (s.setCell n x).poison = s.poison := rfl
@[simp] theorem setCell_metaOk (s : State) (n : Nat) (x : Cell) : (s.setCell n x).metaOk = s.metaOk := rfl
@[simp] theorem setCell_tableOld (s : State) (n : Nat) (x : Cell) : (s.setCell n x).tableOld = s.tableOld := rfl
@[simp] theorem setCell_past (s : State) (n : Nat) (x : Cell) : (s.setCell n x).past = s.past := rfl
@[simp] theorem setCell_cur (s : State) (n : Nat) (x : Cell) : (s.setCell n x).cur = s.cur := rfl
@[simp] theorem setCell_agenda (s : State) (n : Nat) (x : Cell) : (s.setCell n x).agenda = s.agenda := rfl
@[simp] theorem setCell_ev (s : State) (n : Nat) (x : Cell) : (s.setCell n x).ev = s.ev := rfl
@[simp] theorem setCell_fresh (s : State) (n : Nat) (x : Cell) : (s.setCell n x).fresh = s.fresh := rfl
@[simp] theorem setCell_ctxs (s : State) (n : Nat) (x : Cell) : (s.setCell n x).ctxs = s.ctxs := rfl
@[simp] theorem setCell_saved (s : State) (n : Nat) (x : Cell) : (s.setCell n x).saved = s.saved := rfl
@[simp] theorem setCell_cells (s : State) (n : Nat) (x : Cell) : (s.setCell n x).cells = put s.cells n x := rfl
@[simp] theorem setCell_parts (s : State) (n : Nat) (x : Cell) : (s.setCell n x).parts = s.parts := rfl
@[simp] theorem setCell_chans (s : State) (n : Nat) (x : Cell) : (s.setCell n x).chans = s.chans := rfl
@[simp] theorem setCell_bars (s : State) (n : Nat) (x : Cell) : (s.setCell n x).bars = s.bars := rfl
@[simp] theorem setCell_launches (s : State) (n : Nat) (x : Cell) : (s.setCell n x).launches = s.launches := rfl
@[simp] theorem setCell_copies (s : State) (n : Nat) (x : Cell) : (s.setCell n x).copies = s.copies := rfl
@[simp] theorem setCell_dies (s : State) (n : Nat) (x : Cell) : (s.setCell n x).dies = s.dies := rfl
@[simp] theorem setCell_islands (s : State) (n : Nat) (x : Cell) : (s.setCell n x).islands = s.islands := rfl
@[simp] theorem setCell_dev (s : State) (n : Nat) (x : Cell) : (s.setCell n x).dev = s.dev := rfl

/-! ### setPart -/

@[simp] theorem setPart_mem (s : State) (n : Nat) (x : Part) : (s.setPart n x).mem = s.mem := rfl
@[simp] theorem setPart_poison (s : State) (n : Nat) (x : Part) : (s.setPart n x).poison = s.poison := rfl
@[simp] theorem setPart_metaOk (s : State) (n : Nat) (x : Part) : (s.setPart n x).metaOk = s.metaOk := rfl
@[simp] theorem setPart_tableOld (s : State) (n : Nat) (x : Part) : (s.setPart n x).tableOld = s.tableOld := rfl
@[simp] theorem setPart_past (s : State) (n : Nat) (x : Part) : (s.setPart n x).past = s.past := rfl
@[simp] theorem setPart_cur (s : State) (n : Nat) (x : Part) : (s.setPart n x).cur = s.cur := rfl
@[simp] theorem setPart_agenda (s : State) (n : Nat) (x : Part) : (s.setPart n x).agenda = s.agenda := rfl
@[simp] theorem setPart_ev (s : State) (n : Nat) (x : Part) : (s.setPart n x).ev = s.ev := rfl
@[simp] theorem setPart_fresh (s : State) (n : Nat) (x : Part) : (s.setPart n x).fresh = s.fresh := rfl
@[simp] theorem setPart_ctxs (s : State) (n : Nat) (x : Part) : (s.setPart n x).ctxs = s.ctxs := rfl
@[simp] theorem setPart_saved (s : State) (n : Nat) (x : Part) : (s.setPart n x).saved = s.saved := rfl
@[simp] theorem setPart_cells (s : State) (n : Nat) (x : Part) : (s.setPart n x).cells = s.cells := rfl
@[simp] theorem setPart_parts (s : State) (n : Nat) (x : Part) : (s.setPart n x).parts = put s.parts n x := rfl
@[simp] theorem setPart_chans (s : State) (n : Nat) (x : Part) : (s.setPart n x).chans = s.chans := rfl
@[simp] theorem setPart_bars (s : State) (n : Nat) (x : Part) : (s.setPart n x).bars = s.bars := rfl
@[simp] theorem setPart_launches (s : State) (n : Nat) (x : Part) : (s.setPart n x).launches = s.launches := rfl
@[simp] theorem setPart_copies (s : State) (n : Nat) (x : Part) : (s.setPart n x).copies = s.copies := rfl
@[simp] theorem setPart_dies (s : State) (n : Nat) (x : Part) : (s.setPart n x).dies = s.dies := rfl
@[simp] theorem setPart_islands (s : State) (n : Nat) (x : Part) : (s.setPart n x).islands = s.islands := rfl
@[simp] theorem setPart_dev (s : State) (n : Nat) (x : Part) : (s.setPart n x).dev = s.dev := rfl

/-! ### setDie -/

@[simp] theorem setDie_mem (s : State) (n : Nat) (x : Die) : (s.setDie n x).mem = s.mem := rfl
@[simp] theorem setDie_poison (s : State) (n : Nat) (x : Die) : (s.setDie n x).poison = s.poison := rfl
@[simp] theorem setDie_metaOk (s : State) (n : Nat) (x : Die) : (s.setDie n x).metaOk = s.metaOk := rfl
@[simp] theorem setDie_tableOld (s : State) (n : Nat) (x : Die) : (s.setDie n x).tableOld = s.tableOld := rfl
@[simp] theorem setDie_past (s : State) (n : Nat) (x : Die) : (s.setDie n x).past = s.past := rfl
@[simp] theorem setDie_cur (s : State) (n : Nat) (x : Die) : (s.setDie n x).cur = s.cur := rfl
@[simp] theorem setDie_agenda (s : State) (n : Nat) (x : Die) : (s.setDie n x).agenda = s.agenda := rfl
@[simp] theorem setDie_ev (s : State) (n : Nat) (x : Die) : (s.setDie n x).ev = s.ev := rfl
@[simp] theorem setDie_fresh (s : State) (n : Nat) (x : Die) : (s.setDie n x).fresh = s.fresh := rfl
@[simp] theorem setDie_ctxs (s : State) (n : Nat) (x : Die) : (s.setDie n x).ctxs = s.ctxs := rfl
@[simp] theorem setDie_saved (s : State) (n : Nat) (x : Die) : (s.setDie n x).saved = s.saved := rfl
@[simp] theorem setDie_cells (s : State) (n : Nat) (x : Die) : (s.setDie n x).cells = s.cells := rfl
@[simp] theorem setDie_parts (s : State) (n : Nat) (x : Die) : (s.setDie n x).parts = s.parts := rfl
@[simp] theorem setDie_chans (s : State) (n : Nat) (x : Die) : (s.setDie n x).chans = s.chans := rfl
@[simp] theorem setDie_bars (s : State) (n : Nat) (x : Die) : (s.setDie n x).bars = s.bars := rfl
@[simp] theorem setDie_launches (s : State) (n : Nat) (x : Die) : (s.setDie n x).launches = s.launches := rfl
@[simp] theorem setDie_copies (s : State) (n : Nat) (x : Die) : (s.setDie n x).copies = s.copies := rfl
@[simp] theorem setDie_dies (s : State) (n : Nat) (x : Die) : (s.setDie n x).dies = put s.dies n x := rfl
@[simp] theorem setDie_islands (s : State) (n : Nat) (x : Die) : (s.setDie n x).islands = s.islands := rfl
@[simp] theorem setDie_dev (s : State) (n : Nat) (x : Die) : (s.setDie n x).dev = s.dev := rfl

/-! ### setIsland -/

@[simp] theorem setIsland_mem (s : State) (n : Nat) (x : Island) : (s.setIsland n x).mem = s.mem := rfl
@[simp] theorem setIsland_poison (s : State) (n : Nat) (x : Island) : (s.setIsland n x).poison = s.poison := rfl
@[simp] theorem setIsland_metaOk (s : State) (n : Nat) (x : Island) : (s.setIsland n x).metaOk = s.metaOk := rfl
@[simp] theorem setIsland_tableOld (s : State) (n : Nat) (x : Island) : (s.setIsland n x).tableOld = s.tableOld := rfl
@[simp] theorem setIsland_past (s : State) (n : Nat) (x : Island) : (s.setIsland n x).past = s.past := rfl
@[simp] theorem setIsland_cur (s : State) (n : Nat) (x : Island) : (s.setIsland n x).cur = s.cur := rfl
@[simp] theorem setIsland_agenda (s : State) (n : Nat) (x : Island) : (s.setIsland n x).agenda = s.agenda := rfl
@[simp] theorem setIsland_ev (s : State) (n : Nat) (x : Island) : (s.setIsland n x).ev = s.ev := rfl
@[simp] theorem setIsland_fresh (s : State) (n : Nat) (x : Island) : (s.setIsland n x).fresh = s.fresh := rfl
@[simp] theorem setIsland_ctxs (s : State) (n : Nat) (x : Island) : (s.setIsland n x).ctxs = s.ctxs := rfl
@[simp] theorem setIsland_saved (s : State) (n : Nat) (x : Island) : (s.setIsland n x).saved = s.saved := rfl
@[simp] theorem setIsland_cells (s : State) (n : Nat) (x : Island) : (s.setIsland n x).cells = s.cells := rfl
@[simp] theorem setIsland_parts (s : State) (n : Nat) (x : Island) : (s.setIsland n x).parts = s.parts := rfl
@[simp] theorem setIsland_chans (s : State) (n : Nat) (x : Island) : (s.setIsland n x).chans = s.chans := rfl
@[simp] theorem setIsland_bars (s : State) (n : Nat) (x : Island) : (s.setIsland n x).bars = s.bars := rfl
@[simp] theorem setIsland_launches (s : State) (n : Nat) (x : Island) : (s.setIsland n x).launches = s.launches := rfl
@[simp] theorem setIsland_copies (s : State) (n : Nat) (x : Island) : (s.setIsland n x).copies = s.copies := rfl
@[simp] theorem setIsland_dies (s : State) (n : Nat) (x : Island) : (s.setIsland n x).dies = s.dies := rfl
@[simp] theorem setIsland_islands (s : State) (n : Nat) (x : Island) : (s.setIsland n x).islands = put s.islands n x := rfl
@[simp] theorem setIsland_dev (s : State) (n : Nat) (x : Island) : (s.setIsland n x).dev = s.dev := rfl

/-! ### setChan -/

@[simp] theorem setChan_mem (s : State) (i : ChanId) (x : Chan) : (s.setChan i x).mem = s.mem := rfl
@[simp] theorem setChan_poison (s : State) (i : ChanId) (x : Chan) : (s.setChan i x).poison = s.poison := rfl
@[simp] theorem setChan_metaOk (s : State) (i : ChanId) (x : Chan) : (s.setChan i x).metaOk = s.metaOk := rfl
@[simp] theorem setChan_tableOld (s : State) (i : ChanId) (x : Chan) : (s.setChan i x).tableOld = s.tableOld := rfl
@[simp] theorem setChan_past (s : State) (i : ChanId) (x : Chan) : (s.setChan i x).past = s.past := rfl
@[simp] theorem setChan_cur (s : State) (i : ChanId) (x : Chan) : (s.setChan i x).cur = s.cur := rfl
@[simp] theorem setChan_agenda (s : State) (i : ChanId) (x : Chan) : (s.setChan i x).agenda = s.agenda := rfl
@[simp] theorem setChan_ev (s : State) (i : ChanId) (x : Chan) : (s.setChan i x).ev = s.ev := rfl
@[simp] theorem setChan_fresh (s : State) (i : ChanId) (x : Chan) : (s.setChan i x).fresh = s.fresh := rfl
@[simp] theorem setChan_ctxs (s : State) (i : ChanId) (x : Chan) : (s.setChan i x).ctxs = s.ctxs := rfl
@[simp] theorem setChan_saved (s : State) (i : ChanId) (x : Chan) : (s.setChan i x).saved = s.saved := rfl
@[simp] theorem setChan_cells (s : State) (i : ChanId) (x : Chan) : (s.setChan i x).cells = s.cells := rfl
@[simp] theorem setChan_parts (s : State) (i : ChanId) (x : Chan) : (s.setChan i x).parts = s.parts := rfl
@[simp] theorem setChan_chans (s : State) (i : ChanId) (x : Chan) : (s.setChan i x).chans = put s.chans i x := rfl
@[simp] theorem setChan_bars (s : State) (i : ChanId) (x : Chan) : (s.setChan i x).bars = s.bars := rfl
@[simp] theorem setChan_launches (s : State) (i : ChanId) (x : Chan) : (s.setChan i x).launches = s.launches := rfl
@[simp] theorem setChan_copies (s : State) (i : ChanId) (x : Chan) : (s.setChan i x).copies = s.copies := rfl
@[simp] theorem setChan_dies (s : State) (i : ChanId) (x : Chan) : (s.setChan i x).dies = s.dies := rfl
@[simp] theorem setChan_islands (s : State) (i : ChanId) (x : Chan) : (s.setChan i x).islands = s.islands := rfl
@[simp] theorem setChan_dev (s : State) (i : ChanId) (x : Chan) : (s.setChan i x).dev = s.dev := rfl

/-! ### write -/

@[simp] theorem write_mem (s : State) (l : List (Nat × Byte)) (b : List Nat) : (s.write l b).mem = Memory.setAll s.mem l := rfl
@[simp] theorem write_tableOld (s : State) (l : List (Nat × Byte)) (b : List Nat) : (s.write l b).tableOld = s.tableOld := rfl
@[simp] theorem write_past (s : State) (l : List (Nat × Byte)) (b : List Nat) : (s.write l b).past = s.past := rfl
@[simp] theorem write_cur (s : State) (l : List (Nat × Byte)) (b : List Nat) : (s.write l b).cur = s.cur := rfl
@[simp] theorem write_agenda (s : State) (l : List (Nat × Byte)) (b : List Nat) : (s.write l b).agenda = s.agenda := rfl
@[simp] theorem write_ev (s : State) (l : List (Nat × Byte)) (b : List Nat) : (s.write l b).ev = s.ev := rfl
@[simp] theorem write_fresh (s : State) (l : List (Nat × Byte)) (b : List Nat) : (s.write l b).fresh = s.fresh := rfl
@[simp] theorem write_ctxs (s : State) (l : List (Nat × Byte)) (b : List Nat) : (s.write l b).ctxs = s.ctxs := rfl
@[simp] theorem write_saved (s : State) (l : List (Nat × Byte)) (b : List Nat) : (s.write l b).saved = s.saved := rfl
@[simp] theorem write_cells (s : State) (l : List (Nat × Byte)) (b : List Nat) : (s.write l b).cells = s.cells := rfl
@[simp] theorem write_parts (s : State) (l : List (Nat × Byte)) (b : List Nat) : (s.write l b).parts = s.parts := rfl
@[simp] theorem write_chans (s : State) (l : List (Nat × Byte)) (b : List Nat) : (s.write l b).chans = s.chans := rfl
@[simp] theorem write_bars (s : State) (l : List (Nat × Byte)) (b : List Nat) : (s.write l b).bars = s.bars := rfl
@[simp] theorem write_launches (s : State) (l : List (Nat × Byte)) (b : List Nat) : (s.write l b).launches = s.launches := rfl
@[simp] theorem write_copies (s : State) (l : List (Nat × Byte)) (b : List Nat) : (s.write l b).copies = s.copies := rfl
@[simp] theorem write_dies (s : State) (l : List (Nat × Byte)) (b : List Nat) : (s.write l b).dies = s.dies := rfl
@[simp] theorem write_islands (s : State) (l : List (Nat × Byte)) (b : List Nat) : (s.write l b).islands = s.islands := rfl
@[simp] theorem write_dev (s : State) (l : List (Nat × Byte)) (b : List Nat) : (s.write l b).dev = s.dev := rfl

/-! ### Reading back -/

@[simp] theorem cx_setCx (s : State) (c : CtxId) (x : Ctx) : (s.setCx c x).cx c = x := by simp [State.cx]
theorem cx_setCx_other (s : State) {c d : CtxId} (x : Ctx) (h : d ≠ c) : (s.setCx c x).cx d = s.cx d := by
  simp [State.cx, find_put_other _ _ h]
@[simp] theorem me_setMe (s : State) (x : Ctx) : (s.setMe x).me = x := by simp [State.me, State.cx]
@[simp] theorem setCx_setCx (s : State) (c : CtxId) (x y : Ctx) : (s.setCx c x).setCx c y = s.setCx c y := by
  simp [State.setCx]
@[simp] theorem setMe_setMe (s : State) (x y : Ctx) : (s.setMe x).setMe y = s.setMe y := by simp [State.setMe, State.setCx]
theorem me_eq (s : State) : s.me = s.cx s.cur := rfl
theorem setMe_eq (s : State) (x : Ctx) : s.setMe x = s.setCx s.cur x := rfl
@[simp] theorem cell_setCell (s : State) (n : Nat) (x : Cell) : (s.setCell n x).cell n = x := by simp [State.cell]
theorem cell_setCell_other (s : State) {n m : Nat} (x : Cell) (h : m ≠ n) : (s.setCell n x).cell m = s.cell m := by
  simp [State.cell, find_put_other _ _ h]
@[simp] theorem part_setPart (s : State) (n : Nat) (x : Part) : (s.setPart n x).part n = x := by simp [State.part]
@[simp] theorem die_setDie (s : State) (n : Nat) (x : Die) : (s.setDie n x).die n = x := by simp [State.die]
@[simp] theorem island_setIsland (s : State) (n : Nat) (x : Island) : (s.setIsland n x).island n = x := by
  simp [State.island]
@[simp] theorem chan_setChan (s : State) (i : ChanId) (x : Chan) : (s.setChan i x).chan i = x := by simp [State.chan]

@[simp] theorem cell_setCx (s : State) (c : CtxId) (x : Ctx) (j : Nat) : (s.setCx c x).cell j = s.cell j := rfl
@[simp] theorem part_setCx (s : State) (c : CtxId) (x : Ctx) (j : Nat) : (s.setCx c x).part j = s.part j := rfl
@[simp] theorem die_setCx (s : State) (c : CtxId) (x : Ctx) (j : Nat) : (s.setCx c x).die j = s.die j := rfl
@[simp] theorem island_setCx (s : State) (c : CtxId) (x : Ctx) (j : Nat) : (s.setCx c x).island j = s.island j := rfl
@[simp] theorem chan_setCx (s : State) (c : CtxId) (x : Ctx) (j : ChanId) : (s.setCx c x).chan j = s.chan j := rfl
@[simp] theorem byte_setCx (s : State) (c : CtxId) (x : Ctx) (j : Nat) : (s.setCx c x).byte j = s.byte j := rfl
@[simp] theorem cell_setMe (s : State) (x : Ctx) (j : Nat) : (s.setMe x).cell j = s.cell j := rfl
@[simp] theorem part_setMe (s : State) (x : Ctx) (j : Nat) : (s.setMe x).part j = s.part j := rfl
@[simp] theorem die_setMe (s : State) (x : Ctx) (j : Nat) : (s.setMe x).die j = s.die j := rfl
@[simp] theorem island_setMe (s : State) (x : Ctx) (j : Nat) : (s.setMe x).island j = s.island j := rfl
@[simp] theorem chan_setMe (s : State) (x : Ctx) (j : ChanId) : (s.setMe x).chan j = s.chan j := rfl
@[simp] theorem byte_setMe (s : State) (x : Ctx) (j : Nat) : (s.setMe x).byte j = s.byte j := rfl
@[simp] theorem cx_setCell (s : State) (n : Nat) (x : Cell) (j : CtxId) : (s.setCell n x).cx j = s.cx j := rfl
@[simp] theorem part_setCell (s : State) (n : Nat) (x : Cell) (j : Nat) : (s.setCell n x).part j = s.part j := rfl
@[simp] theorem die_setCell (s : State) (n : Nat) (x : Cell) (j : Nat) : (s.setCell n x).die j = s.die j := rfl
@[simp] theorem island_setCell (s : State) (n : Nat) (x : Cell) (j : Nat) : (s.setCell n x).island j = s.island j := rfl
@[simp] theorem chan_setCell (s : State) (n : Nat) (x : Cell) (j : ChanId) : (s.setCell n x).chan j = s.chan j := rfl
@[simp] theorem byte_setCell (s : State) (n : Nat) (x : Cell) (j : Nat) : (s.setCell n x).byte j = s.byte j := rfl
@[simp] theorem cx_setPart (s : State) (n : Nat) (x : Part) (j : CtxId) : (s.setPart n x).cx j = s.cx j := rfl
@[simp] theorem cell_setPart (s : State) (n : Nat) (x : Part) (j : Nat) : (s.setPart n x).cell j = s.cell j := rfl
@[simp] theorem die_setPart (s : State) (n : Nat) (x : Part) (j : Nat) : (s.setPart n x).die j = s.die j := rfl
@[simp] theorem island_setPart (s : State) (n : Nat) (x : Part) (j : Nat) : (s.setPart n x).island j = s.island j := rfl
@[simp] theorem chan_setPart (s : State) (n : Nat) (x : Part) (j : ChanId) : (s.setPart n x).chan j = s.chan j := rfl
@[simp] theorem byte_setPart (s : State) (n : Nat) (x : Part) (j : Nat) : (s.setPart n x).byte j = s.byte j := rfl
@[simp] theorem cx_setDie (s : State) (n : Nat) (x : Die) (j : CtxId) : (s.setDie n x).cx j = s.cx j := rfl
@[simp] theorem cell_setDie (s : State) (n : Nat) (x : Die) (j : Nat) : (s.setDie n x).cell j = s.cell j := rfl
@[simp] theorem part_setDie (s : State) (n : Nat) (x : Die) (j : Nat) : (s.setDie n x).part j = s.part j := rfl
@[simp] theorem island_setDie (s : State) (n : Nat) (x : Die) (j : Nat) : (s.setDie n x).island j = s.island j := rfl
@[simp] theorem chan_setDie (s : State) (n : Nat) (x : Die) (j : ChanId) : (s.setDie n x).chan j = s.chan j := rfl
@[simp] theorem byte_setDie (s : State) (n : Nat) (x : Die) (j : Nat) : (s.setDie n x).byte j = s.byte j := rfl
@[simp] theorem cx_setIsland (s : State) (n : Nat) (x : Island) (j : CtxId) : (s.setIsland n x).cx j = s.cx j := rfl
@[simp] theorem cell_setIsland (s : State) (n : Nat) (x : Island) (j : Nat) : (s.setIsland n x).cell j = s.cell j := rfl
@[simp] theorem part_setIsland (s : State) (n : Nat) (x : Island) (j : Nat) : (s.setIsland n x).part j = s.part j := rfl
@[simp] theorem die_setIsland (s : State) (n : Nat) (x : Island) (j : Nat) : (s.setIsland n x).die j = s.die j := rfl
@[simp] theorem chan_setIsland (s : State) (n : Nat) (x : Island) (j : ChanId) : (s.setIsland n x).chan j = s.chan j := rfl
@[simp] theorem byte_setIsland (s : State) (n : Nat) (x : Island) (j : Nat) : (s.setIsland n x).byte j = s.byte j := rfl
@[simp] theorem cx_setChan (s : State) (i : ChanId) (x : Chan) (j : CtxId) : (s.setChan i x).cx j = s.cx j := rfl
@[simp] theorem cell_setChan (s : State) (i : ChanId) (x : Chan) (j : Nat) : (s.setChan i x).cell j = s.cell j := rfl
@[simp] theorem part_setChan (s : State) (i : ChanId) (x : Chan) (j : Nat) : (s.setChan i x).part j = s.part j := rfl
@[simp] theorem die_setChan (s : State) (i : ChanId) (x : Chan) (j : Nat) : (s.setChan i x).die j = s.die j := rfl
@[simp] theorem island_setChan (s : State) (i : ChanId) (x : Chan) (j : Nat) : (s.setChan i x).island j = s.island j := rfl
@[simp] theorem byte_setChan (s : State) (i : ChanId) (x : Chan) (j : Nat) : (s.setChan i x).byte j = s.byte j := rfl
@[simp] theorem me_setCell (s : State) (n : Nat) (x : Cell) : (s.setCell n x).me = s.me := rfl
@[simp] theorem me_setPart (s : State) (n : Nat) (x : Part) : (s.setPart n x).me = s.me := rfl
@[simp] theorem me_setDie (s : State) (n : Nat) (x : Die) : (s.setDie n x).me = s.me := rfl
@[simp] theorem me_setIsland (s : State) (n : Nat) (x : Island) : (s.setIsland n x).me = s.me := rfl
@[simp] theorem me_setChan (s : State) (i : ChanId) (x : Chan) : (s.setChan i x).me = s.me := rfl
@[simp] theorem me_write (s : State) (l : List (Nat × Byte)) (b : List Nat) : (s.write l b).me = s.me := rfl

end Sys2Proof.Laws
end

