-- ==== Sys2Proof/Laws/Ops.lean ====
section
/-! SUPPORT. The shared operations of the sequencer: what reading, marking and writing scalar registers does, when the checks pass, and what a
sequencer instruction leaves. -/

namespace Sys2Proof.Laws

open Sys2Proof Sys2Proof.Machine

/-! ### Scalar registers -/

/-- Writing a scalar register changes nothing but the scalar registers. -/
theorem writeS_frame (c : Ctx) (r : BitVec 6) (w : Word) (k : Tag) (h : Bool) : writeS c r w k h = { c with s := (writeS c r w k h).s } := by
  unfold writeS; split <;> rfl

/-- A last use changes nothing but the scalar registers. -/
theorem killS_frame (c : Ctx) (l : List (BitVec 6 × Bool)) : killS c l = { c with s := (killS c l).s } := by
  unfold killS
  split
  · rfl
  · clear * -
    induction l generalizing c with
    | nil => rfl
    | cons x l ih =>
      rw [List.foldl_cons]
      rw [ih]
      split <;> rfl

theorem pendS_frame (c : Ctx) (r : BitVec 6) (b : Bool) : pendS c r b = { c with s := (pendS c r b).s } := by
  unfold pendS; split <;> rfl

@[simp] theorem writeS_handler (c : Ctx) (r : BitVec 6) (w : Word) (k : Tag) (h : Bool) : (writeS c r w k h).handler = c.handler := by
  rw [writeS_frame]; rfl
@[simp] theorem killS_handler (c : Ctx) (l : List (BitVec 6 × Bool)) : (killS c l).handler = c.handler := by rw [killS_frame]; rfl
@[simp] theorem writeS_pc (c : Ctx) (r : BitVec 6) (w : Word) (k : Tag) (h : Bool) : (writeS c r w k h).pc = c.pc := by
  rw [writeS_frame]
@[simp] theorem killS_pc (c : Ctx) (l : List (BitVec 6 × Bool)) : (killS c l).pc = c.pc := by rw [killS_frame]
@[simp] theorem writeS_zero (c : Ctx) (w : Word) (k : Tag) (h : Bool) : writeS c 0 w k h = c := by simp [writeS]
@[simp] theorem killS_nil (c : Ctx) : killS c [] = c := by simp [killS]

/-- A last-use bit that is clear marks nothing. -/
theorem killS_unmarked (c : Ctx) (r : BitVec 6) (l : List (BitVec 6 × Bool)) : killS c ((r, false) :: l) = killS c l := by
  simp [killS]

theorem killS_append_unmarked (c : Ctx) (r : BitVec 6) (l : List (BitVec 6 × Bool)) : killS c (l ++ [(r, false)]) = killS c l := by
  simp [killS]

/-- Reading a scalar register does not depend on the contexts that the state holds. -/
@[simp] theorem readS_setMe (s : State) (x c : Ctx) (r : BitVec 6) : readS (s.setMe x) c r = readS s c r := rfl

/-! ### Checks -/

/-- What each scalar source must satisfy for the checks of a sequencer instruction to pass. -/
def sourceOk (c : Ctx) (k : Tag) (r : BitVec 6) : Prop :=
  r = 0 ∨ (c.s[r.toFin].pend = false ∧ (c.handler = true ∨ c.s[r.toFin].tag = k) ∧
    (c.handler = true ∨ c.chk = false ∨ c.s[r.toFin].dead = false) ∧ c.s[r.toFin].bad = false)

theorem badS_clean {c : Ctx} {k : Tag} {l : List (BitVec 6)} (h : ∀ r ∈ l, sourceOk c k r) : badS c l = false := by
  simp only [badS, List.any_eq_false, Bool.and_eq_true, bne_iff_ne, ne_eq, not_and, Bool.not_eq_true]
  intro r hr h0
  rcases h r hr with h1 | h1
  · exact absurd h1 h0
  · simpa using h1.2.2.2

theorem checkTagsS_ok {c : Ctx} {k : Tag} {l : List (BitVec 6)} (h : ∀ r ∈ l, sourceOk c k r) : checkTagsS c k l = .ok () := by
  unfold checkTagsS
  rw [if_neg, if_neg, if_neg]
  · simp only [Bool.and_eq_true, List.any_eq_true, bne_iff_ne, ne_eq, not_exists, not_and, Bool.not_eq_true', Bool.not_eq_true]
    intro hc r hr h0
    rcases h r hr with h1 | h1
    · exact absurd h1 h0
    · rcases h1.2.2.1 with h2 | h2 | h2
      · simp [h2] at hc
      · simp [h2] at hc
      · exact h2
  · simp only [Bool.and_eq_true, List.any_eq_true, bne_iff_ne, ne_eq, not_exists, not_and, Bool.not_eq_true', scalarTags,
      List.mem_map, List.mem_filter]
    rintro hc t ⟨r, ⟨hr, h0⟩, rfl⟩
    rcases h r hr with h1 | h1
    · exact absurd h1 h0
    · rcases h1.2.1 with h2 | h2
      · simp [h2] at hc
      · simpa using h2
  · simp only [List.any_eq_true, Bool.and_eq_true, bne_iff_ne, ne_eq, not_exists, not_and, Bool.not_eq_true]
    intro r hr h0
    rcases h r hr with h1 | h1
    · exact absurd h1 h0
    · exact h1.1

theorem checkS_ok {c : Ctx} {k : Tag} {l : List (BitVec 6)} (h : ∀ r ∈ l, sourceOk c k r) : checkS c k l = .ok () := by
  simp [checkS, checkTagsS_ok h, badS_clean h]

/-- An access whose sources hold no poison ends as its other checks say. -/
theorem lateBad_clean {c : Ctx} {l : List (BitVec 6)} {r : Res} (h : badS c l = false) : lateBad c l r = r := by
  unfold lateBad
  cases r <;> simp [h]

/-- What names a wait changes no result that is none. -/
theorem alsoWaits_ok {b : Bool} {w : WaitClass} {s : State} : alsoWaits b w (.ok s) = .ok s := rfl

theorem checkDest_ok {c : Ctx} {d : BitVec 6} (h : d = 0 ∨ c.s[d.toFin].pend = false) : checkDest c d = .ok () := by
  unfold checkDest
  rcases h with h | h
  · simp [h]
  · rw [if_neg]; simp [show c.s[d.toFin].pend = false from h, -BitVec.val_toFin, -Fin.getElem_fin]

/-! ### The outcome of a sequencer instruction -/

theorem finish_ok (s t : State) (i : Instr) : finish s i (.ok t) = .next (t.setMe { t.me with waiting := none }) := rfl
theorem finish_error (s : State) (i : Instr) (e : Raise) : finish s i (.error e) = .next (raised s s.cur s.me.pc (wordOf i) e) := rfl

/-- The state in which the executing context stands as `x` at its next word and waits for nothing. -/
def passed (s : State) (x : Ctx) : State := s.setMe { fallThrough x (x.pc + 8) with waiting := none }

@[simp] theorem byte_passed (s : State) (x : Ctx) (k : Nat) : (passed s x).byte k = s.byte k := rfl

theorem finish_advance (s t : State) (i : Instr) (x : Ctx) : finish s i (.ok (advance (t.setMe x))) = .next (passed t x) := by
  simp [finish_ok, advance, passed]

/-- A sequencer instruction whose clock is present runs, and the context goes on. -/
theorem onClock_ok {s t : State} {k : Tag} {c : Ctx} {run : State → Res} (h1 : rootForbidden s.me k = false)
    (h2 : presence s.me k = .ok (true, c)) (h3 : run (s.setMe c) = .ok t) : onClock s k run = .ok (advance t) := by
  simp [onClock, h1, h2, h3, Except.map]

/-- A sequencer instruction whose clock is absent is discarded (R179). -/
theorem onClock_absent {s : State} {k : Tag} {c : Ctx} {run : State → Res} (h1 : rootForbidden s.me k = false)
    (h2 : presence s.me k = .ok (false, c)) : onClock s k run = .ok (advance (s.setMe c)) := by
  simp [onClock, h1, h2]

/-- What ends the instruction under a present clock ends it. -/
theorem onClock_error {s : State} {k : Tag} {c : Ctx} {run : State → Res} {e : Raise} (h1 : rootForbidden s.me k = false)
    (h2 : presence s.me k = .ok (true, c)) (h3 : run (s.setMe c) = .error e) : onClock s k run = .error e := by
  simp [onClock, h1, h2, h3, Except.map]

/-- A scalar instruction whose clock is present and whose sources pass their checks writes its destination and goes on. -/
theorem scalarOp_ok {s : State} {k : Tag} {d : BitVec 6} {src : List (BitVec 6 × Bool)} {f : List Word → Word} {c : Ctx}
    (h1 : rootForbidden s.me k = false) (h2 : presence s.me k = .ok (true, c)) (h3 : ∀ x ∈ src, sourceOk c k x.1)
    (h4 : d = 0 ∨ c.s[d.toFin].pend = false) :
    scalarOp s k d src f =
      .ok (advance (s.setMe (writeS (killS c src) d (f (src.map fun x => readS s c x.1)) k c.handler))) := by
  refine onClock_ok h1 h2 ?_
  have h5 : checkS c k (src.map (·.1)) = .ok () := checkS_ok fun r hr => by
    obtain ⟨x, hx, rfl⟩ := List.mem_map.1 hr
    exact h3 x hx
  simp [h5, checkDest_ok h4, setS]

/-- A scalar instruction as the machine runs it. -/
theorem finish_scalarOp {s : State} {i : Instr} {k : Tag} {d : BitVec 6} {src : List (BitVec 6 × Bool)} {f : List Word → Word} {c : Ctx}
    (h1 : rootForbidden s.me k = false) (h2 : presence s.me k = .ok (true, c)) (h3 : ∀ x ∈ src, sourceOk c k x.1)
    (h4 : d = 0 ∨ c.s[d.toFin].pend = false) :
    finish s i (scalarOp s k d src f) =
      .next (passed s (writeS (killS c src) d (f (src.map fun x => readS s c x.1)) k c.handler)) := by
  rw [scalarOp_ok h1 h2 h3 h4, finish_advance]

/-! ### Control instructions -/

/-- What each scalar source of a control instruction must satisfy (R233). -/
def ctlOk (c : Ctx) (r : BitVec 6) : Prop :=
  r = 0 ∨ (c.s[r.toFin].pend = false ∧ (c.handler = true ∨ c.chk = false ∨ c.s[r.toFin].dead = false) ∧ c.s[r.toFin].bad = false)

theorem ctlReads_ok {s : State} {src : List (BitVec 6 × Bool)} (h : ∀ x ∈ src, ctlOk s.me x.1) :
    ctlReads s src = .ok ((src.map fun x => readS s s.me x.1), killS s.me src) := by
  unfold ctlReads
  dsimp only
  rw [if_neg, if_neg, if_neg]
  · simp
  · simp only [badS, List.any_map, List.any_eq_true, Bool.and_eq_true, bne_iff_ne, ne_eq, not_exists, not_and, Function.comp]
    intro r hr h0
    rcases h r hr with h1 | h1
    · exact absurd h1 h0
    · simpa using h1.2.2
  · simp only [List.any_map, Bool.and_eq_true, List.any_eq_true, bne_iff_ne, ne_eq, not_exists, not_and, Bool.not_eq_true', Bool.not_eq_true,
      Function.comp]
    intro hc r hr h0
    rcases h r hr with h1 | h1
    · exact absurd h1 h0
    · rcases h1.2.1 with h2 | h2 | h2
      · simp [h2] at hc
      · simp [h2] at hc
      · exact h2
  · simp only [List.any_map, List.any_eq_true, Bool.and_eq_true, bne_iff_ne, ne_eq, not_exists, not_and, Bool.not_eq_true, Function.comp]
    intro r hr h0
    rcases h r hr with h1 | h1
    · exact absurd h1 h0
    · exact h1.1

end Sys2Proof.Laws
end

