-- ==== Sys2Proof/Laws/Route.lean ====
section
/-! SUPPORT. Routing an instruction into an empty queue: the entry that is captured, and the state in which it issues. -/

namespace Sys2Proof.Laws

open Sys2Proof Sys2Proof.Machine

/-- The entry that routing captures for a present instruction with scalar sources `src`; `c` is the context with the presence of its clock fixed. -/
def captured (s : State) (c : Ctx) (i : Instr) (src : List (BitVec 6 × Bool)) : Entry :=
  { i := i, pc := c.pc, id := c.nextId, inst := clockInstant c (clkOf i), opened := c.iopen, present := true, hand := c.handler, lc := c.lc,
    iter := iterationOf c (clkOf i), scal := capture s c (clkOf i) src, stags := reportTags c (src.map (·.1)),
    sdead := c.chk && !c.handler && src.any fun x => x.1 != 0 && c.s[x.1.toFin].dead }

/-- The tokens that an instruction pops are there and its pushes have room (R163). -/
def tokensReady (c : Ctx) (q : Queue) (i : Instr) : Prop :=
  (∀ f ∈ popsOf q (tokOf i), c.tok[f].fresh < c.tok[f].avail) ∧ ∀ f ∈ pushesOf q (tokOf i), c.tok[f].avail + c.tok[f].held < 8

/-- The tokens taken and the slots reserved (R163). -/
def tookTokens (c : Ctx) (q : Queue) (i : Instr) : Ctx :=
  (pushesOf q (tokOf i)).foldl (fun c f => tokAdd c f 0 1) ((popsOf q (tokOf i)).foldl (fun c f => tokAdd c f (-1) 0) c)

theorem takeTokens_ok {c : Ctx} {q : Queue} {i : Instr} (h : tokensReady c q i) :
    takeTokens c (popsOf q (tokOf i)) (pushesOf q (tokOf i)) = .ok (tookTokens c q i) := by
  unfold takeTokens
  have h1 : (popsOf q (tokOf i)).find? (fun f => decide (c.tok[f].avail ≤ c.tok[f].fresh)) = none := by
    rw [List.find?_eq_none]
    intro f hf
    have := h.1 f hf
    simp only [decide_eq_true_eq]
    omega
  have h2 : (pushesOf q (tokOf i)).find? (fun f => decide (8 ≤ c.tok[f].avail + c.tok[f].held)) = none := by
    rw [List.find?_eq_none]
    intro f hf
    have := h.2 f hf
    simp only [decide_eq_true_eq]
    omega
  rw [h1]
  simp only
  rw [h2]
  rfl

/-- The context in which the entry issues, once it has left its queue: its last uses marked, its destinations pending, its tokens taken. -/
def issuing (c : Ctx) (q : Queue) (i : Instr) (src : List (BitVec 6 × Bool)) (dest : List (BitVec 6)) : Ctx :=
  tookTokens { dest.foldl (fun c d => pendS c d true) (killS c src) with nextId := c.nextId + 1 } q i

theorem setQueue_same {x : Ctx} {q : Queue} {e : Entry} (h : x.queue q = []) :
    (x.setQueue q (x.queue q ++ [e])).setQueue q [] = x := by
  cases q <;> cases x <;> simp_all [Ctx.queue, Ctx.setQueue]

theorem queue_setQueue (x : Ctx) (q : Queue) (l : List Entry) : (x.setQueue q l).queue q = l := by cases q <;> rfl

theorem pends_frame (c : Ctx) (l : List (BitVec 6)) : l.foldl (fun c d => pendS c d true) c =
    { c with s := (l.foldl (fun c d => pendS c d true) c).s } := by
  induction l generalizing c with
  | nil => rfl
  | cons d l ih =>
    rw [List.foldl_cons, ih, pendS_frame]

theorem cleanRegs_clean {c : Ctx} (l : List (RegFile × Nat)) (h : c.badRegs = []) : cleanRegs c l = c := by simp [cleanRegs, h]

theorem tokAdd_frame (c : Ctx) (f : Fin 4) (a b : Int) : tokAdd c f a b = { c with tok := (tokAdd c f a b).tok } := rfl

theorem tokFold_frame (c : Ctx) (l : List (Fin 4)) (a b : Int) : l.foldl (fun c f => tokAdd c f a b) c =
    { c with tok := (l.foldl (fun c f => tokAdd c f a b) c).tok } := by
  induction l generalizing c with
  | nil => rfl
  | cons d l ih => rw [List.foldl_cons, ih]; rfl

theorem tookTokens_frame (c : Ctx) (q : Queue) (i : Instr) : tookTokens c q i = { c with tok := (tookTokens c q i).tok } := by
  unfold tookTokens
  rw [tokFold_frame, tokFold_frame]

theorem pushTokens_frame (c : Ctx) (l : List (Fin 4)) : pushTokens c l = { c with tok := (pushTokens c l).tok } := by
  unfold pushTokens
  induction l generalizing c with
  | nil => rfl
  | cons d l ih => rw [List.foldl_cons, ih]; rfl

/-- The issuing context differs from the routed one in scalar registers, tokens and the next entry number alone. -/
theorem issuing_frame (c : Ctx) (q : Queue) (i : Instr) (src : List (BitVec 6 × Bool)) (dest : List (BitVec 6)) :
    issuing c q i src dest =
      { c with s := (issuing c q i src dest).s, tok := (issuing c q i src dest).tok, nextId := c.nextId + 1 } := by
  unfold issuing
  rw [tookTokens_frame, pends_frame, killS_frame]

theorem tokensReady_congr {c d : Ctx} {q : Queue} {i : Instr} (h : c.tok = d.tok) : tokensReady c q i ↔ tokensReady d q i := by
  unfold tokensReady; rw [h]

theorem queue_congr {c d : Ctx} (q : Queue) (h : { c with s := d.s, nextId := d.nextId } = d) : c.queue q = d.queue q := by
  rw [← h]; cases q <;> rfl

/-- What the pushes of an instruction that has issued do: they become tokens at once, but where they wait for a completion (R163). -/
def pushesNow (c : Ctx) (q : Queue) (i : Instr) : Ctx := if defers i then c else pushTokens c (pushesOf q (tokOf i))

/-- Nothing holds a queue back as a whole: no nest that a resumption has still to reissue (R298), and no store that finds the forwarding table
full (R58). -/
def Flows (c : Ctx) (q : Queue) : Prop :=
  (q = .c → c.reissue = none) ∧ (q = .l → c.stores.length + (c.qS.filter (·.kind == .instr)).length ≤ 16)

theorem heldBack_none {c : Ctx} {q : Queue} (h : Flows c q) (e : Entry) : heldBack c q e = none := by
  have hs : tableStalls c q e = false := by
    unfold tableStalls
    rw [Bool.and_eq_false_iff, decide_eq_false_iff_not, decide_eq_false_iff_not]
    by_cases hq : q = .l
    · refine Or.inr fun hh => ?_
      have h1 := List.length_filter_le (fun x : Store => decide (x.id < e.id)) c.stores
      have h2 : (c.qS.filter fun x => x.kind == .instr && isStore x.i && x.present && x.err.isNone && decide (x.id < e.id)).length ≤
          (c.qS.filter (·.kind == .instr)).length := by
        rw [← List.countP_eq_length_filter, ← List.countP_eq_length_filter]
        refine List.countP_mono_left fun x _ hx => ?_
        simp only [Bool.and_eq_true] at hx
        exact hx.1.1.1.1
      have := h.2 hq
      omega
    · exact Or.inl hq
  unfold heldBack
  rw [hs]
  by_cases hq : q = .c
  · simp [h.1 hq]
  · simp [hq]

/-- No earlier fault and no poison goes with an entry (R65). -/
def Clean (e : Entry) : Prop :=
  e.err = none ∧ e.bare = false ∧ e.sbad = false ∧ e.dataBad = false

/-- The issue of an entry whose clock is present, where no register file holds poison. -/
theorem issueWith_ok {s t : State} {i : Instr} {q : Queue} {act : Entry → State → Res} {e : Entry} (hf : Flows s.me q) (he : Clean e) (hi : e.i = i)
    (hp : e.present = true) (ht : tokensReady s.me q i) (hb : s.me.badRegs = [])
    (hact : act e (s.setMe (tookTokens s.me q i)) = .ok t) (htb : t.me.badRegs = []) :
    issueWith q act e s = .ok (t.setMe (pushesNow t.me q i)) := by
  have h2 : (tookTokens s.me q i).badRegs = [] := by rw [tookTokens_frame]; exact hb
  have h3 : (fileUses (wordOf i)).any (tookTokens s.me q i).badRegs.contains = false := by simp [h2]
  have k1 := heldBack_none hf e
  obtain ⟨k2, k3, k4, k5⟩ := he
  unfold issueWith
  rw [k1]
  unfold issueOpen
  simp only [ k2, k3, k4, k5, Bool.false_or, hi, takeTokens_ok ht, hp, Bool.not_true, Bool.false_eq_true, if_false, me_setMe, h3, hact, cleanRegs_clean _ htb, setMe_setMe]
  unfold pushesNow
  split <;> rfl

/-- An instruction that is routed into its empty queue, with no companion entries, issues at once: its action runs on the issuing context, and
the sequencer goes on. -/
theorem routeWith_issues {s t t1 : State} {i : Instr} {q : Queue} {src : List (BitVec 6 × Bool)} {dest : List (BitVec 6)}
    {stage : Entry → State → Except Raise (Entry × State)} {act : Entry → State → Res} {c : Ctx} {ent : Entry}
    (hq : c.queue q = []) (hc : c.qC.length < 32)
    (hs : ∀ x ∈ src, x.1 = 0 ∨ (c.s[x.1.toFin].pend = false ∧ c.s[x.1.toFin].bad = false))
    (hd : ∀ d ∈ dest, d = 0 ∨ c.s[d.toFin].pend = false) (hb : c.badRegs = [])
    (hst : stage (captured s c i src) (s.setMe c) = .ok (ent, t1)) (he : Clean ent) (hi : ent.i = i) (hp : ent.present = true)
    (hk : ent.kind = .instr) (hq1 : t1.me.queue q = []) (hb1 : t1.me.badRegs = [])
    (ht : tokensReady t1.me q i) (hf : Flows t1.me q)
    (hact : act ent (t1.setMe (issuing t1.me q i src dest)) = .ok t) (htb : t.me.badRegs = []) :
    routeWith s i q { src := src, dest := dest, stage := stage } act none (.ok (true, c)) =
      .ok (advance (t.setMe (pushesNow t.me q i))) := by
  have h1 : ((src.map (·.1) ++ dest).any fun x => x != 0 && c.s[x.toFin].pend) = false := by
    rw [List.any_eq_false]
    intro x hx
    rcases List.mem_append.1 hx with hx | hx
    · obtain ⟨y, hy, rfl⟩ := List.mem_map.1 hx
      rcases hs y hy with h | h
      · simp [h]
      · simp [show c.s[y.1.toFin].pend = false from h.1, -BitVec.val_toFin, -Fin.getElem_fin]
    · rcases hd x hx with h | h
      · simp [h]
      · simp [show c.s[x.toFin].pend = false from h, -BitVec.val_toFin, -Fin.getElem_fin]
  have h2 : badS c (src.map (·.1)) = false := by
    unfold badS
    rw [List.any_eq_false]
    intro x hx
    obtain ⟨y, hy, rfl⟩ := List.mem_map.1 hx
    rcases hs y hy with h | h
    · simp [h]
    · simp [show c.s[y.1.toFin].bad = false from h.2, -BitVec.val_toFin, -Fin.getElem_fin]
  have h3 : ((streamUses i).any fun n => c.badRegs.contains (RegFile.a, n)) = false := by simp [hb]
  have h4 : ¬ 32 < c.qC.length + ([] : List EntryKind).length + (if q = .c then 1 else 0) := by
    cases q
    · simp; omega
    · have : c.qC = [] := hq
      simp [this]
    · simp; omega
  have hqz : ¬ 32 ≤ (c.queue q).length := by simp [hq]
  have hlc : badLc c = 0 := by simp [badLc, hb]
  unfold routeWith
  simp only [Bool.not_true, Bool.false_and, Bool.true_and, Bool.false_eq_true, if_false, hqz, hlc, h4, h1, h2, h3, Bool.or_self]
  have h5 : stage
      { i := i, pc := c.pc, id := c.nextId, inst := clockInstant c (clkOf i), opened := c.iopen, present := true, hand := c.handler, lc := c.lc,
        iter := iterationOf c (clkOf i), scal := capture (s.setMe c) c (clkOf i) src, stags := reportTags c (src.map (·.1)),
        sdead := c.chk && !c.handler && src.any fun x => x.1 != 0 && c.s[x.1.toFin].dead } (s.setMe c) = .ok (ent, t1) := hst
  simp only [h5]
  generalize hdd : dest.foldl (fun c d => pendS c d true) (killS t1.me src) = d
  have hdf : { t1.me with s := d.s } = d := by rw [← hdd, pends_frame, killS_frame]
  have hdq : d.queue q = [] := by rw [← hdf]; cases q <;> exact hq1
  have hdb : d.badRegs = [] := by rw [← hdf]; exact hb1
  have hdt : d.tok = t1.me.tok := by rw [← hdf]
  have hff : Flows { d with nextId := d.nextId + 1 } q := by rw [← hdf]; exact hf
  rw [cleanRegs_clean _ hdb]
  have hn : ({ d with nextId := d.nextId + 1, qC := d.qC ++ companions ent [] } : Ctx) = { d with nextId := d.nextId + 1 } := by
    simp [companions]
  rw [hn]
  have hen : enqueue (t1.setMe { d with nextId := d.nextId + 1 }) q ent =
      t1.setMe (({ d with nextId := d.nextId + 1 } : Ctx).setQueue q [ent]) := by
    have : ({ d with nextId := d.nextId + 1 } : Ctx).queue q = [] := by rw [← hdq]; cases q <;> rfl
    unfold enqueue
    simp [this]
  rw [hen]
  have hpass : (if d.qC = [] then passHead (t1.setMe (({ d with nextId := d.nextId + 1 } : Ctx).setQueue q [ent])) else
      .ok (t1.setMe (({ d with nextId := d.nextId + 1 } : Ctx).setQueue q [ent]))) =
      .ok (t1.setMe (({ d with nextId := d.nextId + 1 } : Ctx).setQueue q [ent])) := by
    split
    · rename_i hz
      unfold passHead
      rw [me_setMe]
      cases q
      · simp [Ctx.setQueue, hz]
      · simp [Ctx.setQueue, hk]
      · simp [Ctx.setQueue, hz]
    · rfl
  rw [hpass]
  simp only [hdq, if_true]
  unfold tryHead
  rw [me_setMe, queue_setQueue]
  simp only [setMe_setMe]
  have hback : (({ d with nextId := d.nextId + 1 } : Ctx).setQueue q [ent]).setQueue q [] = { d with nextId := d.nextId + 1 } := by
    have : ({ d with nextId := d.nextId + 1 } : Ctx).queue q = [] := by rw [← hdq]; cases q <;> rfl
    have h := setQueue_same (x := { d with nextId := d.nextId + 1 }) (e := ent) this
    rw [this] at h
    exact h
  rw [hback]
  have hiss : issuing t1.me q i src dest = tookTokens { d with nextId := d.nextId + 1 } q i := by
    unfold issuing
    rw [hdd]
    congr 1
    rw [← hdf]
  rw [issueWith_ok (by rw [me_setMe]; exact hff) he hi hp (by rw [me_setMe]; exact (tokensReady_congr (by exact hdt)).2 ht) (by rw [me_setMe]; exact hdb)
    (by rw [me_setMe, setMe_setMe, ← hiss]; exact hact) htb]
  simp [Except.map]

/-- An instruction that runs on its own clock and issues at once, as the machine runs it. -/
theorem finish_routeTo {s t t1 : State} {i : Instr} {q : Queue} {src : List (BitVec 6 × Bool)} {dest : List (BitVec 6)}
    {stage : Entry → State → Except Raise (Entry × State)} {act : Entry → State → Res} {c : Ctx} {ent : Entry}
    (h1 : rootForbidden s.me (clkOf i) = false) (h2 : presence s.me (clkOf i) = .ok (true, c))
    (hq : c.queue q = []) (hc : c.qC.length < 32)
    (hs : ∀ x ∈ src, x.1 = 0 ∨ (c.s[x.1.toFin].pend = false ∧ c.s[x.1.toFin].bad = false))
    (hd : ∀ d ∈ dest, d = 0 ∨ c.s[d.toFin].pend = false) (hb : c.badRegs = [])
    (hst : stage (captured s c i src) (s.setMe c) = .ok (ent, t1)) (he : Clean ent) (hi : ent.i = i) (hp : ent.present = true)
    (hk : ent.kind = .instr) (hq1 : t1.me.queue q = []) (hb1 : t1.me.badRegs = [])
    (ht : tokensReady t1.me q i) (hf : Flows t1.me q)
    (hact : act ent (t1.setMe (issuing t1.me q i src dest)) = .ok t) (htb : t.me.badRegs = []) :
    finish s i (routeTo s i q { src := src, dest := dest, stage := stage } act) = .next (passed t (pushesNow t.me q i)) := by
  unfold routeTo
  rw [h1, h2, if_neg (by simp), routeWith_issues hq hc hs hd hb hst he hi hp hk hq1 hb1 ht hf hact htb, finish_advance]

/-- The same for an instruction without work at its address stage. -/
theorem finish_route {s t : State} {i : Instr} {q : Queue} {src : List (BitVec 6 × Bool)} {dest : List (BitVec 6)}
    {act : Entry → State → Res} {c : Ctx}
    (h1 : rootForbidden s.me (clkOf i) = false) (h2 : presence s.me (clkOf i) = .ok (true, c))
    (hq : c.queue q = []) (hc : c.qC.length < 32)
    (hs : ∀ x ∈ src, x.1 = 0 ∨ (c.s[x.1.toFin].pend = false ∧ c.s[x.1.toFin].bad = false))
    (hd : ∀ d ∈ dest, d = 0 ∨ c.s[d.toFin].pend = false) (hb : c.badRegs = []) (ht : tokensReady c q i) (hf : Flows c q)
    (hact : act (captured s c i src) (s.setMe (issuing c q i src dest)) = .ok t) (htb : t.me.badRegs = []) :
    finish s i (routeTo s i q { src := src, dest := dest } act) = .next (passed t (pushesNow t.me q i)) :=
  finish_routeTo (t1 := s.setMe c) h1 h2 hq hc hs hd hb rfl ⟨rfl, rfl, rfl, rfl⟩ rfl rfl rfl (by rw [me_setMe]; exact hq) (by rw [me_setMe]; exact hb)
    (by rw [me_setMe]; exact ht) (by rw [me_setMe]; exact hf) (by rw [me_setMe, setMe_setMe]; exact hact) htb

end Sys2Proof.Laws
end

