-- ==== Sys2Proof/Laws/Vector.lean ====
section
/-! SUPPORT. The operands of the C queue: when the checks on them pass, what reading them gives, and what the frame of a lane operation does. -/

namespace Sys2Proof.Laws

open Sys2Proof Sys2Proof.Machine

/-- A vector operand field can be read by an entry on clock `k`: no ACCRD has still to write it, and the checks on it pass (R164, R178, R215, R292, R350). -/
def fieldOk (c : Ctx) (k : Tag) (hand : Bool) (f : BitVec 6) : Prop :=
  match vsrc f with
  | .reg r => (hand = true ∨ c.v[r.toFin].tag = k) ∧ (hand = true ∨ c.chk = false ∨ c.v[r.toFin].dead = false) ∧ c.v[r.toFin].bad = 0 ∧
    c.v[r.toFin].pend = false
  | .nq d => ∃ x l, c.nq[d] = x :: l ∧ (hand = true ∨ x.tag = k) ∧ x.bad = 0
  | .zero => True

/-- What a vector operand field reads as. -/
def fieldVal (s : State) (c : Ctx) (hand : Bool) (f : BitVec 6) : Vec :=
  match vsrc f with
  | .reg r => readV s c r hand
  | .nq d => ((c.nq[d]).headD {}).val
  | .zero => 0

theorem readSrc_ok {s : State} {k : Tag} {hand : Bool} {f : BitVec 6} (h : fieldOk s.me k hand f) :
    ∃ v, readSrc s hand f = .ok v ∧ v.val = fieldVal s s.me hand f ∧ (∀ t, v.tag = some t → hand = true ∨ t = k) ∧
      (hand = true ∨ s.me.chk = false ∨ v.dead = false) ∧ v.bad = false := by
  unfold readSrc fieldVal
  unfold fieldOk at h
  cases hf : vsrc f with
  | reg r =>
    rw [hf] at h
    refine ⟨⟨readV s s.me r hand, some s.me.v[r.toFin].tag, s.me.v[r.toFin].dead, s.me.v[r.toFin].bad != 0, false⟩,
      by simp only [h.2.2.2, Bool.false_eq_true, if_false], rfl, ?_, h.2.1, ?_⟩
    · rintro t ⟨rfl⟩; exact h.1
    · simp only [h.2.2.1, bne_self_eq_false]
  | nq d =>
    rw [hf] at h
    obtain ⟨x, l, h1, h2, h3⟩ := h
    have : nqHead s d = .ok x := by simp only [nqHead, h1]
    refine ⟨⟨x.val, some x.tag, false, x.bad != 0, true⟩, by simp only [this, Except.map], by simp only [h1, List.headD], ?_, .inr (.inr rfl), ?_⟩
    · rintro t ⟨rfl⟩; exact h2
    · simp only [h3, bne_self_eq_false]
  | zero => exact ⟨{}, rfl, rfl, by simp, .inr (.inr rfl), rfl⟩

theorem readAll_ok {s : State} {k : Tag} {hand : Bool} {fs : List (BitVec 6)} (h : ∀ f ∈ fs, fieldOk s.me k hand f) :
    ∃ vs, readAll s hand fs = .ok vs ∧ vs.map (·.val) = fs.map (fieldVal s s.me hand) ∧
      (∀ v ∈ vs, (∀ t, v.tag = some t → hand = true ∨ t = k) ∧ (hand = true ∨ s.me.chk = false ∨ v.dead = false) ∧ v.bad = false) := by
  induction fs with
  | nil => exact ⟨[], rfl, rfl, by simp⟩
  | cons f fs ih =>
    obtain ⟨v, hv, h1, h2⟩ := readSrc_ok (h f (by simp))
    obtain ⟨vs, hvs, h3, h4⟩ := ih fun g hg => h g (by simp [hg])
    refine ⟨v :: vs, by simp only [readAll, hv, hvs, Except.map], by simp [h1, h3], ?_⟩
    intro w hw
    rcases List.mem_cons.1 hw with rfl | hw
    · exact h2
    · exact h4 w hw

/-- The captured scalars of an entry carry its clock and none was read dead. -/
def scalarsOk (e : Entry) : Prop := e.hand = true ∨ ((∀ x ∈ e.scal, x.2 = clkOf e.i) ∧ e.sdead = false)

theorem checkTags_ok {s : State} {e : Entry} {tags : List (Option Tag)} {dead : Bool} (h1 : scalarsOk e)
    (h2 : ∀ o ∈ tags, ∀ t, o = some t → e.hand = true ∨ t = clkOf e.i) (h3 : e.hand = true ∨ s.me.chk = false ∨ dead = false) :
    checkTags s e tags dead = .ok () := by
  unfold checkTags
  by_cases hh : e.hand = true
  · simp [hh]
  · have h1' := h1.resolve_left hh
    have h2' : (e.scal.any (·.2 != clkOf e.i) || tags.any fun t => t.getD (clkOf e.i) != clkOf e.i) = false := by
      rw [Bool.or_eq_false_iff, List.any_eq_false, List.any_eq_false]
      refine ⟨fun x hx => by simp [h1'.1 x hx], fun o ho => ?_⟩
      cases o with
      | none => simp
      | some t => simp [(h2 _ ho t rfl).resolve_left hh]
    have h3' : (s.me.chk && dead) = false := by rcases h3.resolve_left hh with h | h <;> simp [h]
    simp only [h2', Bool.and_false, Bool.false_eq_true, if_false, h1'.2, h3', Bool.or_false]

/-- An output queue has a neighbour of the same partition with a free slot (R164, R165); other destinations are always ready. -/
def outReady (s : State) (f : BitVec 6) : Prop :=
  match vsrc f with
  | .nq d => ∃ n, neighbour s.cur.cell d = some n ∧ n ≠ s.cur.cell ∧ samePart s n = true ∧
      ∀ b : Fin 4, b.val = opposite d → ((s.cx ⟨n, s.cur.slot⟩).nq[b]).length < 4
  | _ => True

theorem outErr_none {s : State} {d : BitVec 6} (h : outReady s d) : outErr s [d] = none := by
  unfold outReady at h
  unfold outErr
  simp only [List.findSome?_cons, List.findSome?_nil]
  cases hf : vsrc d with
  | reg r => rfl
  | zero => rfl
  | nq k =>
    rw [hf] at h
    obtain ⟨n, h1, h2, h3, h4⟩ := h
    have h5 := h4 ⟨opposite k, by unfold opposite; omega⟩ rfl
    simp only [nqPush, h1, h3, Bool.not_true, Bool.false_eq_true, if_false]
    rw [if_neg (by simpa using h5)]

theorem readSrcs_ok {s : State} {e : Entry} {fs ds : List (BitVec 6)} (h1 : scalarsOk e) (h2 : ∀ f ∈ fs, fieldOk s.me (clkOf e.i) e.hand f)
    (ho : outErr s ds = none) : ∃ vs, readSrcs s e fs ds = .ok vs ∧ vs.map (·.val) = fs.map (fieldVal s s.me e.hand) := by
  obtain ⟨vs, hvs, hv, h3⟩ := readAll_ok h2
  refine ⟨vs, ?_, hv⟩
  have ht : checkTags s e (vs.map (·.tag)) (vs.any (·.dead)) = .ok () := by
    refine checkTags_ok h1 ?_ ?_
    · intro o ho t ht
      obtain ⟨v, hv, hvt⟩ := List.mem_map.1 ho
      exact (h3 v hv).1 t (hvt.trans ht)
    · by_cases hh : e.hand = true
      · exact .inl hh
      · by_cases hc : s.me.chk = false
        · exact .inr (.inl hc)
        · right; right
          rw [List.any_eq_false]
          intro v hv
          rcases (h3 v hv).2.1 with h | h | h
          · exact absurd h hh
          · exact absurd h hc
          · simp [h]
  have hb : checkBad vs = .ok () := by
    unfold checkBad
    have : vs.find? (·.bad) = none := by
      rw [List.find?_eq_none]
      intro v hv
      simp [(h3 v hv).2.2]
    rw [this]
  unfold readSrcs
  simp only [hvs, ht, ho, hb]

theorem takeSrcs_ok {s : State} {e : Entry} {srcs : List (BitVec 6 × Bool)} {ds : List (BitVec 6)} (h1 : scalarsOk e)
    (h2 : ∀ x ∈ srcs, fieldOk s.me (clkOf e.i) e.hand x.1) (ho : outErr s ds = none) :
    takeSrcs s e srcs ds = .ok (srcs.map fun x => fieldVal s s.me e.hand x.1, s.setMe (useSrcs s.me srcs e.hand)) := by
  obtain ⟨vs, hvs, hv⟩ := readSrcs_ok (fs := srcs.map (·.1)) h1 (by
    intro f hf
    obtain ⟨x, hx, rfl⟩ := List.mem_map.1 hf
    exact h2 x hx) ho
  unfold takeSrcs
  simp only [hvs, hv, List.map_map]
  rfl

/-- The frame of a lane operation (R260): the value that it writes, lane by lane. -/
theorem runLanes_eq {s : State} {e : Entry} {srcs : List (BitVec 6 × Bool)} {d : BitVec 6} {me : Bool} {msk : BitVec 3} {w : Nat}
    {f : List Vec → Nat → Nat} (h1 : scalarsOk e) (h2 : ∀ x ∈ srcs, fieldOk s.me (clkOf e.i) e.hand x.1)
    (h3 : me = true → isReg d = true → fieldOk s.me (clkOf e.i) e.hand d) (ho : outErr s [d] = none) :
    runLanes s e srcs d me msk w f =
      writeDst (s.setMe (useSrcs s.me srcs e.hand)) d
        (ofLanes w ((List.range (4096 / w)).map fun i =>
          if active s.me me msk i then
            f (srcs.map (fun x => fieldVal s s.me e.hand x.1) ++ (if me && isReg d then [fieldVal s s.me e.hand d] else [])) i
          else lane (if me && isReg d then fieldVal s s.me e.hand d else 0) w i)) (clkOf e.i) e.hand := by
  obtain ⟨vs, hvs, hv⟩ := readSrcs_ok (s := s) (e := e) (fs := srcs.map (·.1) ++ (if me && isReg d then [d] else [])) h1 (by
    intro g hg
    rcases List.mem_append.1 hg with hg | hg
    · obtain ⟨x, hx, rfl⟩ := List.mem_map.1 hg
      exact h2 x hx
    · split at hg
      · rename_i hk
        simp only [Bool.and_eq_true] at hk
        rw [List.mem_singleton] at hg
        exact hg ▸ h3 hk.1 hk.2
      · simp at hg) ho
  unfold runLanes
  simp only [hvs, hv]
  by_cases hk : (me && isReg d) = true
  · simp only [hk, if_true, List.map_append, List.map_map, List.map_cons, List.map_nil, List.getLast?_concat, Option.getD_some]
    rfl
  · simp only [hk, Bool.false_eq_true, if_false, List.append_nil, List.map_map]
    rfl

/-! ### Results -/

theorem issuing_v (c : Ctx) (q i src dest) : (issuing c q i src dest).v = c.v := by rw [issuing_frame]
theorem fieldVal_congr {s s' : State} {c c' : Ctx} (hf : s.fresh = s'.fresh) (hv : c.v = c'.v) (hn : c.nq = c'.nq) (h f) : fieldVal s c h f = fieldVal s' c' h f := by
  unfold fieldVal readV State.free; rw [hf, hv, hn]
theorem fieldOk_congr {c c' : Ctx} {k h f} (hv : c.v = c'.v) (hn : c.nq = c'.nq) (hc : c.chk = c'.chk) (x : fieldOk c k h f) : fieldOk c' k h f := by
  unfold fieldOk at *; rw [← hv, ← hn, ← hc]; exact x
theorem writeDst_bad {s u : State} {f w k h} (he : writeDst s f w k h = .ok u) (hb : s.me.badRegs = []) : u.me.badRegs = [] := by
  unfold writeDst at he
  split at he
  · split at he
    · simp at he
    · injection he with he; subst he; rw [me_setMe]; exact hb
  · unfold nqPush at he
    split at he
    · simp at he
    · split at he
      · simp at he
      · dsimp only at he
        split at he
        · simp at he
        · injection he with he
          subst he
          rename_i n _ _ _
          by_cases hh : s.cur = ⟨n, s.cur.slot⟩
          · rw [me_eq, setCx_cur, ← hh, cx_setCx]; exact hb
          · rw [me_eq, setCx_cur, cx_setCx_other _ _ hh]; exact hb
  · injection he with he; subst he; exact hb
theorem writeDst_mem {s u : State} {f w k h} (he : writeDst s f w k h = .ok u) : u.mem = s.mem := by
  unfold writeDst at he
  split at he
  · split at he
    · simp at he
    · injection he with he; subst he; rfl
  · unfold nqPush at he
    split at he
    · simp at he
    · split at he
      · simp at he
      · dsimp only at he
        split at he
        · simp at he
        · injection he with he
          subst he; rfl
  · injection he with he; subst he; rfl
theorem writeDst_ex {s : State} {f w k h} (x : Ctx) (hx : x.pid = s.me.pid) (hw : outReady s f)
    (hp : ∀ r, vsrc f = .reg r → x.v[r.toFin].pend = false) : ∃ u, writeDst (s.setMe x) f w k h = .ok u := by
  unfold outReady at hw
  unfold writeDst
  cases hf : vsrc f with
  | reg r =>
    exact ⟨(s.setMe x).setMe (writeV (s.setMe x).me r w k h), by simp only [me_setMe, hp r hf, Bool.false_eq_true, if_false]⟩
  | zero => exact ⟨_, rfl⟩
  | nq d =>
    rw [hf] at hw
    obtain ⟨n, h1, h2, h3, h4⟩ := hw
    have hne : (⟨n, s.cur.slot⟩ : CtxId) ≠ s.cur := fun e => h2 (by rw [← e])
    have h5 := h4 ⟨opposite d, by unfold opposite; omega⟩ rfl
    have hcx : (s.setMe x).cx ⟨n, s.cur.slot⟩ = s.cx ⟨n, s.cur.slot⟩ := by rw [setMe_eq, cx_setCx_other _ _ hne]
    have hr : (s.setMe x).resident ⟨n, s.cur.slot⟩ = s.resident ⟨n, s.cur.slot⟩ := by
      simp [State.resident, find_put_other _ _ hne]
    have hs : samePart (s.setMe x) n = true := by
      unfold samePart at h3 ⊢
      simp only [setMe_cur, hcx, hr, me_setMe, hx]; exact h3
    simp only [nqPush, setMe_cur, h1, hs, Bool.not_true, Bool.false_eq_true, if_false, hcx]
    rw [if_neg (by simpa using h5)]
    exact ⟨_, rfl⟩
theorem useSrcs_frame (c : Ctx) (l h) : useSrcs c l h = { c with v := (useSrcs c l h).v, nq := (useSrcs c l h).nq } := by
  have h1 : ∀ (f : Ctx → BitVec 6 × Bool → Ctx), (∀ c x, f c x = { c with v := (f c x).v }) → ∀ (l : List (BitVec 6 × Bool)) (c : Ctx),
      l.foldl f c = { c with v := (l.foldl f c).v } := by
    intro f hf l
    induction l with
    | nil => intro c; rfl
    | cons x l ih => intro c; rw [List.foldl_cons, ih, hf]
  have h2 : ∀ (p : Fin 4 → Bool) (l : List (Fin 4)) (c : Ctx), l.foldl (fun c d => if p d then nqPop c d else c) c = { c with nq := (l.foldl (fun c d => if p d then nqPop c d else c) c).nq } := by
    intro p l; induction l with
    | nil => intro c; rfl
    | cons x l ih =>
      intro c; rw [List.foldl_cons, ih]; split <;> rfl
  unfold useSrcs
  rw [h2, h1]
  intro c x
  cases vsrc x.1 with
  | reg r => simp only [killV]; split <;> rfl
  | nq d => rfl
  | zero => rfl

/-! ### Lanes -/

theorem packNat_lt (w : Nat) (l : List Nat) : packNat w l < 2 ^ (w * l.length) := by
  induction l with
  | nil => simp [packNat]
  | cons x l ih =>
    simp only [packNat, List.length_cons, Nat.mul_add, Nat.mul_one, Nat.pow_add]
    have h1 : x % 2 ^ w < 2 ^ w := Nat.mod_lt _ (Nat.two_pow_pos w)
    have h2 : 2 ^ w * (packNat w l + 1) ≤ 2 ^ w * 2 ^ (w * l.length) := Nat.mul_le_mul_left _ ih
    rw [Nat.mul_add, Nat.mul_one] at h2
    rw [Nat.mul_comm (2 ^ (w * l.length))]
    omega

theorem packNat_lane (w : Nat) (l : List Nat) (i : Nat) (h : i < l.length) : packNat w l / 2 ^ (w * i) % 2 ^ w = l[i] % 2 ^ w := by
  induction l generalizing i with
  | nil => simp at h
  | cons x l ih =>
    cases i with
    | zero => simp [packNat]
    | succ i =>
      have h1 : x % 2 ^ w < 2 ^ w := Nat.mod_lt _ (Nat.two_pow_pos w)
      have h2 : packNat w (x :: l) / 2 ^ w = packNat w l := by
        rw [packNat, Nat.add_mul_div_left _ _ (Nat.two_pow_pos w), Nat.div_eq_of_lt h1, Nat.zero_add]
      rw [Nat.mul_add, Nat.mul_one, Nat.add_comm, Nat.pow_add, ← Nat.div_div_eq_div_mul, h2]
      exact ih i (by simpa using h)

/-- The lanes of a register that has been put together from its lanes. -/
theorem lane_ofLanes {w : Nat} {l : List Nat} {i : Nat} (hw : w * l.length ≤ 4096) (h : i < l.length) :
    lane (ofLanes w l) w i = l[i] % 2 ^ w := by
  unfold lane ofLanes
  have : packNat w l < 2 ^ 4096 := Nat.lt_of_lt_of_le (packNat_lt w l) (Nat.pow_le_pow_right (by decide) hw)
  rw [BitVec.toNat_ofNat, Nat.mod_eq_of_lt this]
  exact packNat_lane w l i h

end Sys2Proof.Laws
end

