-- ==== Sys2Proof/Laws/Companions.lean ====
section
/-! SUPPORT. Routing an instruction with companion entries (R161): its receive entry waits in the C queue, its source or store-data entry passes its
registers at once where the C queue is empty. -/

namespace Sys2Proof.Laws

open Sys2Proof Sys2Proof.Machine

/-- An instruction with companion entries that is routed into its empty queue issues at once, where `t2`, `y` are the state and the context once the
companions that can pass have passed, and `ent2` the entry then. -/
theorem routeWith_companions {s t t1 t2 : State} {i : Instr} {q : Queue} {src : List (BitVec 6 × Bool)} {dest : List (BitVec 6)}
    {comps : List EntryKind} {stage : Entry → State → Except Raise (Entry × State)} {act : Entry → State → Res} {c y : Ctx} {ent ent2 : Entry}
    (hqc : q ≠ .c) (hq : c.queue q = []) (hc : c.qC.length + comps.length ≤ 32)
    (hs : ∀ x ∈ src, x.1 = 0 ∨ (c.s[x.1.toFin].pend = false ∧ c.s[x.1.toFin].bad = false))
    (hd : ∀ d ∈ dest, d = 0 ∨ c.s[d.toFin].pend = false) (hb : c.badRegs = [])
    (hst : stage (captured s c i src) (s.setMe c) = .ok (ent, t1)) (hq1 : t1.me.queue q = []) (hb1 : t1.me.badRegs = [])
    (hpass : let d := dest.foldl (fun c d => pendS c d true) (killS t1.me src)
      let x : Ctx := { d with nextId := d.nextId + 1, qC := d.qC ++ companions ent comps }
      (if d.qC = [] then passHead (t1.setMe (x.setQueue q [ent])) else .ok (t1.setMe (x.setQueue q [ent]))) = .ok (t2.setMe (y.setQueue q [ent2])))
    (hyq : y.queue q = []) (hyb : y.badRegs = [])
    (he : Clean ent2) (hi : ent2.i = i) (hp : ent2.present = true) (ht : tokensReady y q i) (hf : Flows y q)
    (hact : act ent2 (t2.setMe (tookTokens y q i)) = .ok t) (htb : t.me.badRegs = []) :
    routeWith s i q { src := src, dest := dest, comps := comps, stage := stage } act none (.ok (true, c)) =
      .ok (advance (t.setMe (pushesNow t.me q i))) := by
  have h1 : ((src.map (·.1) ++ dest).any fun x => x != 0 && c.s[x.toFin].pend) = false := by
    rw [List.any_eq_false]
    intro x hx
    rcases List.mem_append.1 hx with hx | hx
    · obtain ⟨y, hy, rfl⟩ := List.mem_map.1 hx
      rcases hs y hy with h | h
      · simp [h]
      · simp [show c.s[y.1.toFin].pend = false from h.1, -BitVec.val_toFin, -Fin.getElem_fin]
    · rcases hd x hx with h | h
      · simp [h]
      · simp [show c.s[x.toFin].pend = false from h, -BitVec.val_toFin, -Fin.getElem_fin]
  have h2 : badS c (src.map (·.1)) = false := by
    unfold badS
    rw [List.any_eq_false]
    intro x hx
    obtain ⟨y, hy, rfl⟩ := List.mem_map.1 hx
    rcases hs y hy with h | h
    · simp [h]
    · simp [show c.s[y.1.toFin].bad = false from h.2, -BitVec.val_toFin, -Fin.getElem_fin]
  have h3 : ((streamUses i).any fun n => c.badRegs.contains (RegFile.a, n)) = false := by simp [hb]
  have h4 : ¬ 32 < c.qC.length + comps.length + (if q = .c then 1 else 0) := by rw [if_neg hqc]; omega
  have hqz : ¬ 32 ≤ (c.queue q).length := by simp [hq]
  have hlc : badLc c = 0 := by simp [badLc, hb]
  unfold routeWith
  simp only [Bool.not_true, Bool.false_and, Bool.true_and, Bool.false_eq_true, if_false, hqz, hlc, h4, h1, h2, h3, Bool.or_self]
  have h5 : stage
      { i := i, pc := c.pc, id := c.nextId, inst := clockInstant c (clkOf i), opened := c.iopen, present := true, hand := c.handler, lc := c.lc,
        iter := iterationOf c (clkOf i), scal := capture (s.setMe c) c (clkOf i) src, stags := reportTags c (src.map (·.1)),
        sdead := c.chk && !c.handler && src.any fun x => x.1 != 0 && c.s[x.1.toFin].dead } (s.setMe c) = .ok (ent, t1) := hst
  simp only [h5]
  dsimp only at hpass
  generalize hdd : dest.foldl (fun c d => pendS c d true) (killS t1.me src) = d at hpass
  have hdf : { t1.me with s := d.s } = d := by rw [← hdd, pends_frame, killS_frame]
  have hdq : d.queue q = [] := by rw [← hdf]; cases q <;> exact hq1
  have hdb : d.badRegs = [] := by rw [← hdf]; exact hb1
  rw [cleanRegs_clean _ hdb]
  have hen : enqueue (t1.setMe { d with nextId := d.nextId + 1, qC := d.qC ++ companions ent comps }) q ent =
      t1.setMe (({ d with nextId := d.nextId + 1, qC := d.qC ++ companions ent comps } : Ctx).setQueue q [ent]) := by
    have : ({ d with nextId := d.nextId + 1, qC := d.qC ++ companions ent comps } : Ctx).queue q = [] := by
      rw [← hdq]; cases q <;> first | rfl | exact absurd rfl hqc
    unfold enqueue
    simp [this]
  rw [hen, hpass]
  simp only [hdq, if_true]
  unfold tryHead
  rw [me_setMe, queue_setQueue]
  simp only [setMe_setMe]
  have hback : (y.setQueue q [ent2]).setQueue q [] = y := by
    have h := setQueue_same (x := y) (e := ent2) hyq
    rw [hyq] at h
    exact h
  rw [hback, issueWith_ok (by rw [me_setMe]; exact hf) he hi hp (by rw [me_setMe]; exact ht) (by rw [me_setMe]; exact hyb)
    (by rw [me_setMe, setMe_setMe]; exact hact) htb]
  simp [Except.map]

/-- A receive entry at the head of the C queue passes nothing. -/
theorem passHead_receive {s : State} {x : Ctx} {e : Entry} {l : List Entry} (h : x.qC = e :: l) (hk : e.kind = .receive) :
    passHead (s.setMe x) = .ok (s.setMe x) := by
  unfold passHead
  simp [h, hk]

/-- A companion entry can pass a vector register on clock `k`. -/
def passOk (c : Ctx) (k : Tag) (hand : Bool) (r : BitVec 5) : Prop :=
  (hand = true ∨ c.v[r.toFin].tag = k) ∧ (hand = true ∨ c.chk = false ∨ c.v[r.toFin].dead = false) ∧ c.v[r.toFin].bad = 0 ∧
    c.v[r.toFin].pend = false

/-- What a companion entry passes. -/
def passedData (s : State) (c : Ctx) (i : Instr) (hand : Bool) : List Vec :=
  ((companionRegs i).map fun r => readV s c r.1 hand) ++ companionMask c i

/-- The registers that it read, last uses marked. -/
def passedRegs (c : Ctx) (i : Instr) (hand : Bool) : Ctx := (companionRegs i).foldl (fun c r => killV c r.1 r.2 hand) c

theorem passedRegs_frame (c : Ctx) (i : Instr) (hand : Bool) : passedRegs c i hand = { c with v := (passedRegs c i hand).v } := by
  unfold passedRegs
  generalize companionRegs i = l
  induction l generalizing c with
  | nil => rfl
  | cons x l ih =>
    rw [List.foldl_cons, ih]
    unfold killV
    split <;> rfl

theorem passData_ok {s : State} {e : Entry} (hd : e.dataBad = false) (hb : s.me.badRegs = []) (hS : (s.me.qS.filter (·.passed)).length < 16) (h : ∀ r ∈ companionRegs e.i, passOk s.me (clkOf e.i) e.hand r.1) :
    passData s e = .ok (s.setMe (let c := passedRegs s.me e.i e.hand
      { c with qL := handOver c.qL e.id (passedData s s.me e.i e.hand) false, qS := handOver c.qS e.id (passedData s s.me e.i e.hand) false })) := by
  have h1 : checkTags s { e with scal := [], stags := [], sdead := false } ((companionRegs e.i).map fun r => some s.me.v[r.1.toFin].tag)
      ((companionRegs e.i).any fun r => s.me.v[r.1.toFin].dead) = .ok () := by
    refine checkTags_ok (.inr ⟨by simp, rfl⟩) ?_ ?_
    · intro o ho t ht
      obtain ⟨r, hr, rfl⟩ := List.mem_map.1 ho
      cases ht
      exact (h r hr).1
    · by_cases hh : e.hand = true
      · exact .inl hh
      by_cases hc : s.me.chk = false
      · exact .inr (.inl hc)
      right; right
      rw [List.any_eq_false]
      intro r hr
      rcases (h r hr).2.1 with h | h | h
      · exact absurd h hh
      · exact absurd h hc
      · simp [h, -BitVec.val_toFin, -Fin.getElem_fin]
  have h2 : ((companionRegs e.i).any fun r => s.me.v[r.1.toFin].bad != 0) = false := by
    rw [List.any_eq_false]
    intro r hr
    simp [(h r hr).2.2.1, -BitVec.val_toFin, -Fin.getElem_fin]
  have h3 : ((companionRegs e.i).any fun r => s.me.v[r.1.toFin].pend) = false := by
    rw [List.any_eq_false]
    intro r hr
    simp [(h r hr).2.2.2, -BitVec.val_toFin, -Fin.getElem_fin]
  have h4 : companionBad s.me e.i = false := by unfold companionBad; rw [h2]; simp [hb]
  have h5 : (e.kind == .storeData && decide (16 ≤ (s.me.qS.filter (·.passed)).length)) = false := by
    rw [Bool.and_eq_false_iff, decide_eq_false_iff_not]; omega
  unfold passData
  simp only [h1, h3, h4, h5, Bool.false_eq_true, if_false]
  rw [if_neg (by simp [hd])]
  rfl

/-! ### A companion entry that has passed -/

/-- A companion entry of the executing context has issued: it is counted (R355), and the C queue has acted in this cycle (R356). -/
def passedState (s : State) : State := countCell s s.cur.cell s.cur.slot 2 2
def passedCtx (c : Ctx) : Ctx := { c with acted := c.acted ||| 4 }

theorem countCell_setMe (s : State) (x : Ctx) (cell slot evt q idx : Nat) (w : Bool) :
    countCell (s.setMe x) cell slot evt q idx w = (countCell s cell slot evt q idx w).setMe x := by
  unfold countCell
  have h : (s.setMe x).cell cell = s.cell cell := rfl
  simp only [h]
  split <;> rfl

theorem countIssue_setMe (s : State) (x : Ctx) : countIssue (s.setMe x) .c = (passedState s).setMe (passedCtx x) := by
  unfold countIssue passedState passedCtx
  simp only [setMe_cur, countCell_setMe, me_setMe, setMe_setMe]
  rfl

/-! ### The two shapes -/

/-- The context as an instruction with a receive entry issues. -/
def issuingR (c : Ctx) (q : Queue) (i : Instr) (src : List (BitVec 6 × Bool)) (dest : List (BitVec 6)) (l : List Entry) : Ctx :=
  { issuing c q i src dest with qC := l }

theorem issuing_tok (c x : Ctx) (q : Queue) (i : Instr) (h : x.tok = c.tok) : tookTokens x q i = { x with tok := (tookTokens c q i).tok } := by
  rw [tookTokens_frame]
  congr 1
  unfold tookTokens
  generalize popsOf q (tokOf i) = l
  generalize pushesOf q (tokOf i) = m
  have aux : ∀ (l : List (Fin 4)) (a b : Int) (x c : Ctx), x.tok = c.tok →
      (l.foldl (fun c f => tokAdd c f a b) x).tok = (l.foldl (fun c f => tokAdd c f a b) c).tok := by
    intro l
    induction l with
    | nil => intro a b x c h; exact h
    | cons f l ih => intro a b x c h; exact ih a b _ _ (by simp only [tokAdd, h])
  exact aux m _ _ _ _ (aux l _ _ _ _ h)

/-- A load that issues as it routes: its receive entry waits in the C queue. -/
theorem finish_receive {s t t1 : State} {i : Instr} {src : List (BitVec 6 × Bool)} {dest : List (BitVec 6)}
    {stage : Entry → State → Except Raise (Entry × State)} {act : Entry → State → Res} {c : Ctx} {ent : Entry}
    (h1 : rootForbidden s.me (clkOf i) = false) (h2 : presence s.me (clkOf i) = .ok (true, c)) (hq : c.qL = []) (hc : c.qC = [])
    (hs : ∀ x ∈ src, x.1 = 0 ∨ (c.s[x.1.toFin].pend = false ∧ c.s[x.1.toFin].bad = false))
    (hd : ∀ d ∈ dest, d = 0 ∨ c.s[d.toFin].pend = false) (hb : c.badRegs = [])
    (hst : stage (captured s c i src) (s.setMe c) = .ok (ent, t1)) (hq1 : t1.me.qL = []) (hc1 : t1.me.qC = []) (hb1 : t1.me.badRegs = [])
    (he : Clean ent) (hi : ent.i = i) (hp : ent.present = true) (ht : tokensReady t1.me .l i) (hfl : Flows t1.me .l)
    (hact : act ent (t1.setMe (issuingR t1.me .l i src dest [{ ent with kind := .receive, err := none }])) = .ok t) (htb : t.me.badRegs = []) :
    finish s i (routeTo s i .l { src := src, dest := dest, comps := [.receive], stage := stage } act) = .next (passed t (pushesNow t.me .l i)) := by
  unfold routeTo
  have hf := pends_frame (killS t1.me src) dest
  rw [killS_frame] at hf
  have hqC : (dest.foldl (fun c d => pendS c d true) (killS t1.me src)).qC = [] := by rw [killS_frame, hf]; exact hc1
  have hqL : (dest.foldl (fun c d => pendS c d true) (killS t1.me src)).qL = [] := by rw [killS_frame, hf]; exact hq1
  have hbR : (dest.foldl (fun c d => pendS c d true) (killS t1.me src)).badRegs = [] := by rw [killS_frame, hf]; exact hb1
  have htk : (dest.foldl (fun c d => pendS c d true) (killS t1.me src)).tok = t1.me.tok := by rw [killS_frame, hf]
  rw [h1, h2, if_neg (by simp), routeWith_companions (q := .l) (t1 := t1) (t2 := t1) (t := t) (ent := ent) (ent2 := ent)
    (y := { dest.foldl (fun c d => pendS c d true) (killS t1.me src) with
      nextId := (dest.foldl (fun c d => pendS c d true) (killS t1.me src)).nextId + 1
      qC := [{ ent with kind := .receive, err := none }] })
    (by decide) hq (by simp [hc]) hs hd hb hst hq1 hb1 ?_ ?_ ?_ he hi hp ((tokensReady_congr htk).2 ht) (by rw [killS_frame, hf]; exact hfl) ?_ htb, finish_advance]
  · intro d x
    have hqC' : d.qC = [] := hqC
    rw [if_pos hqC']
    have : x = { d with nextId := d.nextId + 1, qC := [{ ent with kind := .receive, err := none }] } := by
      show ({ d with nextId := d.nextId + 1, qC := d.qC ++ companions ent [.receive] } : Ctx) = _
      rw [hqC']; rfl
    rw [this]
    exact passHead_receive rfl rfl
  · exact hqL
  · exact hbR
  · rw [← hact]
    congr 2
    have key : ∀ (d : Ctx) (n : Nat) (l : List Entry), tookTokens { d with nextId := n, qC := l } .l i =
        { tookTokens { d with nextId := n } .l i with qC := l } := by
      intro d n l
      rw [issuing_tok d { d with nextId := n, qC := l } .l i rfl, issuing_tok d { d with nextId := n } .l i rfl]
    unfold issuingR issuing
    rw [key]
    have hn : (dest.foldl (fun c d => pendS c d true) (killS t1.me src)).nextId = t1.me.nextId := by rw [killS_frame, hf]
    rw [hn]

/-- An instruction whose first companion passes registers and that issues as it routes. -/
theorem finish_passing {s t : State} {i : Instr} {q : Queue} {k : EntryKind} {rest : List EntryKind} {t1 : State}
    {src : List (BitVec 6 × Bool)} {stage : Entry → State → Except Raise (Entry × State)} {act : Entry → State → Res} {c : Ctx} {ent : Entry}
    (h1 : rootForbidden s.me (clkOf i) = false) (h2 : presence s.me (clkOf i) = .ok (true, c)) (hqc : q ≠ .c)
    (hk : k = .source ∨ k = .storeData) (hr : rest.length < 32) (hL : c.qL = []) (hS : c.qS = []) (hc : c.qC = [])
    (hs : ∀ x ∈ src, x.1 = 0 ∨ (c.s[x.1.toFin].pend = false ∧ c.s[x.1.toFin].bad = false)) (hb : c.badRegs = [])
    (hst : stage (captured s c i src) (s.setMe c) = .ok (ent, t1)) (hL1 : t1.me.qL = []) (hS1 : t1.me.qS = []) (hc1 : t1.me.qC = [])
    (hb1 : t1.me.badRegs = []) (he : Clean ent) (hi : ent.i = i) (hp : ent.present = true) (hki : ent.kind = .instr)
    (hv : ∀ r ∈ companionRegs i, passOk t1.me (clkOf i) ent.hand r.1) (ht : tokensReady t1.me q i)
    (hfl : Flows t1.me q)
    (hact : act { ent with data := passedData t1 t1.me i ent.hand, passed := true }
      ((passedState t1).setMe (passedCtx (passedRegs (issuingR t1.me q i src [] (companions ent rest)) i ent.hand))) = .ok t) (htb : t.me.badRegs = []) :
    finish s i (routeTo s i q { src := src, comps := k :: rest, stage := stage } act) = .next (passed t (pushesNow t.me q i)) := by
  unfold routeTo
  have hf := killS_frame t1.me src
  have hqC : (killS t1.me src).qC = [] := by rw [hf]; exact hc1
  have hbR : (killS t1.me src).badRegs = [] := by rw [hf]; exact hb1
  have htk : (killS t1.me src).tok = t1.me.tok := by rw [hf]
  have hn : (killS t1.me src).nextId = t1.me.nextId := by rw [hf]
  have hqq : c.queue q = [] := by cases q <;> first | exact hL | exact hS | exact hc
  have hq1 : t1.me.queue q = [] := by cases q <;> first | exact hL1 | exact hS1 | exact hc1
  let x0 : Ctx := { killS t1.me src with nextId := (killS t1.me src).nextId + 1, qC := companions ent rest }
  have hx0v : x0.v = t1.me.v := by show (killS t1.me src).v = _; rw [hf]
  have hx0m : x0.m = t1.me.m := by show (killS t1.me src).m = _; rw [hf]
  have hx0c : x0.chk = t1.me.chk := by show (killS t1.me src).chk = _; rw [hf]
  have hx0L : x0.qL = [] := by show (killS t1.me src).qL = _; rw [hf]; exact hL1
  have hx0S : x0.qS = [] := by show (killS t1.me src).qS = _; rw [hf]; exact hS1
  have hyf := passedRegs_frame x0 i ent.hand
  rw [h1, h2, if_neg (by simp), routeWith_companions (t1 := t1) (t2 := passedState t1) (t := t) (ent := ent)
    (ent2 := { ent with data := passedData t1 t1.me i ent.hand, passed := true }) (dest := [])
    (y := passedCtx (passedRegs x0 i ent.hand))
    hqc hqq (by rw [hc]; simp; omega) hs (by simp) hb hst hq1 hb1 ?_ ?_ ?_ he hi hp ?_ ?_ ?_ htb, finish_advance]
  · intro d x
    have hqC' : d.qC = [] := hqC
    rw [if_pos hqC']
    have hx : x.setQueue q [ent] = { x0.setQueue q [ent] with qC := { ent with kind := k, err := none } :: companions ent rest } := by
      show ({ killS t1.me src with nextId := (killS t1.me src).nextId + 1, qC := (killS t1.me src).qC ++ companions ent (k :: rest) } : Ctx).setQueue q [ent] = _
      rw [hqC]
      cases q <;> first | rfl | exact absurd rfl hqc
    rw [hx]
    unfold passHead
    simp only [me_setMe]
    have hkk : ((k == EntryKind.source || k == EntryKind.storeData) = true) := by rcases hk with rfl | rfl <;> rfl
    simp only [hkk, if_true, setMe_setMe]
    have hz : ({ x0.setQueue q [ent] with qC := companions ent rest } : Ctx) = x0.setQueue q [ent] := by
      cases q <;> first | rfl | exact absurd rfl hqc
    rw [hz]
    have hzv : (x0.setQueue q [ent]).v = t1.me.v := by rw [← hx0v]; cases q <;> rfl
    have hzm : (x0.setQueue q [ent]).m = t1.me.m := by rw [← hx0m]; cases q <;> rfl
    have hzc : (x0.setQueue q [ent]).chk = t1.me.chk := by rw [← hx0c]; cases q <;> rfl
    rw [passData_ok (by exact he.2.2.2) (by rw [me_setMe]; cases q <;> first | exact hbR | exact absurd rfl hqc)
      (by rw [me_setMe]; cases q <;> first | (show (x0.qS.filter _).length < 16; rw [hx0S]; decide) | exact absurd rfl hqc |
        exact Nat.lt_of_le_of_lt (List.length_filter_le _ _) (show 1 < 16 by decide)) (by
      intro r hr'
      rw [me_setMe]
      have := hv r (by rw [← hi]; exact hr')
      simp only [passOk, hzv, hzc]
      show (ent.hand = true ∨ _ = clkOf ent.i) ∧ _
      rw [hi]; exact this)]
    rw [me_setMe, setMe_setMe]
    simp only [countIssue_setMe]
    congr 3
    have hdat : passedData (t1.setMe (x0.setQueue q [ent])) (x0.setQueue q [ent]) ent.i ent.hand = passedData t1 t1.me i ent.hand := by
      rw [hi]
      unfold passedData
      congr 1
      · apply List.map_congr_left
        intro r _
        simp only [readV, hzv, State.free]; rfl
      · unfold companionMask
        cases i <;> simp [hzm]
    have hcq : (passedCtx (passedRegs x0 i ent.hand)).setQueue q [{ ent with data := passedData t1 t1.me i ent.hand, passed := true }] =
        passedCtx ((passedRegs x0 i ent.hand).setQueue q [{ ent with data := passedData t1 t1.me i ent.hand, passed := true }]) := by
      cases q <;> rfl
    rw [hcq]
    congr 1
    show (let c := passedRegs (x0.setQueue q [ent]) ent.i ent.hand
      ({ c with qL := handOver c.qL ent.id (passedData (t1.setMe (x0.setQueue q [ent])) (x0.setQueue q [ent]) ent.i ent.hand) false,
                qS := handOver c.qS ent.id (passedData (t1.setMe (x0.setQueue q [ent])) (x0.setQueue q [ent]) ent.i ent.hand) false } : Ctx)) = _
    rw [hdat, hi]
    have hpr : passedRegs (x0.setQueue q [ent]) i ent.hand = (passedRegs x0 i ent.hand).setQueue q [ent] := by
      unfold passedRegs
      generalize companionRegs i = l
      generalize x0 = z
      induction l generalizing z with
      | nil => rfl
      | cons y l ih =>
        rw [List.foldl_cons, List.foldl_cons, ← ih]
        congr 1
        unfold killV
        cases q <;> split <;> rfl
    rw [hpr]
    have hpl : (passedRegs x0 i ent.hand).qL = [] := by rw [hyf]; exact hx0L
    have hps : (passedRegs x0 i ent.hand).qS = [] := by rw [hyf]; exact hx0S
    cases q
    · simp [Ctx.setQueue, handOver, hps, hki]
      exact hi
    · exact absurd rfl hqc
    · simp [Ctx.setQueue, handOver, hpl, hki]
      exact hi
  · rw [hyf]; cases q <;> first | exact hx0L | exact hx0S | exact absurd rfl hqc
  · rw [hyf]; exact hbR
  · refine (tokensReady_congr ?_).2 ht
    show (passedRegs x0 i ent.hand).tok = _
    rw [hyf]; exact htk
  · show Flows (passedRegs x0 i ent.hand) q
    rw [hyf]
    show (q = .c → (killS t1.me src).reissue = none) ∧ (q = .l → (killS t1.me src).stores.length + ((killS t1.me src).qS.filter (·.kind == .instr)).length ≤ 16)
    rw [hf]; exact hfl
  · rw [← hact]
    congr 2
    have htk2 : (passedRegs x0 i ent.hand).tok = x0.tok := by rw [hyf]
    have hcm : tookTokens (passedCtx (passedRegs x0 i ent.hand)) q i = passedCtx (tookTokens (passedRegs x0 i ent.hand) q i) := by
      rw [issuing_tok x0 (passedCtx (passedRegs x0 i ent.hand)) q i htk2, issuing_tok x0 _ q i htk2]; rfl
    rw [hcm]
    congr 1
    rw [issuing_tok x0 _ q i htk2]
    have : issuingR t1.me q i src [] (companions ent rest) = { x0 with tok := (tookTokens x0 q i).tok } := by
      unfold issuingR issuing
      show ({ tookTokens { killS t1.me src with nextId := t1.me.nextId + 1 } q i with qC := companions ent rest } : Ctx) = _
      rw [← hn, issuing_tok x0 { killS t1.me src with nextId := (killS t1.me src).nextId + 1 } q i rfl]
    rw [this]
    unfold passedRegs
    generalize companionRegs i = l
    generalize (tookTokens x0 q i).tok = k
    generalize x0 = z
    induction l generalizing z with
    | nil => rfl
    | cons y l ih =>
      rw [List.foldl_cons, List.foldl_cons, ih]
      congr 1
      unfold killV
      split <;> rfl

end Sys2Proof.Laws
end

