-- ==== Sys2Proof/Laws/Memory.lean ====
section
/-! SUPPORT. Memory: a read after a write, and that every operation keeps the canonical form. -/

namespace Sys2Proof.Laws

open Sys2Proof Sys2Proof.Machine

/-- A lower start of the form is a weaker demand. -/
theorem wfFrom_mono {n m : Nat} (h : n ≤ m) {l : List Host.Cell} (w : Memory.wfFrom m l = true) : Memory.wfFrom n l = true := by
  cases l with
  | nil => rfl
  | cons x l =>
    simp only [Memory.wfFrom, Bool.and_eq_true, decide_eq_true_eq] at w ⊢
    exact ⟨⟨Nat.le_trans h w.1.1, w.1.2⟩, w.2⟩

/-- An address below the start of a well-formed list is unlisted. -/
theorem get_below {n a : Nat} {l : List Host.Cell} (h : a < n) (w : Memory.wfFrom n l = true) : Memory.get l a = Memory.blank := by
  induction l generalizing n with
  | nil => rfl
  | cons x l ih =>
    simp only [Memory.wfFrom, Bool.and_eq_true, decide_eq_true_eq] at w
    have : ¬ x.1 = a := by omega
    simp only [Memory.get, if_neg this]
    exact ih (by omega) w.2

theorem wfFrom_set {n a : Nat} {l : List Host.Cell} (b : Byte) (h : n ≤ a) (w : Memory.wfFrom n l = true) :
    Memory.wfFrom n (Memory.set l a b) = true := by
  induction l generalizing n with
  | nil => by_cases hb : b = Memory.blank <;> simp [Memory.set, Memory.wfFrom, hb, h]
  | cons x l ih =>
    simp only [Memory.wfFrom, Bool.and_eq_true, decide_eq_true_eq] at w
    obtain ⟨⟨h1, h2⟩, h3⟩ := w
    simp only [Memory.set]
    split
    · split
      · simp [Memory.wfFrom, h1, h2, h3]
      · rename_i hlt hb
        have : a + 1 ≤ x.1 := hlt
        simp [Memory.wfFrom, h, hb, this, h2, h3]
    · split
      · rename_i hge he
        split
        · exact wfFrom_mono (by omega) h3
        · rename_i hb
          simp [Memory.wfFrom, h, hb, he ▸ h3]
      · rename_i hge he
        simp [Memory.wfFrom, h1, h2, ih (by omega : x.1 + 1 ≤ a) h3]

theorem wf_set {m : List Host.Cell} (a : Nat) (b : Byte) (w : Memory.wf m = true) : Memory.wf (Memory.set m a b) = true :=
  wfFrom_set b (Nat.zero_le a) w

theorem wf_setAll {m : List Host.Cell} (l : List (Nat × Byte)) (w : Memory.wf m = true) : Memory.wf (Memory.setAll m l) = true := by
  unfold Memory.setAll
  induction l generalizing m with
  | nil => exact w
  | cons x l ih => exact ih (wf_set x.1 x.2 w)

theorem wfFrom_filter {n : Nat} (p : Host.Cell → Bool) {l : List Host.Cell} (w : Memory.wfFrom n l = true) :
    Memory.wfFrom n (l.filter p) = true := by
  induction l generalizing n with
  | nil => rfl
  | cons x l ih =>
    simp only [Memory.wfFrom, Bool.and_eq_true, decide_eq_true_eq] at w
    by_cases hp : p x
    · simp [hp, Memory.wfFrom, w.1.1, w.1.2, ih w.2]
    · simp only [List.filter_cons, hp]
      exact wfFrom_mono (by omega) (ih w.2)

theorem wf_filter {m : List Host.Cell} (p : Host.Cell → Bool) (w : Memory.wf m = true) : Memory.wf (m.filter p) = true :=
  wfFrom_filter p w

/-- A read after a write to the same place. -/
theorem get_set_self {n : Nat} {l : List Host.Cell} (a : Nat) (b : Byte) (w : Memory.wfFrom n l = true) :
    Memory.get (Memory.set l a b) a = b := by
  induction l generalizing n with
  | nil => by_cases hb : b = Memory.blank <;> simp [Memory.set, Memory.get, hb]
  | cons x l ih =>
    simp only [Memory.wfFrom, Bool.and_eq_true, decide_eq_true_eq] at w
    simp only [Memory.set]
    split
    · split
      · rename_i hlt hb
        rw [hb]; exact get_below (n := x.1) hlt (by simp [Memory.wfFrom, w.1.2, w.2])
      · simp [Memory.get]
    · split
      · rename_i hge he
        split
        · rename_i hb
          rw [hb]; exact get_below (n := x.1 + 1) (by omega) w.2
        · simp [Memory.get]
      · rename_i hge he
        have : ¬ x.1 = a := fun e => he e.symm
        simp only [Memory.get, if_neg this]
        exact ih w.2

/-- A write leaves every other place alone. -/
theorem get_set_other (l : List Host.Cell) {a c : Nat} (b : Byte) (h : c ≠ a) : Memory.get (Memory.set l a b) c = Memory.get l c := by
  induction l with
  | nil => by_cases hb : b = Memory.blank <;> simp [Memory.set, Memory.get, hb, Ne.symm h]
  | cons x l ih =>
    simp only [Memory.set]
    split
    · split
      · rfl
      · simp [Memory.get, Ne.symm h]
    · split
      · rename_i hge he
        split
        · have : ¬ x.1 = c := fun e => h (by omega)
          simp [Memory.get, this]
        · have : ¬ x.1 = c := fun e => h (by omega)
          simp [Memory.get, this, Ne.symm h]
      · simp only [Memory.get, ih]

/-- Writing a list leaves every place alone that it does not name. -/
theorem get_setAll_other {m : List Host.Cell} {l : List (Nat × Byte)} {c : Nat} (h : c ∉ l.map (·.1)) :
    Memory.get (Memory.setAll m l) c = Memory.get m c := by
  unfold Memory.setAll
  induction l generalizing m with
  | nil => rfl
  | cons x l ih =>
    simp only [List.map_cons, List.mem_cons, not_or] at h
    rw [List.foldl_cons, ih h.2, get_set_other _ _ h.1]

/-! ### The operations of the machine -/

theorem byte_write_other (s : State) (l : List (Nat × Byte)) (b : List Nat) {k : Nat} (h : k ∉ l.map (·.1)) :
    (s.write l b).byte k = s.byte k := get_setAll_other h

theorem wf_write {s : State} (l : List (Nat × Byte)) (b : List Nat) (w : Memory.wf s.mem = true) : Memory.wf (s.write l b).mem = true :=
  wf_setAll l w

theorem wf_writeRaw {s : State} (k : Nat) (bs : List Byte) (w : Memory.wf s.mem = true) : Memory.wf (s.writeRaw k bs).mem = true :=
  wf_setAll _ w

theorem wf_writeMeta {s : State} (p : Nat) (v : Byte) (w : Memory.wf s.mem = true) : Memory.wf (s.writeMeta p v).mem = true := by
  have key (t : State) (a : Nat) (h : Memory.wf t.mem = true) :
      Memory.wf (if t.bad a then { t with metaOk := Poison.add t.metaOk a } else t).mem = true := by split <;> exact h
  exact key (s.write [(s.metaAddr p, v)]) (s.metaAddr p) (wf_write _ _ w)

theorem wf_blockWrite {s : State} (cmp : BitVec 2) (p : Nat) (b : List (Byte × Bool)) (w : Memory.wf s.mem = true) :
    Memory.wf (s.blockWrite cmp p b).mem = true := by
  unfold State.blockWrite
  dsimp only
  split
  · exact wf_writeMeta _ _ (wf_write _ _ w)
  · split
    · exact wf_writeMeta _ _ (wf_writeRaw _ _ w)
    · exact wf_writeMeta _ _ (wf_writeRaw _ _ w)

theorem wf_blockMerge {s : State} (cmp : BitVec 2) (p : Nat) (ws : List (Nat × Byte × Bool)) (w : Memory.wf s.mem = true) :
    Memory.wf (s.blockMerge cmp p ws).mem = true := by
  unfold State.blockMerge
  dsimp only
  split
  · apply wf_writeMeta
    dsimp only
    apply wf_setAll
    exact w
  · exact wf_blockWrite _ _ _ w

theorem wf_blockPut {s : State} (cmp : BitVec 2) (p : Nat) (ws : List (Nat × Byte × Bool)) (w : Memory.wf s.mem = true) :
    Memory.wf (s.blockPut cmp p ws).mem = true := by
  unfold State.blockPut
  split
  · exact wf_blockWrite _ _ _ w
  · exact wf_blockMerge _ _ _ w

/-- A fold of steps that keep the form keeps it. -/
theorem wf_foldl {α : Type} (f : State → α → State) (h : ∀ s a, Memory.wf s.mem = true → Memory.wf (f s a).mem = true) (l : List α) :
    ∀ {s : State}, Memory.wf s.mem = true → Memory.wf (l.foldl f s).mem = true := by
  induction l with
  | nil => exact fun w => w
  | cons a l ih => exact fun w => ih (h _ a w)

theorem wf_hbmScatter {s : State} (ws : List (Nat × BitVec 2 × Byte × Bool)) (w : Memory.wf s.mem = true) :
    Memory.wf (s.hbmScatter ws).mem = true := by
  unfold State.hbmScatter
  exact wf_foldl _ (fun _ _ w => wf_blockPut _ _ _ w) _ (wf_write _ _ w)

theorem wf_hbmRaw {s : State} (a : Nat) (bs : List Byte) (w : Memory.wf s.mem = true) : Memory.wf (s.hbmRaw a bs).mem = true := by
  unfold State.hbmRaw
  split
  · exact wf_writeRaw _ _ w
  · exact w

theorem wf_hbmWrite {s : State} (cmp : BitVec 2) (pa : Nat) (bs : List (Byte × Bool)) (w : Memory.wf s.mem = true) :
    Memory.wf (s.hbmWrite cmp pa bs).mem = true := by
  unfold State.hbmWrite
  split
  · exact wf_write _ _ w
  · split
    · exact wf_blockWrite _ _ _ w
    · exact wf_blockMerge _ _ _ w

/-- The performance of masked bytes (R40, R58). -/
theorem wf_perform {s : State} (l : List (Nat × Byte × Byte)) (w : Memory.wf s.mem = true) : Memory.wf (perform s l).mem = true :=
  wf_write _ _ (wf_write _ _ w)

/-- A cell image put back (R343). -/
theorem wf_putImage {s : State} (cell : Nat) (img : List Host.Cell) (bad : List Nat) (w : Memory.wf s.mem = true) :
    Memory.wf (putImage s cell img bad).mem = true := wf_setAll _ (wf_filter _ w)

/-- A program word placed for the next fetch. -/
theorem wf_loadMem (w : Word) : Memory.wf (loadMem w) = true := wf_setAll _ rfl

end Sys2Proof.Laws
end

