-- ==== Sys2Proof/Tests/Slice0.lean ====
section
/-! SUPPORT. The model's own tests: words of the spec's encodings and what they decode to, ill-formed terms that the checks refuse, and
states that meet the hypotheses of the statements. -/

namespace Sys2Proof.Tests

open Sys2Proof Sys2Proof.Machine Sys2Proof.Claims

-- One theorem at a time: each proof is a kernel evaluation, and many at once take more memory than one.
set_option Elab.async false

/-! ### Words

Each word is composed field by field from the spec's tables of formats and opcodes, or is written out in the spec. -/

/-- Every word decodes to its instruction, which is well-formed and encodes to the word. -/
def spells (l : List (Word × Instr)) : Bool := l.all fun x => decide (decode x.1 = .ok x.2) && x.2.wf && encode x.2 == x.1
/-- Words of the control group. -/
def words_control : List (Word × Instr) := [
  (0x0000200000FFFFFD, .b (-3)),  -- B
  (0x0000418410FFFFFE, .br .lt 3 false 4 false (-2)),  -- R234: BR.LT s3, s4, back
  (0x00004A0410FFFFFF, .br .lt 20 false 4 false (-1)),  -- BR.LT s20, s4, Wt
  (0x00005FC1A87FFFFF, .br .geu 63 true 1 true 0x7FFFFF),
  (0x0000600000800000, .call 0x800000),
  (0x0000800000000000, .ret),
  (0x0000B0C000000000, .jmpr 33 true),
  (0x0000C10000000000, .callr 2 false),
  (0x000100273C00000A, .loopRegister ⟨0, false, 39, false, 30, false, 0, 10⟩),  -- LOOP lc0, 0, s39, s30, Mx
  (0x000100C287BFFFFF, .loopRegister ⟨1, true, 2, true, 3, true, 5, 0x1FFFFF⟩),
  (0x00012000000A0403, .loopImmediate ⟨0, 0, 10, 1, 3⟩),  -- LOOP lc0, 0, 10, 1, L1end
  (0x000124FFFFFFFC07, .loopImmediate ⟨1, 255, -1, -1, 7⟩),  -- LOOP lc1, 255, -1, -1, Sx
  (0x0001400000000000, .ibegin),
  (0x0001600000000000, .iend),
  (0x0001C00000000000, .succgo),
  (0x0001E00000000000, .waitpred),
  (0x0002000000000000, .retire),
  (0x0002200000000000, .qpoint),
  (0x00E1820580000000, .launch ⟨7, 4, 5, true⟩),
  (0x0001A2050D000000, .launchi ⟨0, 4, 5, false, 6, true⟩),
  (0x0002404000004000, .kdefEvery 1 0 2 0),  -- KDEF.EVERY k1, k0, 2, 0
  (0x00025BF71FFFFFFF, .kdefEvery 111 110 0xFFFF 0x1FFF),
  (0x00024080A4800000, .kdefOn 2 1 9),
  (0x000240B85F800000, .kdefOnnot 2 112 63),
  (0x000240C0E0800000, .kdefUnion 3 1 2)]  -- KDEF.UNION k3, k1, k2
theorem test_decode_control : spells words_control = true := by decide +kernel

/-- Words of the scalar group. -/
def words_scalar : List (Word × Instr) := [
  (0x0022628400000000, .whenScalar ⟨1, 5, 4, false⟩),  -- (k1) WHEN s5, s4
  (0x0082818185000000, .mergeScalar ⟨4, 3, 1, true, 2, true⟩),
  (0x0062A3850C020000, .unionScalar .add ⟨3, 7, 5, false, 6, false⟩),  -- (k3) UNION.ADD s7, s5, s6
  (0x0002A08206000000, .unionScalar .first ⟨0, 1, 2, false, 3, false⟩),
  (0x0002A08206010000, .unionScalar .second ⟨0, 1, 2, false, 3, false⟩),
  (0x0002A08206020000, .unionScalar .add ⟨0, 1, 2, false, 3, false⟩),
  (0x0002A08206030000, .unionScalar .max ⟨0, 1, 2, false, 3, false⟩),
  (0x0002C082800F0000, .preScalar ⟨0, 1, 2, true, 15⟩),
  (0x0002E08200040000, .fbyScalar ⟨0, 1, 2, false, 4⟩),
  (0x0FE3008280000000, .currentScalar ⟨127, 1, 2, true⟩),
  (0x0003210206000000, .add ⟨0, 2, 2, false, 3, false⟩),  -- R252: ADD s2, s2, s3
  (0x00033F81C0000000, .add ⟨0, 63, 1, true, 32, false⟩),
  (0x00233F81C0010000, .sub ⟨1, 63, 1, true, 32, false⟩),
  (0x00433F81C0020000, .and ⟨2, 63, 1, true, 32, false⟩),
  (0x00633F81C0030000, .or ⟨3, 63, 1, true, 32, false⟩),
  (0x00833F81C0040000, .xor ⟨4, 63, 1, true, 32, false⟩),
  (0x00A33F81C0050000, .andn ⟨5, 63, 1, true, 32, false⟩),
  (0x00C33F81C0060000, .sll ⟨6, 63, 1, true, 32, false⟩),
  (0x00E33F81C0070000, .srl ⟨7, 63, 1, true, 32, false⟩),
  (0x01033F81C0080000, .sra ⟨8, 63, 1, true, 32, false⟩),
  (0x01233F81C0090000, .rotl ⟨9, 63, 1, true, 32, false⟩),
  (0x01433F81C00A0000, .slt ⟨10, 63, 1, true, 32, false⟩),
  (0x01633F81C00B0000, .sltu ⟨11, 63, 1, true, 32, false⟩),
  (0x01833F81C00C0000, .seq ⟨12, 63, 1, true, 32, false⟩),
  (0x01A33F81C00D0000, .min ⟨13, 63, 1, true, 32, false⟩),
  (0x01C33F81C00E0000, .max ⟨14, 63, 1, true, 32, false⟩),
  (0x01E33F81C00F0000, .minu ⟨15, 63, 1, true, 32, false⟩),
  (0x02033F81C0100000, .maxu ⟨16, 63, 1, true, 32, false⟩),
  (0x02233F81C0110000, .mul ⟨17, 63, 1, true, 32, false⟩),
  (0x02433F81C0120000, .mulh ⟨18, 63, 1, true, 32, false⟩),
  (0x02633F81C0130000, .mulhu ⟨19, 63, 1, true, 32, false⟩),
  (0x02833F81C0140000, .div ⟨20, 63, 1, true, 32, false⟩),
  (0x02A33F81C0150000, .divu ⟨21, 63, 1, true, 32, false⟩),
  (0x02C33F81C0160000, .rem ⟨22, 63, 1, true, 32, false⟩),
  (0x02E33F81C0170000, .remu ⟨23, 63, 1, true, 32, false⟩),
  (0x00034280000002A7, .addi ⟨0, 5, 0, false, 0x2A7⟩),  -- ADDI s5, s0, 0x2A7
  (0x00034082FFFFFFFF, .addi ⟨0, 1, 2, true, -1⟩),
  (0x00036082FFFFFFFF, .andi ⟨0, 1, 2, true, -1⟩),
  (0x00038082FFFFFFFF, .ori ⟨0, 1, 2, true, -1⟩),
  (0x0003A082FFFFFFFF, .xori ⟨0, 1, 2, true, -1⟩),
  (0x0003C082FFFFFFFF, .slti ⟨0, 1, 2, true, -1⟩),
  (0x0003E082FFFFFFFF, .sltiu ⟨0, 1, 2, true, -1⟩),
  (0x000400820000003F, .slli ⟨0, 1, 2, false, 63⟩),
  (0x000400820000007E, .srli ⟨0, 1, 2, false, 62⟩),
  (0x00040082000000BD, .srai ⟨0, 1, 2, false, 61⟩),
  (0x00040082000000FC, .rotli ⟨0, 1, 2, false, 60⟩),
  (0x00642480DEADBEEF, .movhi 3 9 0xDEADBEEF),
  (0x0004408280000000, .clz ⟨0, 1, 2, true⟩),
  (0x0004408280010000, .ctz ⟨0, 1, 2, true⟩),
  (0x0004408280020000, .popc ⟨0, 1, 2, true⟩),
  (0x0004408280030000, .sextb ⟨0, 1, 2, true⟩),
  (0x0004408280040000, .sexth ⟨0, 1, 2, true⟩),
  (0x0004408280050000, .sextw ⟨0, 1, 2, true⟩),
  (0x0004408280060000, .zextb ⟨0, 1, 2, true⟩),
  (0x0004408280070000, .zexth ⟨0, 1, 2, true⟩),
  (0x0004408280080000, .zextw ⟨0, 1, 2, true⟩),
  (0x0044408500090000, .movlc 2 1 5),
  (0x0004608207060000, .shadd 6 ⟨0, 1, 2, false, 3, true⟩),
  (0x000492A9002A0000, .sel 42 ⟨0, 37, 41, false, 0, false⟩)]  -- SEL s37, s41, s0, s42
theorem test_decode_scalar : spells words_scalar = true := by decide +kernel

/-- Words of the system group. -/
def words_system : List (Word × Instr) := [
  (0x0004A20000000200, .csrr 0 4 0x002),  -- CSRR s4, BASEI
  (0x0004A20000003200, .csrr 0 4 0x032),  -- CSRR s4, TRAP.CAUSE
  (0x0004C00500003100, .csrw 0 5 false 0x031),  -- CSRW TRAP.EPC, s5
  (0x0004C00800000300, .csrwIscope 0 8 false),  -- CSRW ISCOPE, s8
  (0x0004C00880000800, .csrwBndTags 0 8 true),
  (0x0004C00880002700, .csrwTcfg 0 8 true 7),
  (0x0004C00880000000, .csrwCtxStatus 0 8 true),
  (0x0004C00880020700, .csrwPmc 0 8 true 7),
  (0x0004C00880003700, .csrwTrapScr 0 8 true 1),
  (0x0005000000000007, .trap 0 7),  -- TRAP 7
  (0x0005600000000001, .bkpt 0 1),  -- BKPT 1
  (0x0005200000000000, .tret),
  (0x0005400000000000, .trig 0),
  (0x0005800D00100000, .barInit 0 13 false 0 false 1),  -- BAR.INIT b1, s13, s0
  (0x0005A28000300000, .barArrive 0 5 3),  -- BAR.ARRIVE s5, b3
  (0x0005AC0000100000, .barArrive 0 24 1),
  (0x0005C01800100000, .barWait 0 24 false 1),  -- BAR.WAIT b1, s24
  (0x0005E00900000000, .dump 0 9 false)]  -- DUMP s9
theorem test_decode_system : spells words_system = true := by decide +kernel

/-- Words of the memory group. -/
def words_memory : List (Word × Instr) := [
  (0x002602868020FFF8, .ldh ⟨⟨0, 1⟩, 5, 6, true, .i8, 0xFFF8⟩),
  (0x002602868010FFF8, .ldh ⟨⟨0, 1⟩, 5, 6, true, .i16, 0xFFF8⟩),
  (0x002602868000FFF8, .ldh ⟨⟨0, 1⟩, 5, 6, true, .i32, 0xFFF8⟩),
  (0x002602868060FFF8, .ldh ⟨⟨0, 1⟩, 5, 6, true, .nat8, 0xFFF8⟩),
  (0x002602868050FFF8, .ldh ⟨⟨0, 1⟩, 5, 6, true, .nat16, 0xFFF8⟩),
  (0x002602868040FFF8, .ldh ⟨⟨0, 1⟩, 5, 6, true, .nat32, 0xFFF8⟩),
  (0x002602868001FFF8, .ldh ⟨⟨0, 1⟩, 5, 6, true, .x64, 0xFFF8⟩),
  (0x000622C600010008, .sth ⟨⟨0, 0⟩, 5, true, 6, false, .x64, 8⟩),
  (0x000640068F020080, .probe 0 .fetch 6 true 7 true 0x80),
  (0x0006400600000000, .probe 0 .read 6 false 0 false 0),
  (0x0006400600010000, .probe 0 .write 6 false 0 false 0),
  (0x00068A0F00010120, .amold ⟨0, 20, 15, false, 0, false, .i64, .acq, 0, false, .sy⟩),  -- AMOLD.ACQ.SY.I64 s20, s15
  (0x0006A00207420040, .amost ⟨0, 0, 2, false, 3, true, .nat32, .rel, 0, false, .cl⟩),
  (0x0006C082864300A0, .amoswap ⟨0, 1, 2, true, 3, false, .nat64, .ar, 0, false, .di⟩),
  (0x0006E38A120100E0, .amocas ⟨0, 7, 10, false, 9, false, .i64, .acq, 0, false, .dv⟩),  -- AMOCAS.ACQ.DV.I64 s7, s10, s0, s9
  (0x0006E0820640FF00, .amocas ⟨0, 1, 2, false, 3, false, .nat32, .none, 63, true, .sy⟩),
  (0x0007008286800000, .amoadd ⟨0, 1, 2, true, 3, false, .f32, .none, 0, false, .ce⟩),
  (0x0007208286010040, .amoand ⟨0, 1, 2, true, 3, false, .i32, .acq, 0, false, .cl⟩),
  (0x00074082864200C0, .amoor ⟨0, 1, 2, true, 3, false, .nat32, .rel, 0, false, .dv⟩),
  (0x0007608286030120, .amoxor ⟨0, 1, 2, true, 3, false, .i64, .ar, 0, false, .sy⟩),
  (0x0007808286400020, .amomin ⟨0, 1, 2, true, 3, false, .nat64, .none, 0, false, .ce⟩),
  (0x0007A08286000000, .amomax ⟨0, 1, 2, true, 3, false, .i32, .none, 0, false, .ce⟩),
  (0x0007C000000000C0, .fence 0 .dv),  -- FENCE.DV
  (0x0007C00000000100, .fence 0 .sy),  -- FENCE.SY
  (0x0007E00000000000, .syncls 0)]
theorem test_decode_memory : spells words_memory = true := by decide +kernel

/-- Words of the access group. -/
def words_access : List (Word × Instr) := [
  (0x502802868050FFFE, .lds ⟨⟨5, 1⟩, 5, 6, true, .nat16, 0xFFFE⟩),
  (0xA01802C600200003, .sts ⟨⟨10, 0⟩, 5, true, 6, false, .i8, 3⟩),
  (0x0008200000000000, .ldv ⟨⟨0, 0⟩, 0, false, 0, false, 0⟩),  -- LDV v0, a0
  (0x00082F8F0001FFFF, .ldv ⟨⟨0, 0⟩, 31, false, 15, true, -1⟩),
  (0x00182FCF00000000, .stv ⟨⟨0, 0⟩, 31, true, 15, false, 0⟩),  -- STV a15, ~v31
  (0x000842810D4A0004, .ldvx ⟨⟨0, 0⟩, 5, false, 1, 6, true, true, true, 2, 4⟩),
  (0x001843020A500000, .stvx ⟨⟨0, 0⟩, 6, false, 2, 5, false, false, false, 0, 0⟩),  -- STVX a2, v6, v5
  (0x0008638900010000, .ldt ⟨0, 0⟩ 7 9 true),
  (0x0008808289600000, .vperm ⟨0, 0⟩ .nat8 1 2 true 4 true),
  (0x00090187FFF00040, .aset ⟨⟨0, 0⟩, 3, 7, true, 0x40⟩ 0x7FF),
  (0x000907870011FFFF, .asetV ⟨⟨0, 0⟩, 15, 7, false, 0xFFFF⟩ 1),
  (0x0009218700050009, .asetx ⟨⟨0, 0⟩, 3, 7, false, 9⟩ 5),
  (0x000941870000FFFF, .aadv ⟨⟨0, 0⟩, 3, 7, false, -1⟩),
  (0x0009418780010002, .aadvAbs ⟨⟨0, 0⟩, 3, 7, true, 2⟩),
  (0x0009618791000000, .abnd ⟨0, 0⟩ 3 7 true 8 true),
  (0x000A00C287F80200, .xcopyIn ⟨⟨0, 0⟩, 1, true, 2, true, 7, 15, true, 0, false, 0x200⟩),
  (0x000A208F7F010000, .xcopyInStrided ⟨⟨0, 0⟩, 1, false, 15, false, 127, 0, false, 0, true, 0⟩),
  (0x000A408201010000, .xcopyd ⟨⟨0, 0⟩, 1, false, 2, false, 1, 0, false, 0, true, 0⟩),
  (0x500A800504050000, .xaddw ⟨⟨5, 0⟩, 0, false, 5, false, 4, 0, false, 2, true, 0⟩),  -- R63: XADDW sums, s5, 512, 2 with pop.n push.n
  (0x000AA08206060000, .xaddwStrided ⟨⟨0, 0⟩, 1, false, 2, false, 6, 0, false, 3, false, 0⟩),
  (0x000AC08206480000, .xbcast ⟨⟨0, 0⟩, 1, false, 2, false, 6, 4, true, 0, false, 0⟩),
  (0x000AE08206480000, .xbcastStrided ⟨⟨0, 0⟩, 1, false, 2, false, 6, 4, true, 0, false, 0⟩),
  (0x001A0A9104010000, .xcopyOut ⟨⟨0, 0⟩, 21, false, 17, false, 4, 0, false, 0, true, 0⟩),  -- XCOPY.OUT s21, s17, 512
  (0x001A0D803A000000, .xcopyOut ⟨⟨0, 0⟩, 27, false, 0, false, 58, 0, false, 0, false, 0⟩),  -- XCOPY.OUT s27, s0, s29
  (0x001A1F3D01010000, .xcopyOut ⟨⟨0, 0⟩, 62, false, 61, false, 1, 0, false, 0, true, 0⟩),  -- XCOPY.OUT s62, s61, 128
  (0x801A278282010000, .xcopyOutStrided ⟨⟨8, 0⟩, 15, false, 2, true, 2, 0, false, 0, true, 0⟩),
  (0x000B020100000000, .chrd ⟨⟨0, 0⟩, 4, false, 1, 0⟩),  -- CHRD s4, ch1
  (0x000B0F9F0E100000, .chrd ⟨⟨0, 0⟩, 31, true, 31, 7⟩),
  (0x000B22020E000000, .chtry ⟨⟨0, 0⟩, 4, false, 2, 7⟩),
  (0x002B428000000000, .chtag ⟨⟨0, 1⟩, 5, false, 0, 0⟩),  -- (k1) CHTAG s5, ch0
  (0x000B620200030000, .chstat ⟨0, 0⟩ 4 2 3),
  (0x001B018000000000, .chwr ⟨⟨0, 0⟩, 3, false, false, 0⟩),  -- CHWR ch0, s3
  (0x003B020100300000, .chwrI ⟨⟨0, 1⟩, 4, false, true, 1⟩),  -- (k1) CHWR.I ch1, v4
  (0x001B201F00000000, .chclose ⟨0, 0⟩ 31)]
theorem test_decode_access : spells words_access = true := by decide +kernel

/-- Words of the vector group. -/
def words_vector : List (Word × Instr) := [
  (0x0010010083800000, .vadd ⟨⟨0, 0⟩, 2, false, 0, true, 1, true, .fp32, false, 0, 0⟩),  -- VADD.F32 v2, ~v0, ~v1
  (0x0010108002800000, .vadd ⟨⟨0, 0⟩, 33, false, 0, false, 1, false, .fp32, false, 0, 0⟩),  -- VADD.F32 oe, v0, v1
  (0x001010A382800000, .vadd ⟨⟨0, 0⟩, 33, false, 35, true, 1, false, .fp32, false, 0, 0⟩),  -- VADD.F32 oe, ~qw, v1
  (0xFFF00F82E0700F01, .vadd ⟨⟨15, 127⟩, 31, false, 2, true, 48, false, .nat4, true, 7, 1⟩),
  (0xFFF00F82E0301F01, .vsub ⟨⟨15, 127⟩, 31, false, 2, true, 48, false, .int4, true, 7, 1⟩),
  (0xFFF00F82E0602F00, .vmul ⟨⟨15, 127⟩, 31, false, 2, true, 48, false, .nat8, true, 7, 0⟩),
  (0xFFF00F82E0103F00, .vmin ⟨⟨15, 127⟩, 31, false, 2, true, 48, false, .int16, true, 7, 0⟩),
  (0xFFF00F82E0504F00, .vmax ⟨⟨15, 127⟩, 31, false, 2, true, 48, false, .nat16, true, 7, 0⟩),
  (0xFFF00F8280205F01, .vabs ⟨⟨15, 127⟩, 31, false, 2, true, 0, false, .int8, true, 7, 1⟩),
  (0xFFF00F8280006F01, .vneg ⟨⟨15, 127⟩, 31, false, 2, true, 0, false, .int32, true, 7, 1⟩),
  (0xFFF00F82E0907F00, .vdiv ⟨⟨15, 127⟩, 31, false, 2, true, 48, false, .bf16, true, 7, 0⟩),
  (0xFFF00F82E0408F00, .vmulh ⟨⟨15, 127⟩, 31, false, 2, true, 48, false, .nat32, true, 7, 0⟩),
  (0x001022050C900000, .vfma ⟨⟨0, 0⟩, 4, false, 5, false, 6, false, .bf16, false, 0, 0⟩),  -- VFMA.BF16 v4, v5, v6
  (0x001020C206201000, .vfms ⟨⟨0, 0⟩, 1, true, 2, false, 3, false, .int8, false, 0, 0⟩),
  (0x0010208206A02000, .vfnma ⟨⟨0, 0⟩, 1, false, 2, false, 3, false, .fp16, false, 0, 0⟩),
  (0x0010408206300000, .vand ⟨⟨0, 0⟩, 1, false, 2, false, 3, false, .int4, false, 0, 0⟩),
  (0x0010408206301000, .vor ⟨⟨0, 0⟩, 1, false, 2, false, 3, false, .int4, false, 0, 0⟩),
  (0x0010408206302000, .vxor ⟨⟨0, 0⟩, 1, false, 2, false, 3, false, .int4, false, 0, 0⟩),
  (0x0010408206303000, .vandn ⟨⟨0, 0⟩, 1, false, 2, false, 3, false, .int4, false, 0, 0⟩),
  (0x0010408200304000, .vnot ⟨⟨0, 0⟩, 1, false, 2, false, 0, false, .int4, false, 0, 0⟩),
  (0x0010408206305000, .vsll ⟨⟨0, 0⟩, 1, false, 2, false, 3, false, .int4, false, 0, 0⟩),
  (0x0010408206306000, .vsrl ⟨⟨0, 0⟩, 1, false, 2, false, 3, false, .int4, false, 0, 0⟩),
  (0x0010408206307000, .vsra ⟨⟨0, 0⟩, 1, false, 2, false, 3, false, .int4, false, 0, 0⟩),
  (0x0010408206308000, .vrotl ⟨⟨0, 0⟩, 1, false, 2, false, 3, false, .int4, false, 0, 0⟩),
  (0x0010638206600000, .vcmp .eq ⟨⟨0, 0⟩, 7, false, 2, false, 3, false, .nat8, false, 0, 0⟩),
  (0x0010638206601000, .vcmp .ne ⟨⟨0, 0⟩, 7, false, 2, false, 3, false, .nat8, false, 0, 0⟩),
  (0x0010638206602000, .vcmp .lt ⟨⟨0, 0⟩, 7, false, 2, false, 3, false, .nat8, false, 0, 0⟩),
  (0x0010638206603000, .vcmp .le ⟨⟨0, 0⟩, 7, false, 2, false, 3, false, .nat8, false, 0, 0⟩),
  (0x0010638206604000, .vcmp .gt ⟨⟨0, 0⟩, 7, false, 2, false, 3, false, .nat8, false, 0, 0⟩),
  (0x0010638206605000, .vcmp .ge ⟨⟨0, 0⟩, 7, false, 2, false, 3, false, .nat8, false, 0, 0⟩),
  (0x001060830EA04000, .vcmp .gt ⟨⟨0, 0⟩, 1, false, 3, false, 7, false, .fp16, false, 0, 0⟩),  -- VCMP.GT.F16 m1, v3, v7
  (0x0010808206B00D00, .vsel ⟨⟨0, 0⟩, 1, false, 2, false, 3, false, .cb4, true, 5, 0⟩),
  (0x0010808200B01000, .vmov ⟨⟨0, 0⟩, 1, false, 2, false, 0, false, .cb4, false, 0, 0⟩),
  (0x0010A10180408000, .vcvt .fp32 ⟨⟨0, 0⟩, 2, false, 1, true, 0, false, .nat32, false, 0, 0⟩),  -- VCVT.NAT32.F32 v2, ~v1
  (0x0010A40400200000, .vcvt .int32 ⟨⟨0, 0⟩, 8, false, 4, false, 0, false, .int8, false, 0, 0⟩),  -- VCVT.I8.I32 v8, v4
  (0x0010A60800002001, .vcvt .int8 ⟨⟨0, 0⟩, 12, false, 8, false, 0, false, .int32, false, 0, 1⟩),
  (0x0010C10100900010, .vrsum 1 ⟨⟨0, 0⟩, 2, false, 1, false, 0, false, .bf16, false, 0, 0⟩),  -- VRSUM.BF16.NP1 v2, v1, v0
  (0x0010C20392800010, .vrsum 1 ⟨⟨0, 0⟩, 4, false, 3, true, 9, false, .fp32, false, 0, 0⟩),  -- VRSUM.F32.NP1 v4, ~v3, v9
  (0x0010C08206301000, .vrmax ⟨⟨0, 0⟩, 1, false, 2, false, 3, false, .int4, false, 0, 0⟩),
  (0x0010C08206802000, .vrmin ⟨⟨0, 0⟩, 1, false, 2, false, 3, false, .fp32, false, 0, 0⟩),
  (0x0010E91022500B30, .vscan 3 ⟨⟨0, 0⟩, 18, false, 16, false, 17, false, .nat16, true, 3, 0⟩),  -- VSCAN.NAT16.NP3 v18, v16, v17, m3
  (0x0011008200900000, .vrcp ⟨⟨0, 0⟩, 1, false, 2, false, 0, false, .bf16, false, 0, 0⟩),
  (0x0011008200901000, .vsqrt ⟨⟨0, 0⟩, 1, false, 2, false, 0, false, .bf16, false, 0, 0⟩),
  (0x0011008200902000, .vrsqrt ⟨⟨0, 0⟩, 1, false, 2, false, 0, false, .bf16, false, 0, 0⟩),
  (0x0011008200903000, .vexp ⟨⟨0, 0⟩, 1, false, 2, false, 0, false, .bf16, false, 0, 0⟩),
  (0x0011008200904000, .vexp2 ⟨⟨0, 0⟩, 1, false, 2, false, 0, false, .bf16, false, 0, 0⟩),
  (0x0011008200905000, .vlog2 ⟨⟨0, 0⟩, 1, false, 2, false, 0, false, .bf16, false, 0, 0⟩),
  (0x0011008200906000, .vtanh ⟨⟨0, 0⟩, 1, false, 2, false, 0, false, .bf16, false, 0, 0⟩),
  (0x0011008200907000, .vsigm ⟨⟨0, 0⟩, 1, false, 2, false, 0, false, .bf16, false, 0, 0⟩),
  (0x0011220380800900, .vcompress ⟨⟨0, 0⟩, 4, false, 3, true, 0, false, .fp32, true, 1, 0⟩),  -- VCOMPRESS.F32 v4, s0, ~v3, m1
  (0x0011208200B01800, .vexpand ⟨⟨0, 0⟩, 1, false, 2, false, 0, false, .cb4, true, 0, 0⟩),
  (0x0011408000A02000, .vordkey ⟨⟨0, 0⟩, 1, false, 0, false, 0, false, .fp16, false, 0, 0⟩),  -- VORDKEY.F16 v1, v0
  (0x0011410100501001, .vdigit ⟨⟨0, 0⟩, 2, false, 1, false, 0, false, .nat16, false, 0, 1⟩),  -- VDIGIT.D8.NAT16 v2, v1, 1
  (0x0011420200500900, .vhist ⟨⟨0, 0⟩, 4, false, 2, false, 0, false, .nat16, true, 1, 0⟩),  -- VHIST.NAT16 v4, v2, m1
  (0x00116A030EA03000, .vtopk 3 ⟨⟨0, 0⟩, 20, false, 3, false, 7, false, .fp16, false, 0, 0⟩),  -- VTOPK.F16 v20, v3, s7, 3
  (0x00116A0000901000, .vtopk 1 ⟨⟨0, 0⟩, 20, false, 0, false, 0, false, .bf16, false, 0, 0⟩),  -- VTOPK.BF16 v20, v0, s0, 1
  (0x0011808206B07003, .vcbdec 7 ⟨⟨0, 0⟩, 1, false, 2, false, 3, false, .cb4, false, 0, 3⟩),
  (0x001180820690D002, .vcbenc 5 ⟨⟨0, 0⟩, 1, false, 2, false, 3, false, .bf16, false, 0, 2⟩),
  (0x0011800200912000, .cbld 2 ⟨⟨0, 0⟩, 0, false, 2, false, 0, false, .bf16, false, 0, 0⟩),
  (0x0011A3860A000000, .mand ⟨⟨0, 0⟩, 7, false, 6, false, 5, false, .int32, false, 0, 0⟩),
  (0x0011A3860A001000, .mor ⟨⟨0, 0⟩, 7, false, 6, false, 5, false, .int32, false, 0, 0⟩),
  (0x0011A3860A002000, .mxor ⟨⟨0, 0⟩, 7, false, 6, false, 5, false, .int32, false, 0, 0⟩),
  (0x0011A3860A003000, .mandn ⟨⟨0, 0⟩, 7, false, 6, false, 5, false, .int32, false, 0, 0⟩),
  (0x0011A38600004000, .mnot ⟨⟨0, 0⟩, 7, false, 6, false, 0, false, .int32, false, 0, 0⟩),
  (0x0011A38000005000, .mset ⟨⟨0, 0⟩, 7, false, 0, false, 0, false, .int32, false, 0, 0⟩),
  (0x0011A38000006000, .mclr ⟨⟨0, 0⟩, 7, false, 0, false, 0, false, .int32, false, 0, 0⟩),
  (0x0011A38600507000, .mcnt ⟨⟨0, 0⟩, 7, false, 6, false, 0, false, .nat16, false, 0, 0⟩),
  (0x0011A38600508000, .mfirst ⟨⟨0, 0⟩, 7, false, 6, false, 0, false, .nat16, false, 0, 0⟩),
  (0x0011A38600009000, .mtov ⟨⟨0, 0⟩, 7, false, 6, false, 0, false, .int32, false, 0, 0⟩),
  (0x0011A3860000A000, .vtom ⟨⟨0, 0⟩, 7, false, 6, false, 0, false, .int32, false, 0, 0⟩),
  (0x0011D01500400000, .vextr ⟨⟨0, 0⟩, 32, false, 21, false, 0, false, .nat32, false, 0, 0⟩),  -- VEXTR.NAT32 s32, v21, s0
  (0x0011C08287B01000, .vins ⟨⟨0, 0⟩, 1, false, 2, true, 3, true, .cb4, false, 0, 0⟩),
  (0x0011C0BF00302A00, .vsplat ⟨⟨0, 0⟩, 1, false, 63, false, 0, false, .int4, true, 2, 0⟩),
  (0x0033008200000000, .whenVector ⟨⟨0, 1⟩, 1, false, 2, false, 0, false, .int32, false, 0, 0⟩),
  (0x0093218104000000, .mergeVector ⟨⟨0, 4⟩, 3, false, 1, false, 2, false, .int32, false, 0, 0⟩),  -- (k4) MERGE v3, v1, v2
  (0x0093218104000001, .mergeVector ⟨⟨0, 4⟩, 3, false, 1, false, 2, false, .int32, false, 0, 1⟩),  -- (k4) MERGE t3, t1, t2
  (0x0073410002902000, .unionVector .add ⟨⟨0, 3⟩, 2, false, 0, false, 1, false, .bf16, false, 0, 0⟩),  -- (k3) UNION.ADD.BF16 v2, v0, v1
  (0x0013408206000001, .unionVector .first ⟨⟨0, 0⟩, 1, false, 2, false, 3, false, .int32, false, 0, 1⟩),
  (0x0013408206001000, .unionVector .second ⟨⟨0, 0⟩, 1, false, 2, false, 3, false, .int32, false, 0, 0⟩),
  (0x0013408206703000, .unionVector .max ⟨⟨0, 0⟩, 1, false, 2, false, 3, false, .nat4, false, 0, 0⟩),
  (0x001360821E000000, .preVector ⟨⟨0, 0⟩, 1, false, 2, false, 15, false, .int32, false, 0, 0⟩),
  (0x0013808288000000, .fbyVector ⟨⟨0, 0⟩, 1, false, 2, true, 4, false, .int32, false, 0, 0⟩),
  (0x0053A08200000001, .currentVector ⟨⟨0, 2⟩, 1, false, 2, false, 0, false, .int32, false, 0, 1⟩)]
theorem test_decode_vector : spells words_vector = true := by decide +kernel

/-- Words of the immediate group. -/
def words_immediate : List (Word × Instr) := [
  (0x00120101C8003F80, .vaddImm ⟨⟨0, 0⟩, 2, 1, true, .bf16, false, 0, 0x3f80⟩),  -- VADD.BF16 v2, ~v1, 0x3F80
  (0x00120080C8803F00, .vmulImm ⟨⟨0, 0⟩, 1, 0, true, .bf16, false, 0, 0x3f00⟩),  -- VMUL.BF16 v1, ~v0, 0x3F00
  (0x0012000048AC3F00, .vmulImm ⟨⟨0, 0⟩, 0, 0, false, .bf16, true, 3, 0x3f00⟩),  -- VMUL.BF16 v0, v0, 0x3F00, m3
  (0x0012018248803F00, .vmulImm ⟨⟨0, 0⟩, 3, 2, false, .bf16, false, 0, 0x3f00⟩),  -- VMUL.BF16 v3, v2, 0x3F00
  (0x00120182C0803380, .vmulImm ⟨⟨0, 0⟩, 3, 2, true, .fp32, false, 0, 0x3380⟩),  -- VMUL.F32 v3, ~v2, 0x3380
  (0xFFF20082187CFFFF, .vsubImm ⟨⟨15, 127⟩, 1, 2, false, .int4, true, 7, 0xffff⟩),
  (0xFFF2008218FCFFFF, .vminImm ⟨⟨15, 127⟩, 1, 2, false, .int4, true, 7, 0xffff⟩),
  (0xFFF20082193CFFFF, .vmaxImm ⟨⟨15, 127⟩, 1, 2, false, .int4, true, 7, 0xffff⟩),
  (0x00123120A8008001, .vandImm ⟨⟨0, 0⟩, 34, 32, true, .nat16, false, 0, 0x8001⟩),
  (0x00123120A8408001, .vorImm ⟨⟨0, 0⟩, 34, 32, true, .nat16, false, 0, 0x8001⟩),
  (0x00123120A8808001, .vxorImm ⟨⟨0, 0⟩, 34, 32, true, .nat16, false, 0, 0x8001⟩),
  (0x00123120A8C08001, .vandnImm ⟨⟨0, 0⟩, 34, 32, true, .nat16, false, 0, 0x8001⟩),
  (0x00123120A9408001, .vsllImm ⟨⟨0, 0⟩, 34, 32, true, .nat16, false, 0, 0x8001⟩),
  (0x00123120A9C08001, .vsraImm ⟨⟨0, 0⟩, 34, 32, true, .nat16, false, 0, 0x8001⟩),
  (0x00123120AA008001, .vrotlImm ⟨⟨0, 0⟩, 34, 32, true, .nat16, false, 0, 0x8001⟩),
  (0x00122080A1800008, .vsrlImm ⟨⟨0, 0⟩, 1, 0, true, .nat32, false, 0, 0x8⟩),  -- VSRL.NAT32 v1, ~v0, 8
  (0x0012438208000005, .vcmpImm .eq ⟨⟨0, 0⟩, 7, 2, false, .int16, false, 0, 0x5⟩),
  (0x0012438208400005, .vcmpImm .ne ⟨⟨0, 0⟩, 7, 2, false, .int16, false, 0, 0x5⟩),
  (0x0012438208800005, .vcmpImm .lt ⟨⟨0, 0⟩, 7, 2, false, .int16, false, 0, 0x5⟩),
  (0x0012438208C00005, .vcmpImm .le ⟨⟨0, 0⟩, 7, 2, false, .int16, false, 0, 0x5⟩),
  (0x0012438209000005, .vcmpImm .gt ⟨⟨0, 0⟩, 7, 2, false, .int16, false, 0, 0x5⟩),
  (0x0012438209400005, .vcmpImm .ge ⟨⟨0, 0⟩, 7, 2, false, .int16, false, 0, 0x5⟩),
  (0x0012410049000000, .vcmpImm .gt ⟨⟨0, 0⟩, 2, 0, false, .bf16, false, 0, 0x0⟩),  -- VCMP.GT.BF16 m2, v0, 0
  (0x0012648048003F80, .vmovi ⟨⟨0, 0⟩, 9, 0, false, .bf16, false, 0, 0x3f80⟩)]  -- VMOVI.BF16 v9, 0x3F80
theorem test_decode_immediate : spells words_immediate = true := by decide +kernel

/-- Words of the matrix group. -/
def words_matrix : List (Word × Instr) := [
  (0x0014000000902040, .tcfg ⟨0, 0⟩ 0 .bf16 16 64),  -- TCFG t0, BF16, 16, 64
  (0x0014038000808100, .tcfg ⟨0, 0⟩ 7 .fp32 64 256),
  (0x0014200000014000, .mma ⟨⟨0, 0⟩, 0, 0, false, 0, false, 1, false, true, false, false⟩),  -- MMA.NP1 ytile, t0, g0
  (0x0014200102014000, .mma ⟨⟨0, 0⟩, 0, 1, false, 1, false, 1, false, true, false, false⟩),  -- MMA.NP1 0, t1, g1
  (0x001420810201B000, .mma ⟨⟨0, 0⟩, 1, 1, false, 1, false, 1, true, false, true, true⟩),  -- MMA.NP1.TA.TB 4096, g1, t1
  (0x001427878D062000, .mma ⟨⟨0, 0⟩, 15, 7, true, 6, true, 6, false, false, true, false⟩),
  (0x0014400B9900A000, .mcfgLoop ⟨⟨0, 0⟩, 5, 11, true, 12, true⟩),
  (0x0014400B9900A100, .mcfgStep ⟨⟨0, 0⟩, 5, 11, true, 12, true⟩),
  (0x0014400B9900A200, .mcfgGstep ⟨⟨0, 0⟩, 5, 11, true, 12, true⟩),
  (0x0014400B99000300, .mcfgBase ⟨⟨0, 0⟩, 0, 11, true, 12, true⟩),
  (0x0014400B99000400, .mcfgPitch ⟨⟨0, 0⟩, 0, 11, true, 12, true⟩),
  (0x0014400B99000500, .mcfgOper ⟨⟨0, 0⟩, 0, 11, true, 12, true⟩),
  (0x0014400B80000600, .mcfgAcc ⟨⟨0, 0⟩, 0, 11, true, 0, false⟩),
  (0x0014400400000000, .mcfgLoop ⟨⟨0, 0⟩, 0, 4, false, 0, false⟩),  -- MCFG.LOOP 0, s4, s0
  (0x0014400B18000500, .mcfgOper ⟨⟨0, 0⟩, 0, 11, false, 12, false⟩),  -- MCFG.OPER s11, s12
  (0x0014610000010000, .mgo ⟨0, 0⟩ 2 1),  -- MGO.NP1 8192
  (0x8014800000000000, .accrd ⟨⟨8, 0⟩, 0, false, 0, false, 0⟩),  -- ACCRD v0, sums | pop.p
  (0x00148F8980000080, .accrd ⟨⟨0, 0⟩, 31, false, 9, true, 128⟩),
  (0x0014A0093F000080, .accwr ⟨⟨0, 0⟩, 31, true, 9, false, 128⟩),
  (0x2014C00000000000, .accz ⟨⟨2, 0⟩, 0, false, 0, false, 0⟩)]  -- ACCZ sums | push.p
theorem test_decode_matrix : spells words_matrix = true := by decide +kernel

/-- Words of the generator group. -/
def words_generator : List (Word × Instr) := [
  (0x001600007C0F3E00, .gset ⟨0, 0⟩ 0 .sign 31 15 0x3E00),  -- GSET g0, SIGN, 32, 16, 0x3E00
  (0x001600800C073F80, .gset ⟨0, 0⟩ 1 .sign 3 7 0x3F80),  -- GSET g1, SIGN, 4, 8, 0x3F80
  (0x0016001000003F80, .gset ⟨0, 0⟩ 0 .uniform 0 0 0x3F80),  -- GSET g0, UNIFORM, 1, 1, 0x3F80
  (0x0016078FFE000000, .gset ⟨0, 0⟩ 15 .sign 1023 512 0),
  (0x0016079FFE000001, .gset ⟨0, 0⟩ 15 .uniform 1023 512 1),
  (0x001607AFFE000002, .gset ⟨0, 0⟩ 15 .gauss 1023 512 2),
  (0x001607BFFE000003, .gset ⟨0, 0⟩ 15 .ropeCos 1023 512 3),
  (0x001607CFFE000004, .gset ⟨0, 0⟩ 15 .ropeSin 1023 512 4),
  (0x001607DFFE000005, .gset ⟨0, 0⟩ 15 .maskCausal 1023 512 5),
  (0x001607EFFE000006, .gset ⟨0, 0⟩ 15 .maskBand 1023 512 6),
  (0x001607FFFE000007, .gset ⟨0, 0⟩ 15 .maskKeep 1023 512 7),
  (0x0016200600000000, .gkey ⟨⟨0, 0⟩, 0, 6, false, 0, false⟩),  -- GKEY g0, s6, s0
  (0x001627868F010000, .gkeyOff ⟨⟨0, 0⟩, 15, 6, true, 7, true⟩),
  (0x001620060E020000, .gkeyParam ⟨⟨0, 0⟩, 0, 6, false, 7, false⟩),
  (0x0016400000000000, .gctr ⟨⟨0, 0⟩, 0, 0, false, 0, false⟩),  -- GCTR g0, s0, s0
  (0x0016601700000000, .gadv ⟨⟨0, 0⟩, 0, 23, false, 0, false⟩),  -- GADV g0, s23, s0
  (0x00168F8F7F000000, .gdraw ⟨0, 0⟩ 31 15 63 true),
  (0x0016800026010000, .gdrawAdv ⟨0, 0⟩ 0 0 19 false),  -- GDRAW.ADV v0, g0, s19
  (0x0016840206010000, .gdrawAdv ⟨0, 0⟩ 8 2 3 false),  -- GDRAW.ADV v8, g2, s3
  (0x0016A00000010000, .gscope ⟨0, 0⟩ 0 1),  -- GSCOPE g0, LAUNCH
  (0x0016A00000000000, .gscope ⟨0, 0⟩ 0 0),  -- GSCOPE g0, NONE
  (0x0016CF8000000000, .gsave ⟨0, 0⟩ 31 0),  -- GSAVE v31, g0
  (0x0016E79F80000000, .gload ⟨0, 0⟩ 15 31 true)]
theorem test_decode_generator : spells words_generator = true := by decide +kernel
def words_refused : List (Word × WordFault) := [
  (0x0000000000000000, .illegalOpcode),  -- the all-zero word
  (0x001C000000000000, .extension 0),  -- opcode 0xE0
  (0x0010010083800001, .illegalOpcode),  -- VADD.F32 with .SAT (R229)
  (0x0010010083800010, .reservedField),  -- VADD.F32 with NP set (R229)
  (0x0010010083800011, .illegalOpcode),  -- both: listing precedes (R229)
  (0x00012000000A0400, .reservedField),  -- LOOP with END = 0 (R219)
  (0x0000400030000000, .illegalOpcode),  -- COND 6
  (0x0000400001000000, .reservedField),  -- bits 26:24 of BR
  (0x0003200000180000, .illegalOpcode),  -- FN 0x18 (R252)
  (0x1003200000000000, .reservedField),  -- a token bit of a sequencer word
  (0x0003200000000001, .reservedField),  -- bits 15:0 of AL
  (0x0004400600090000, .reservedField),  -- MOVLC of lc6
  (0x0020200000000000, .reservedField),  -- a control instruction on k1 (R233)
  (0x8008200000000000, .reservedField),  -- pop.p in the L queue (R9)
  (0x4018200000000000, .reservedField),  -- pop.n in the S queue (R9)
  (0x0008200000800000, .reservedField),  -- TY of LDV (R83)
  (0x0008400000000000, .illegalOpcode),  -- index type of LDVX (R85)
  (0x0006000000800000, .illegalOpcode),  -- LDH type (R80)
  (0x0006400000030000, .reservedField),  -- PROBE kind 3 (R89)
  (0x0010120000800000, .reservedField),  -- a special operand of R262 that is not listed
  (0x0010000000C00000, .illegalOpcode),  -- TY 12 (R216)
  (0x0010800000000000, .reservedField),  -- VSEL with ME = 0 (R268)
  (0x0010A48400200000, .reservedField),  -- VCVT.I8.I32 v9 (R270)
  (0x0010A00000202000, .illegalOpcode),  -- VCVT to the same type
  (0x0013000000000002, .reservedField),  -- MOD bit 1 of WHEN (R245)
  (0x0014000000900040, .reservedField),  -- TCFG with ROWS = 0 (R285)
  (0x0014200000070000, .emulation),  -- NP 7 (R210)
  (0x0014200000000000, .illegalOpcode),  -- NP 0 (R199)
  (0x001420000001C000, .reservedField),  -- GA = GB = 1 (R223)
  (0x0014400000000700, .reservedField),  -- MCFG ITEM 7 (R294)
  (0x0016200000030000, .illegalOpcode),  -- SUB 3 of GKEY (R308)
  (0x0016A000000A0000, .reservedField),  -- scope 10 (R303)
  (0x0004A00000000900, .illegalOpcode),  -- an unassigned register number (R226)
  (0x0007C00000000140, .reservedField)]  -- scope 5 (R144)
theorem test_decode_refused : (words_refused.all fun x => decide (decode x.1 = .error x.2)) = true := by decide +kernel

/-! ### Ill-formed terms -/

/-- A vector operation on v1, v2, v3, unmasked. -/
def vo (ty : ElemType) : VOp := ⟨⟨0, 0⟩, 1, false, 2, false, 3, false, ty, false, 0, 0⟩
/-- The same with one source. -/
def vu (ty : ElemType) : VOp := { vo ty with b := 0 }
def vim (ty : ElemType) : VImm := ⟨⟨0, 0⟩, 1, 2, false, ty, false, 0, 0⟩
def atom : Amo := ⟨0, 1, 2, false, 3, false, .i32, .none, 0, false, .ce⟩
def cpy : Copy := ⟨⟨0, 0⟩, 1, false, 2, false, 0, 0, false, 0, true, 0⟩
def mmo : MmaOp := ⟨⟨0, 0⟩, 0, 0, false, 1, false, 1, false, false, false, false⟩

/-- One term for each value that an instruction does not list (R229, third step). -/
def ill_listed : List Instr := [
  .csrr 0 1 0x009, .csrw 0 1 false 0x413, .shadd 7 ⟨0, 1, 2, false, 3, false⟩,
  .amold { atom with ord := .rel, x := 0 }, .amold { atom with ty := .f32, x := 0 }, .amost { atom with ord := .acq, d := 0 },
  .amost { atom with ty := .f32, d := 0 }, .amoswap { atom with ty := .f32 }, .amocas { atom with ty := .f32 }, .amoand { atom with ty := .f32 },
  .amoor { atom with ty := .f32 }, .amoxor { atom with ty := .f32 }, .amomin { atom with ty := .f32 }, .amomax { atom with ty := .f32 },
  .vperm ⟨0, 0⟩ .int4 1 2 false 4 false,
  .vadd (vo .cb4), .vadd { vo .fp32 with mod := 1 }, .vsub { vo .int8 with mod := 2 }, .vmul (vo .int4), .vmul { vo .fp32 with mod := 1 },
  .vmin (vo .cb4), .vmax { vo .int8 with mod := 1 }, .vabs (vu .nat8), .vneg { vu .fp16 with mod := 1 }, .vdiv (vo .int32), .vmulh (vo .fp32),
  .vfma (vo .nat4), .vfms { vo .fp32 with mod := 1 }, .vfnma (vo .cb4), .vand { vo .cb4 with mod := 1 }, .vor { vo .cb4 with mod := 1 },
  .vxor { vo .cb4 with mod := 1 }, .vandn { vo .cb4 with mod := 1 }, .vnot { vu .cb4 with mod := 1 }, .vsll (vo .fp32), .vsrl (vo .bf16),
  .vsra (vo .cb4), .vrotl { vo .int8 with mod := 1 }, .vcmp .eq (vo .cb4), .vsel { vo .cb4 with mod := 1, me := true }, .vmov { vu .cb4 with mod := 1 },
  .vaddImm (vim .cb4), .vsubImm (vim .cb4), .vminImm (vim .cb4), .vmaxImm (vim .cb4), .vmulImm (vim .int4), .vandImm (vim .cb4), .vorImm (vim .cb4),
  .vxorImm (vim .cb4), .vandnImm (vim .cb4), .vsllImm (vim .fp32), .vsrlImm (vim .bf16), .vsraImm (vim .fp16), .vrotlImm (vim .cb4),
  .vcmpImm .lt (vim .cb4), .vmovi { vim .cb4 with a := 0 },
  .vcvt .int8 (vu .int8), .vcvt .cb4 (vu .int8), .vcvt .int32 { vu .int4 with d := 8 }, .vcvt .fp32 { vu .int32 with mod := 1 },
  .vcvt .nat8 { vu .int8 with mod := 2 }, .vcvt .fp32 { vu .int32 with mod := 4 },
  .vrsum 1 (vo .fp16), .vrsum 3 (vo .cb4), .vscan 3 (vo .int4), .vrmax (vo .cb4), .vrmin { vo .fp32 with mod := 1 },
  .vrcp (vu .int8), .vsqrt (vu .int8), .vrsqrt (vu .int8), .vexp (vu .int8), .vexp2 (vu .int8), .vlog2 (vu .int8), .vtanh (vu .int8),
  .vsigm { vu .fp32 with mod := 1 }, .vcompress { vo .cb4 with me := true, mod := 1 }, .vexpand { vu .cb4 with me := true, mod := 1 },
  .vhist { vu .int8 with d := 2 }, .vdigit { vu .int8 with mod := 1 }, .vdigit { vu .nat8 with mod := 10 }, .vdigit (vu .fp32), .vordkey (vu .int4),
  .vtopk 0 { vo .fp16 with d := 2 }, .vtopk 129 { vo .fp16 with d := 2 }, .vtopk 1 { vo .int4 with d := 2 }, .vtopk 1 { vo .fp16 with d := 2, mod := 4 },
  .vcbdec 0 (vo .bf16), .vcbenc 0 { vo .bf16 with mod := 4 }, .cbld 0 { vu .cb4 with d := 0 },
  .mnot { vu .int32 with mod := 1 }, .mcnt { vu .cb4 with mod := 1 }, .vextr { vo .cb4 with mod := 1 }, .vins { vo .cb4 with mod := 1 },
  .vsplat { vu .cb4 with mod := 1 },
  .whenVector (vu .fp32), .mergeVector (vo .fp32), .currentVector (vu .fp32), .unionVector .first (vo .fp32), .unionVector .add (vo .cb4),
  .unionVector .max { vo .fp32 with mod := 1 }, .preVector { vo .int32 with mod := 1 }, .fbyVector (vo .fp32),
  .tcfg ⟨0, 0⟩ 0 .int16 1 2, .mma { mmo with np := 0 }, .mma { mmo with np := 7 }, .mgo ⟨0, 0⟩ 0 0]

/-- One term for each token bit, must-be-zero field and range (R229, fourth step). -/
def ill_ranged : List Instr := [
  .loopRegister ⟨1, false, 2, false, 3, false, 6, 1⟩, .loopRegister ⟨1, false, 2, false, 3, false, 0, 0⟩, .loopImmediate ⟨7, 0, 1, 1, 1⟩,
  .loopImmediate ⟨0, 0, 1, 1, 0⟩, .kdefEvery 0 0 1 0, .kdefEvery 112 0 1 0, .kdefEvery 1 2 1 0, .kdefEvery 1 1 1 0, .kdefEvery 1 0 0 0,
  .kdefOn 1 1 3, .kdefOnnot 3 5 3, .kdefUnion 2 1 3, .kdefUnion 2 3 1, .movlc 0 1 6,
  .csrw 0 1 false 0x003, .csrw 0 1 false 0x008, .csrw 0 1 false 0x000, .csrw 0 1 false 0x020, .csrw 0 1 false 0x200, .csrw 0 1 false 0x036,
  .csrw 0 1 false 0x037, .ldh ⟨⟨1, 0⟩, 1, 2, false, .i8, 0⟩, .sth ⟨⟨8, 0⟩, 1, false, 2, false, .i8, 0⟩,
  .amold atom, .amold { atom with x := 0, ux := true }, .amost atom, .amoadd { atom with c := 1 }, .amoswap { atom with uc := true },
  .lds ⟨⟨8, 0⟩, 1, 2, false, .i8, 0⟩, .lds ⟨⟨2, 0⟩, 1, 2, false, .i8, 0⟩, .sts ⟨⟨4, 0⟩, 1, false, 2, false, .i8, 0⟩, .sts ⟨⟨1, 0⟩, 1, false, 2, false, .i8, 0⟩,
  .ldv ⟨⟨0, 0⟩, 1, true, 2, false, 0⟩, .ldv ⟨⟨8, 0⟩, 1, false, 2, false, 0⟩, .stv ⟨⟨1, 0⟩, 1, false, 2, false, 0⟩,
  .ldvx ⟨⟨0, 0⟩, 1, true, 2, 3, false, false, false, 0, 0⟩, .ldvx ⟨⟨0, 0⟩, 1, false, 2, 3, false, false, false, 1, 0⟩,
  .stvx ⟨⟨0, 0⟩, 1, false, 2, 3, false, false, false, 1, 0⟩, .stvx ⟨⟨4, 0⟩, 1, false, 2, 3, false, false, false, 0, 0⟩, .ldt ⟨8, 0⟩ 1 2 false,
  .vperm ⟨0, 0⟩ .int8 1 2 false 3 false, .vperm ⟨2, 0⟩ .int16 1 2 false 3 false, .aset ⟨⟨8, 0⟩, 1, 2, false, 0⟩ 0, .asetV ⟨⟨2, 0⟩, 1, 2, false, 0⟩ 0,
  .asetx ⟨⟨8, 0⟩, 1, 2, false, 0⟩ 0, .aadv ⟨⟨8, 0⟩, 1, 2, false, 0⟩, .aadvAbs ⟨⟨2, 0⟩, 1, 2, false, 0⟩, .abnd ⟨8, 0⟩ 1 2 false 3 false,
  .xcopyIn { cpy with slot := 1 }, .xcopyIn { cpy with h := ⟨8, 0⟩ }, .xcopyInStrided { cpy with s := 16 }, .xcopyInStrided { cpy with us := true },
  .xcopyd { cpy with slot := 3 }, .xaddw { cpy with h := ⟨2, 0⟩ }, .xaddwStrided { cpy with s := 63 }, .xbcast cpy, .xbcast { cpy with be := true, slot := 1 },
  .xbcastStrided { cpy with be := true, us := true }, .xcopyOut { cpy with h := ⟨1, 0⟩ }, .xcopyOut { cpy with slot := 1 },
  .xcopyOutStrided { cpy with off := 1 }, .xcopyOutStrided { cpy with d := 16 }, .xcopyOutStrided { cpy with ud := true },
  .chrd ⟨⟨0, 0⟩, 32, true, 1, 0⟩, .chrd ⟨⟨8, 0⟩, 1, false, 1, 0⟩, .chtry ⟨⟨0, 0⟩, 63, true, 1, 0⟩, .chtag ⟨⟨0, 0⟩, 1, true, 1, 0⟩, .chstat ⟨0, 0⟩ 1 1 4,
  .chwr ⟨⟨0, 0⟩, 32, false, true, 1⟩, .chwrI ⟨⟨4, 0⟩, 1, false, false, 1⟩, .chclose ⟨1, 0⟩ 1,
  .vadd { vo .fp32 with d := 0x24 }, .vadd { vo .fp32 with ud := true }, .vadd { vo .fp32 with a := 0x31 }, .vadd { vo .fp32 with b := 0x3F },
  .vadd { vo .fp32 with msk := 1 }, .vabs (vo .fp32), .vabs { vu .fp32 with ub := true }, .vfma { vo .fp32 with d := 0x30 }, .vcmp .eq { vo .fp32 with d := 8 },
  .vsel (vo .fp32), .vaddImm { vim .fp32 with d := 0x24 }, .vaddImm { vim .fp32 with msk := 2 }, .vcmpImm .eq { vim .fp32 with d := 8 }, .vmovi (vim .fp32),
  .vmovi { vim .fp32 with a := 0, ua := true }, .vcvt .fp32 (vu .bf16), .vcvt .bf16 { vu .fp32 with a := 3 }, .vcvt .int32 { vu .int8 with d := 6 },
  .vcvt .fp32 { vo .int32 with b := 1 }, .vrsum 1 { vo .fp32 with ud := true }, .vrmax { vo .fp32 with d := 0x24 }, .vscan 3 (vo .int16),
  .vcompress (vo .fp32), .vcompress { vo .fp32 with me := true, ub := true }, .vexpand (vu .fp32), .vhist (vu .nat8), .vtopk 1 (vo .fp16),
  .vtopk 1 { vu .fp16 with d := 2, a := 3, mod := 2 }, .vcbdec 0 { vo .cb4 with d := 0x24 }, .vcbenc 0 { vo .bf16 with d := 0x30 }, .cbld 0 (vu .bf16),
  .cbld 0 { vu .bf16 with d := 0, me := true }, .mand (vo .int16), .mand { vo .int32 with d := 8 }, .mand { vo .int32 with me := true }, .mand { vo .int32 with ua := true },
  .mnot (vo .int32), .mset (vu .int32), .mclr { vo .int32 with a := 0 }, .mcnt { vu .int32 with a := 8 }, .mfirst { vu .int32 with ud := true },
  .mtov { vu .int32 with a := 8 }, .vtom { vu .int32 with d := 8 }, .vextr { vo .int32 with me := true }, .vins { vo .int32 with d := 0x20 },
  .vsplat (vo .int32), .whenVector (vo .int32), .whenVector { vu .int32 with mod := 2 }, .whenVector { vu .int32 with d := 0x20 },
  .mergeVector { vo .int32 with mod := 1, b := 8 }, .unionVector .first { vo .int32 with me := true }, .preVector { vo .int32 with b := 16 },
  .fbyVector { vo .int32 with ub := true }, .currentVector { vu .int32 with ud := true }, .tcfg ⟨0, 0⟩ 0 .bf16 0 64, .tcfg ⟨0, 0⟩ 0 .bf16 65 64,
  .tcfg ⟨0, 0⟩ 0 .int8 1 0, .tcfg ⟨0, 0⟩ 0 .int8 1 257, .tcfg ⟨0, 0⟩ 0 .bf16 1 3, .tcfg ⟨0, 0⟩ 0 .fp32 1 6,
  .mma { mmo with ga := true, gb := true }, .mma { mmo with a := 8 }, .mma { mmo with b := 8 }, .mma { mmo with ga := true, ua := true },
  .mma { mmo with gb := true, ub := true }, .mcfgLoop ⟨⟨0, 0⟩, 6, 1, false, 2, false⟩, .mcfgBase ⟨⟨0, 0⟩, 1, 1, false, 2, false⟩,
  .mcfgAcc ⟨⟨0, 0⟩, 0, 1, false, 2, false⟩, .accrd ⟨⟨0, 0⟩, 1, true, 2, false, 0⟩, .accz ⟨⟨0, 0⟩, 1, false, 2, false, 0⟩, .gscope ⟨0, 0⟩ 0 10]

theorem test_wf_refuses_unlisted : (ill_listed.all fun i => !i.listed) = true := by decide +kernel
theorem test_wf_refuses_range : (ill_ranged.all fun i => i.listed && !i.ranged) = true := by decide +kernel

/-! ### A small state

`place c` is the device after reset with one context `c` on cell 0; `base` stands at 0x1000 on no instant, with s1 = 5 and s2 = −1. -/

def scal (l : List (Nat × SReg)) : Vector SReg 64 := l.foldl (fun v x => v.setIfInBounds x.1 x.2) (.replicate 64 {})
def base : Ctx := { pc := 0x1000, entry := 0x1000, s := scal [(1, { val := 5 }), (2, { val := -1 })] }
def place (c : Ctx) : State := State.reset.setCx ⟨0, 0⟩ c
def w0 : State := place base

/-- The base clock is present outside the iterations that fill and drain. -/
theorem present_self (s : State) : Present s 0 s.me ↔ rootForbidden s.me 0 = false :=
  ⟨fun h => h.1, fun h => ⟨h, rfl⟩⟩

/-- Hypotheses of the scalar statements, with a source that is also the destination, and with s0. -/
theorem witness_scalar : Present w0 0 w0.me ∧ ReadableS w0.me 0 1 ∧ ReadableS w0.me 0 2 ∧ FreeS w0.me 1 ∧ ReadableS w0.me 0 0 ∧ FreeS w0.me 0 := by
  simp only [present_self]; unfold ReadableS FreeS; decide +kernel

/-- Clock 5 is not defined, so absent, for an instruction of the sequencer and for one of a queue. -/
theorem witness_AbsentClockDiscards : Absent w0 5 w0.me ∧ sequencerClock (.ldh ⟨⟨0, 5⟩, 1, 2, false, .i8, 0⟩) = some 5 ∧
    (let i : Instr := .vadd { vo .fp32 with h := ⟨0, 5⟩ }; goesToQueue i = true ∧ tokOf i = 0 ∧ clkOf i = 5) := by unfold Absent; decide +kernel
def w_tok : State := place { base with tok := .replicate 4 { avail := 1 } }
theorem witness_AbsentClockTokens : ∀ p ∈ queueForms ⟨⟨5, 5⟩, 1, 2, false, .i8, 0⟩ ⟨⟨10, 5⟩, 1, false, 2, false, .i8, 0⟩ ⟨⟨5, 5⟩, 1, false, 2, false, 0⟩
      { cpy with h := ⟨5, 5⟩ } ⟨⟨10, 5⟩, 1, false, true, 1⟩ ⟨⟨5, 5⟩, 1, false, 1, 0⟩ { vo .fp32 with h := ⟨15, 5⟩ } { mmo with h := ⟨15, 5⟩ }
      ⟨⟨15, 5⟩, 15, 1, false, 2, false⟩, tokOf p.1 ≠ 0 ∧ Absent w_tok (clkOf p.1) w_tok.me ∧ w_tok.me.queue p.2 = [] ∧ TokensReady w_tok.me p.2 p.1 ∧
        Unheld w_tok.me p.2 := by unfold Absent TokensReady Unheld; decide +kernel

/-- s1 carries clock 5. -/
def w_tag : State := place { base with s := scal [(1, { val := 5, tag := 5 })] }
theorem witness_ClockMismatchStops : Present w_tag 0 w_tag.me ∧ w_tag.me.handler = false ∧
    ∀ i ∈ [Instr.add ⟨0, 1, 2, false, 1, false⟩, .movhi 0 1 7, .sth ⟨⟨0, 0⟩, 2, false, 1, false, .i8, 0⟩, .amocas { atom with b := 2, c := 1 }],
      sequencerClock i = some 0 ∧ (∀ r ∈ scalarReads i, FreeS w_tag.me r) ∧ ∃ r ∈ scalarReads i, r ≠ 0 ∧ w_tag.me.s[r.toFin].tag ≠ (0 : Tag) := by
  simp only [present_self]; unfold FreeS; decide +kernel
theorem witness_MOVLC : w0.me.badRegs.contains (.lc, (5 : Fin 6).val) = false := by decide +kernel

/-! ### Control -/

theorem witness_Branches : ReadableCtl w0.me 1 ∧ ReadableCtl w0.me 2 ∧ ReadableCtl w0.me 63 ∧ w0.me.s[63].pend = false ∧
    readS w0 w0.me 63 &&& 7 = 0 := by
  unfold ReadableCtl; decide +kernel
/-- s2 = −1 and s1 = 5: each condition holds and fails, and equal operands meet the conditions with equality alone. -/
theorem witness_Branches_conditions : condHolds .lt (-1) 5 ∧ ¬ condHolds .ltu (-1) 5 ∧ condHolds .ne (-1) 5 ∧ ¬ condHolds .ge (-1) 5 ∧
    condHolds .geu (-1) 5 ∧ condHolds .eq 5 5 ∧ condHolds .ge 5 5 ∧ condHolds .geu 5 5 ∧ ¬ condHolds .lt 5 5 ∧ ¬ condHolds .ltu 5 5 ∧ ¬ condHolds .ne 5 5 := by
  unfold condHolds; decide
theorem witness_MisalignedTargetStops : ReadableCtl w0.me 1 ∧ readS w0 w0.me 1 &&& 7 ≠ 0 ∧
    (let s := place { base with s := scal [(63, { val := 4 })] }; ReadableCtl s.me 63 ∧ readS s s.me 63 &&& 7 ≠ 0) := by unfold ReadableCtl; decide +kernel

def w_loop : State := place { base with s := scal [(1, { val := 0 }), (2, { val := 0xFFFFFFFF }), (3, { val := 1 }), (4, { val := 0x100000000 })] }
theorem witness_Loops : ReadableCtl w_loop.me 1 ∧ ReadableCtl w_loop.me 2 ∧ ReadableCtl w_loop.me 3 ∧ ReadableCtl w_loop.me 4 ∧ CounterFree w_loop.me 5 ∧
    readS w_loop w_loop.me 3 ≠ 0 ∧ readS w_loop w_loop.me 1 = 0 ∧ readS w_loop w_loop.me 2 = 0xFFFFFFFF ∧ readS w_loop w_loop.me 4 = 0x100000000 := by
  unfold ReadableCtl CounterFree; decide +kernel
/-- 2³² − 1 iterations are the most that a level takes. -/
theorem witness_Loops_bound : loopCount 0 0xFFFFFFFF 1 ≤ 2 ^ 32 - 1 ∧ 2 ^ 32 - 1 < loopCount 0 0x100000000 1 := by
  have h1 : (0xFFFFFFFF : Word).toInt = 4294967295 := by decide
  have h2 : (0x100000000 : Word).toInt = 4294967296 := by decide
  have h3 : (0 : Word).toInt = 0 := by decide
  have h4 : (1 : Word).toInt = 1 := by decide
  constructor <;> simp only [loopCount, h1, h2, h3, h4] <;> norm_num
theorem witness_Loops_immediate : (⟨0, 0, 10, 1, 3⟩ : LoopImm).step ≠ 0 ∧ (⟨5, 0, 10, 0, 3⟩ : LoopImm).step = 0 ∧
    (⟨5, 0, 10, 0, 3⟩ : LoopImm).lc.toNat = (5 : Fin 6).val ∧ CounterFree w0.me 5 := by
  unfold CounterFree; decide +kernel

def frame (left : Nat) : LoopFrame := { lc := 5, body := 0x1000, fin := 0x1010, left := left, stride := 3 }
theorem witness_LoopEnd : ({ base with loops := [frame 1] } : Ctx).loops = frame 1 :: [] ∧ (0x1010 : Word) = (frame 1).fin ∧ 0 < (frame 1).left ∧
    (frame 1).lc = (5 : Fin 6).val ∧ (0x1010 : Word) = (frame 0).fin ∧ (frame 0).left = 0 ∧ (0x1008 : Word) ≠ (frame 0).fin ∧ base.loops = [] := by decide +kernel

def w_posted : State := place { base with pendCount := 1 }
theorem witness_Instants_ibegin : w_posted.me.iopen = false ∧ w_posted.me.handler = false ∧ w_posted.me.pendCount ≠ 0 ∧
    qpointReady w_posted w_posted.cur = true ∧ w0.me.iopen = false ∧ w0.me.handler = false ∧ w0.me.pendCount = 0 := by decide +kernel
/-- A drain iteration, and the last iteration that opens an instant of its own. -/
def w_drain (n : Nat) : State := place { base with react := { act := true, stg := 1, iter := 2, n := n } }
theorem witness_Instants_drain : (w_drain 1).me.react.act = true ∧ (w_drain 1).me.react.n < (w_drain 1).me.react.iter ∧ (w_drain 1).me.iopen = false ∧
    (w_drain 1).me.handler = false ∧ (w_drain 1).me.pendCount = 0 ∧ ¬ ((w_drain 2).me.react.act = true ∧ (w_drain 2).me.react.n < (w_drain 2).me.react.iter) := by
  decide +kernel
def w_open : State := place { base with iopen := true, instants := [0] }
def w_hand : State := place { base with trap := { act := true } }
theorem witness_Instants_iend : w_open.me.iopen = true ∧ w_open.me.handler = false ∧ w_open.me.qC.length < 32 ∧ w_open.me.qS.length < 32 ∧
    w_open.me.ireact.act = false := by decide +kernel
theorem witness_Instants_stops : (w_open.me.iopen = true ∨ w_open.me.handler = true) ∧ (w_hand.me.iopen = false ∨ w_hand.me.handler = true) ∧
    w_hand.me.handler = true := by decide +kernel

def w_pred : State := { place { base with seq := 2, preds := [1] } with launches := [{ pid := 0, seq := 1, phase := .retired }] }
theorem witness_HandOver : (w_pred.me.preds = [1] ∧ ∀ q ∈ w_pred.me.preds, hasRetired w_pred w_pred.me.pid q = true) ∧ w0.me.qL = [] ∧ w0.me.qC = [] ∧
    w0.me.qS = [] := by decide +kernel

/-- A context with a copy and a store that RETIRE hands to a tracker with room for two more. -/
def w_retire : State :=
  let s := place { base with stores := [{ id := 1, rng := (0, 8) }] }
  { s with copies := [{ id := 1 }] }.setCell 0 { s.cell 0 with tracker := List.replicate 6 (.copy 9 0 0) }
theorem witness_Retire : w_retire.me.iopen = false ∧ w_retire.me.handler = false ∧ retireReady w_retire w_retire.cur = true ∧
    ((w_retire.copies.filter fun k => k.ctx == w_retire.cur && !k.orphan).length + (if w_retire.me.stores = [] ∧ w_retire.me.scalars = [] then 0 else 1)) +
      (w_retire.cell w_retire.cur.cell).tracker.length = 8 ∧ ∀ p ∈ w_retire.me.port.toList, p.chan = none := by decide +kernel
theorem witness_RetireWaits : w_hand.me.handler = true ∧ w_open.me.iopen = true ∧
    let s := place { base with qL := [{ i := .aadv ⟨⟨0, 0⟩, 0, 0, false, 1⟩ }] }
    s.me.iopen = false ∧ s.me.handler = false ∧ retireReady s s.cur = false := by decide +kernel

/-- Clocks on an open instant: k1 on s3 (true), k2 on not s3, k3 their union, k4 every second instant from 2, k6 a union of k4 and k0. -/
def clocks : Vector Clock 128 :=
  [(1, ClockDef.on 0 3), (2, .onnot 0 3), (3, .union 1 2), (4, .every 0 2 2), (6, .union 4 0), (7, .union 1 112)].foldl
    (fun v x => v.setIfInBounds x.1 { cur := x.2 }) (.replicate 128 {})
def w_clk (i : Word) (b : Word) : State :=
  place { base with iopen := true, basei := i, clk := clocks,
                    s := scal [(3, { val := b }), (4, { val := 40, tag := 1 }), (5, { val := 50, tag := 2 }), (6, { val := 60 }), (7, { val := 70, tag := 4 })] }
theorem witness_ClockDefinitions : w0.me.handler = false ∧ clockRoot w0.me 5 = none ∧ clockRoot w0.me 0 = some 0 ∧ clockRoot w0.me 127 = some 127 ∧
    clockRoot (w_clk 0 1).me 1 = clockRoot (w_clk 0 1).me 2 ∧ clockRoot (w_clk 0 1).me 1 ≠ none ∧ clockRoot (w_clk 0 1).me 1 ≠ clockRoot (w_clk 0 1).me 112 := by
  decide +kernel
theorem witness_ClockPresence : let c := (w_clk 2 1).me
    c.iopen = true ∧ Fixed c 0 true ∧ (∀ k ∈ [(1 : Tag), 2, 4, 6, 8], c.clk[k.toFin].known = false ∧ k ≠ 0 ∧ k.toNat < 112) ∧ c.clk[(4 : Tag).toFin].cur = .every 0 2 2 ∧
      (clockInstant c 4).toNat = 2 ∧ c.clk[(1 : Tag).toFin].cur = .on 0 3 ∧ c.clk[(2 : Tag).toFin].cur = .onnot 0 3 ∧
      c.s[(3 : BitVec 6).toFin].pend = false ∧ c.s[(3 : BitVec 6).toFin].tag = 0 ∧ c.s[(3 : BitVec 6).toFin].dead = false ∧
      c.s[(3 : BitVec 6).toFin].bad = false ∧ c.clk[(8 : Tag).toFin].cur = .undef := by
  unfold Fixed; decide +kernel
theorem witness_ClockPresence_union : let c := fixClock (w_clk 2 1).me 4 true
    c.iopen = true ∧ Fixed c 4 true ∧ Fixed c 0 true ∧ c.clk[(6 : Tag).toFin].known = false ∧ c.clk[(6 : Tag).toFin].cur = .union 4 0 ∧ clockRoot c 6 ≠ none := by
  unfold Fixed; decide +kernel

/-! ### Stream instructions -/

theorem sibling_some (c : Ctx) (ps : List Tag) (k kp x : Tag) :
    Sibling c ps k kp (some x) ↔ x ≠ k ∧ parentOf c x = some kp ∧ x ∈ ps := by simp [Sibling]
theorem sibling_none (c : Ctx) (ps : List Tag) (k kp : Tag) : ¬ Sibling c ps k kp none := by simp [Sibling]

/-- The clocks present among those that an instruction consults, and the context then. -/
def seen (s : State) (m : Sampler) (k : Tag) : List Tag × Ctx :=
  let ks := (selector s.me m k).getD []
  match presence s.me (runsOn m k ks) with
  | .ok (_, c1) => match evalAll (consulted c1 m k ks) c1 with
    | .ok r => r
    | .error _ => ([], s.me)
  | .error _ => ([], s.me)
def first (s : State) (k : Tag) : Ctx := match presence s.me k with | .ok (_, c) => c | .error _ => s.me
abbrev sees (s : State) (m : Sampler) (k : Tag) (ks : List Tag) : Prop :=
  Consults s m k ks (seen s m k).1 (first s (runsOn m k ks)) (seen s m k).2

def w_on : State := w_clk 2 1
def w_off : State := w_clk 3 0
theorem witness_WHEN : sees w_on .when 1 [0] ∧ Picks (seen w_on .when 1).2 .when 1 [0] (seen w_on .when 1).1 (tagS w_on.me 6) none .a 1 := by
  unfold sees Consults Picks Adopts; decide +kernel
theorem witness_MERGE_first : sees w_on .merge 1 [0] ∧
    Picks (seen w_on .merge 1).2 .merge 1 [0] (seen w_on .merge 1).1 (tagS w_on.me 4) (tagS w_on.me 5) .a 0 := by
  unfold sees Consults Picks Adopts; rw [show tagS w_on.me 5 = some 2 by decide +kernel]; simp only [sibling_some]; decide +kernel
theorem witness_MERGE_second : sees w_off .merge 1 [0] ∧
    Picks (seen w_off .merge 1).2 .merge 1 [0] (seen w_off .merge 1).1 (tagS w_off.me 4) (tagS w_off.me 5) .b 0 := by
  unfold sees Consults Picks Adopts; rw [show tagS w_off.me 5 = some 2 by decide +kernel]; simp only [sibling_some]; decide +kernel
theorem witness_UNION_one : sees w_on .union 3 [1, 2] ∧
    Picks (seen w_on .union 3).2 .union 3 [1, 2] (seen w_on .union 3).1 (tagS w_on.me 4) (tagS w_on.me 5) .a 3 := by
  unfold sees Consults Picks Adopts; decide +kernel
theorem witness_UNION_other : sees w_off .union 3 [1, 2] ∧
    Picks (seen w_off .union 3).2 .union 3 [1, 2] (seen w_off .union 3).1 (tagS w_off.me 4) (tagS w_off.me 5) .b 3 := by
  unfold sees Consults Picks Adopts; decide +kernel
theorem witness_UNION_both : sees w_on .union 6 [4, 0] ∧
    Picks (seen w_on .union 6).2 .union 6 [4, 0] (seen w_on .union 6).1 (tagS w_on.me 7) (tagS w_on.me 6) .both 6 := by
  unfold sees Consults Picks Adopts; decide +kernel
theorem witness_CURRENT_present : sees w_on .current 1 [0] ∧ Picks (seen w_on .current 1).2 .current 1 [0] (seen w_on .current 1).1 (tagS w_on.me 4) none .a 0 := by
  unfold sees Consults Picks Adopts; decide +kernel
theorem witness_CURRENT_absent : sees w_off .current 1 [0] ∧ Picks (seen w_off .current 1).2 .current 1 [0] (seen w_off .current 1).1 (tagS w_off.me 4) none .a 0 := by
  unfold sees Consults Picks Adopts; decide +kernel
theorem witness_CURRENT_zero : Picks (seen w_off .current 1).2 .current 1 [0] (seen w_off .current 1).1 (tagS w_off.me 5) none .zero 0 := by
  unfold Picks Adopts; decide +kernel
theorem witness_ScalarStreams : FreeS (seen w_on .union 6).2 1 ∧ (∀ r ∈ [(4 : BitVec 6), 5, 6, 7], FreeS (seen w_on .union 6).2 r ∧ ReadableCtl (seen w_on .union 6).2 r) := by
  unfold FreeS ReadableCtl; decide +kernel

/-- The vector and tile forms, whose operand carries the tag of k0. -/
def whenOp (a : BitVec 6) (mod : BitVec 4) : Instr := .whenVector ⟨⟨0, 1⟩, 1, false, a, false, 0, false, .int32, false, 0, mod⟩
theorem witness_VectorStreams : let i := whenOp 6 0
    sees w_on .when (clkOf i) [0] ∧ StreamReady w_on i (seen w_on .when 1).2 ∧ Unpended (seen w_on .when 1).2 [1, 6] ∧
      Picks (seen w_on .when 1).2 .when (clkOf i) [0] (seen w_on .when 1).1 (some (seen w_on .when 1).2.v[(fld (6 : BitVec 6) 0 5 : BitVec 5).toFin].tag) none .a 1 ∧
      ReadV (seen w_on .when 1).2 6 := by
  unfold sees Consults Picks Adopts StreamReady TokensReady Unheld Unpended ReadV; decide +kernel
theorem witness_TileStreams : let i := whenOp 7 1
    w_on.Inv ∧ w_on.poison = [] ∧ (w_on.cell w_on.cur.cell).nest = none ∧ (w_on.cell w_on.cur.cell).engine = [] ∧
    sees w_on .when (clkOf i) [0] ∧ StreamReady w_on i (seen w_on .when 1).2 ∧
      Picks (seen w_on .when 1).2 .when (clkOf i) [0] (seen w_on .when 1).1 (some (seen w_on .when 1).2.t[(fld (7 : BitVec 6) 0 3 : BitVec 3).toFin].tag) none .a 1 ∧
      (seen w_on .when 1).2.chk = false := by
  unfold State.Inv sees Consults Picks Adopts StreamReady TokensReady Unheld; decide +kernel

/-! ### Vector instructions -/

/-- Two cells of one partition: cell 0 has an entry at the head of its east input, and cell 1 has three in its west input. -/
def w_pair : State :=
  let w := place { base with nq := #v[[], [{ val := 9 }], [], []] }
  w.setCx ⟨1, 0⟩ { base with nq := #v[[], [], [], List.replicate 3 {}] }
def vectorOps : List Instr :=
  [.vadd (vo .fp32), .vabs (vu .int8), .vfma (vo .bf16), .vaddImm (vim .fp32), .vmovi (vim .bf16), .vsel { vo .int4 with me := true }, .vins (vo .fp32),
   .vsplat (vu .fp32), .vcbdec 1 (vo .cb4), .vcmp .lt (vo .fp16), .vcmpImm .ge (vim .int4), .mand (vo .int32), .mset (vu .int32), .mcnt (vu .int32),
   .mfirst (vu .int32), .mtov (vu .int32), .vtom (vu .int32), .vcvt .bf16 (vu .fp32), .vcvt .fp32 (vu .bf16), .vrsum 1 (vo .bf16), .vrmax (vo .int8),
   .vrmin (vo .int8), .vscan 3 (vo .int8), .vcompress { vo .fp32 with me := true }, .vexpand { vu .fp32 with me := true }, .vhist { vu .nat8 with d := 2 },
   .vtopk 128 { vo .fp16 with d := 2 }, .vcbenc 1 (vo .bf16), .cbld 1 { vu .bf16 with d := 0 }, .vextr (vo .int8)]
/-- `Ready` as a computation, on the context as it stands. -/
def readyB (s : State) (i : Instr) (q : Queue) (src dest : List (BitVec 6)) : Bool :=
  !rootForbidden s.me (clkOf i) && decide (clkOf i = 0) && decide (s.me.queue q = []) && decide (s.me.qC.length < 32) &&
    src.all (fun r => decide (r = 0 ∨ (s.me.s[r.toFin].pend = false ∧ s.me.s[r.toFin].bad = false))) &&
    dest.all (fun r => decide (r = 0 ∨ s.me.s[r.toFin].pend = false)) && (popsOf q (tokOf i)).all (fun f => decide (s.me.tok[f].fresh < s.me.tok[f].avail)) &&
    (pushesOf q (tokOf i)).all (fun f => decide (s.me.tok[f].avail + s.me.tok[f].held < 8)) && decide (s.me.badRegs = []) &&
    decide (s.me.reissue = none) && decide (s.me.stores.length + (s.me.qS.filter (·.kind == .instr)).length ≤ 16)
theorem ready_of (s : State) (i : Instr) (q : Queue) (src dest : List (BitVec 6)) (h : readyB s i q src dest = true) : Ready s i q src dest s.me := by
  simp only [readyB, Bool.and_eq_true, Bool.not_eq_true', decide_eq_true_eq, List.all_eq_true] at h
  obtain ⟨⟨⟨⟨⟨⟨⟨⟨⟨⟨h1, h2⟩, h3⟩, h4⟩, h5⟩, h6⟩, h7⟩, h8⟩, h9⟩, h10⟩, h11⟩ := h
  exact ⟨⟨h1, by rw [h2]; rfl⟩, h3, h4, h5, h6, ⟨h7, h8⟩, h9, fun _ => h10, fun _ => h11⟩
/-- Every vector instruction issues as it routes: with scalars 1 and 2 captured, and 1 and 2 written. -/
theorem witness_Ready : ∀ i ∈ vectorOps, Ready w_pair i .c [1, 2] [1, 2] w_pair.me ∧ clkOf i = 0 := by
  have h : ∀ i ∈ vectorOps, readyB w_pair i .c [1, 2] [1, 2] = true ∧ clkOf i = 0 := by decide +kernel
  exact fun i hi => ⟨ready_of _ _ _ _ _ (h i hi).1, (h i hi).2⟩
theorem witness_Captured : CapturedOk w_pair.me 0 1 ∧ CapturedOk w_pair.me 0 2 ∧ w_pair.me.qL = [] := by unfold CapturedOk; decide +kernel
theorem witness_ReadableV_register (r : BitVec 6) (h : r ∈ [(0 : BitVec 6), 1, 2, 3, 31]) : ReadableV w_pair.me 0 r := by
  have h31 : ∀ r : BitVec 5, w_pair.me.v[r.toFin].pend = false ∧ (w_pair.me.handler = true ∨ w_pair.me.v[r.toFin].tag = 0) ∧
      (w_pair.me.handler = true ∨ w_pair.me.chk = false ∨ w_pair.me.v[r.toFin].dead = false) ∧ w_pair.me.v[r.toFin].bad = 0 := by decide +kernel
  have hs : vsrc r = .reg (fld r 0 5) := by revert r; decide +kernel
  unfold ReadableV; rw [hs]; exact h31 _
theorem witness_ReadableV_queue : ReadableV w_pair.me 0 0x21 ∧ ReadableV w_pair.me 0 0x30 := by
  unfold ReadableV
  rw [show vsrc 0x21 = .nq 1 by decide +kernel, show vsrc 0x30 = .zero by decide +kernel]
  exact ⟨⟨{ val := 9 }, [], by decide +kernel⟩, trivial⟩
theorem witness_WritableV : WritableV w_pair 0 ∧ WritableV w_pair 0x30 ∧ WritableV w_pair 0x21 := by
  unfold WritableV
  rw [show vsrc 0 = .reg 0 by decide +kernel, show vsrc 0x30 = .zero by decide +kernel, show vsrc 0x21 = .nq 1 by decide +kernel]
  exact ⟨by decide +kernel, trivial, 1, by decide +kernel⟩
theorem witness_VectorWrite : vsrc 0x21 = .nq 1 ∧ neighbour w_pair.cur.cell 1 = some 1 ∧ samePart w_pair 1 = true ∧ (3 : Fin 4).val = opposite 1 ∧
    ((w_pair.cx ⟨1, w_pair.cur.slot⟩).nq[(3 : Fin 4)]).length = 3 ∧ vsrc 31 = .reg 31 ∧ w_pair.me.v[(31 : BitVec 5).toFin].pend = false ∧
    vsrc 0x30 = .zero := by decide +kernel
/-- The groups of VCVT, VSCAN and VTOPK, the last register of the file among them; and a gather of another mask that stands in the L queue. -/
theorem witness_GroupFree : GroupFree w_pair.me 24 8 ∧ GroupFree w_pair.me 0 4 ∧ GroupFree w_pair.me 2 2 ∧ Unpended w_pair.me [0, 1, 2] := by
  unfold GroupFree Unpended; decide +kernel
def w_gather : State := place { base with qL := [{ i := .ldvx ⟨⟨0, 0⟩, 1, false, 0, 2, false, true, false, 0, 0⟩ }] }
theorem maskFree_of (c : Ctx) (k : BitVec 3) (h : (c.qL ++ c.qS).all (fun e => match e.i with | .ldvx o | .stvx o => !o.me || o.msk != k | _ => true) = true) :
    MaskFree c k := fun e he o ho hm => by
  have := List.all_eq_true.mp h e he
  rcases ho with ho | ho <;> simpa [ho, hm] using this
theorem witness_MaskFree : MaskFree w_pair.me 7 ∧ MaskFree w_gather.me 7 := ⟨maskFree_of _ _ (by decide +kernel), maskFree_of _ _ (by decide +kernel)⟩
theorem witness_VectorTopK : (128 : BitVec 8).toNat ≤ 128 := by decide
theorem witness_FloatPatterns : ElemType.bf16.isF = true ∧ 0x7F80 < 2 ^ ElemType.bf16.width ∧ flOf .bf16 0x7F80 ≠ .nan ∧ flOf .bf16 0x7F81 = .nan ∧
    flOf .bf16 0xFFFF = .nan ∧ flOf .fp32 0 ≠ .nan := by decide +kernel
theorem witness_LastUse : w0.me.handler = false ∧ w_hand.me.handler = true := by decide +kernel
theorem witness_MemoryReadAfterWrite : State.reset.Inv := by unfold State.Inv; decide +kernel

/-- PRE and FBY: their source and their delay register on k0, with no C marker queued. -/
theorem witness_ScalarDelays : Present w0 0 w0.me ∧ w0.me.handler = false ∧ w0.me.badRegs.contains (.d, 15) = false ∧ (∀ e ∈ w0.me.qC, e.kind ≠ .cMark) ∧ FreeS w0.me 1 ∧ ReadableCtl w0.me 2 ∧
    w0.me.d[(15 : BitVec 4).toFin].f = false ∧ ReadableCtl w0.me 1 ∧ DelayOk true 0 w0.me.d[(15 : BitVec 4).toFin] (tagS w0.me 2) (tagS w0.me 1) := by
  simp only [present_self]; unfold FreeS ReadableCtl DelayOk Adopts; decide +kernel
def w_held : State := place { base with d := base.d.set 15 { held := 7, f := true } }
theorem witness_Delays_held : DelayOk false 0 w_held.me.d[(15 : BitVec 4).toFin] (tagS w_held.me 2) (tagS w_held.me 1) ∧
    w_held.me.d[(15 : BitVec 4).toFin].f = true := by unfold DelayOk Adopts; decide +kernel
theorem witness_VectorDelays_ready : Ready w0 (.preVector { vo .int32 with b := 15 }) .c [] [] w0.me ∧ Ready w0 (.fbyVector { vo .int32 with b := 15 }) .c [] [] w0.me :=
  ⟨ready_of _ _ _ _ _ (by decide +kernel), ready_of _ _ _ _ _ (by decide +kernel)⟩
theorem witness_VectorDelays : Unpended w0.me [1, 2] ∧ ReadV w0.me 1 ∧ ReadV w0.me 2 ∧ DelayOk true 0 w0.me.d[(15 : BitVec 4).toFin] (some w0.me.v[2].tag) (some w0.me.v[1].tag) := by
  unfold Unpended ReadV DelayOk Adopts; decide +kernel

/-! ### Registers, traps, memory -/

/-- Page tables of partition 0: 0x1000 is a page of this device with every permission, 0x2000 a remote page that names
this device, 0x3000 a page of Silt, 0x4000 a compressed page. -/
def pages : List Host.Cell :=
  Memory.setAll [] (State.at' 0x100000 (leBytes 8 0x104001) ++ State.at' 0x104000 (leBytes 8 0x105001) ++ State.at' 0x105000 (leBytes 8 0x106001) ++
    State.at' 0x106000 (leBytes 8 0x107001) ++ State.at' 0x107008 (leBytes 8 0x108033) ++ State.at' 0x107010 (leBytes 8 0x109213) ++ State.at' 0x107018 (leBytes 8 0x10A113) ++ State.at' 0x107020 (leBytes 8 0x10B073) ++
    State.at' 0x108000 (leBytes 8 7) ++ State.at' 0x108080 (leBytes 8 0x0102030405060708))
def withPages (c : Ctx) : State := { (place c).setPart 0 { root := 0x100001 } with mem := pages }
/-- s1 = 0x1000, s2 = 0x2000, s3 = 3, s4 = 0x1080. -/
def mctx : Ctx := { base with s := scal [(1, { val := 0x1000 }), (2, { val := 0x2000 }), (3, { val := 3 }), (4, { val := 0x1080 })] }
def w_mem : State := withPages mctx
def leafAt (s : State) (va : Word) (k : Access) : Leaf := match translate (s.setMe s.me) s.cur va k with | .ok l => l | .error _ => {}
def failAt (s : State) (va : Word) (k : Access) : WalkFail := match translate (s.setMe s.me) s.cur va k with | .ok _ => {} | .error f => f
def bytesAt (s : State) (va : Word) (n : Nat) : List (Byte × Bool) := match readVirt (s.setMe s.me) s.cur .read va n with | .ok b => b | .error _ => []

theorem witness_WriteRegisters : Present w0 0 w0.me ∧ w0.me.qL = [] ∧ w0.me.qC = [] ∧ w0.me.qS = [] ∧ ReadableS w0.me 0 2 := by
  simp only [present_self]; unfold ReadableS; decide +kernel
/-- The limits of ISCOPE, and a TCFG value that a tile takes. -/
theorem witness_WriteRegisters_values :
    (let w : Word := 0x00400000003FFFFF; (w.setWidth 32).toNat < 0x400000 ∧ (w >>> 32).toNat ≤ 0x400000) ∧
    (let w : Word := 0x8200000081FFFFFF; 0x80000000 ≤ (w.setWidth 32).toNat ∧ (w.setWidth 32).toNat < 0x82000000 ∧ 0x80000000 ≤ (w >>> 32).toNat ∧ (w >>> 32).toNat ≤ 0x82000000) ∧
    (let w : Word := 0x00098100; ElemType.ofCode (fld w 16 4) = some .bf16 ∧ tileType .bf16 = true ∧
      tileShapeOk .bf16 (fld w 9 7 : BitVec 7).toNat (fld w 0 9 : BitVec 9).toNat = true) := by decide +kernel
theorem witness_ReadRegisters : Present w0 0 w0.me ∧ FreeS w0.me 5 ∧ (0x002 : BitVec 12) ≠ 0x036 ∧ (0x002 : BitVec 12) ≠ 0x037 ∧
    ((registers w0 w0.me).map (·.1)).contains 0x002 = true := by simp only [present_self]; unfold FreeS; decide +kernel

def w_trap (b : Word) : State := place { base with trap := { base := b } }
theorem witness_Traps : Present (w_trap 0x4001) 0 (w_trap 0x4001).me ∧ (w_trap 0x4001).me.handler = false ∧ (w_trap 0x4001).me.trap.base.getLsbD 0 = true ∧
    Quiet (w_trap 0x4001) := by simp only [present_self]; unfold Quiet; decide +kernel
theorem witness_Traps_none : Present (w_trap 0x4000) 0 (w_trap 0x4000).me ∧ (w_trap 0x4000).me.handler = false ∧ (w_trap 0x4000).me.trap.base.getLsbD 0 = false := by
  simp only [present_self];  decide +kernel
theorem witness_Traps_nested : Present w_hand 0 w_hand.me ∧ w_hand.me.handler = true ∧ w_hand.me.trap.emu = false ∧ w_hand.me.trap.preh = false ∧
    w_hand.me.trap.act = true := by simp only [present_self];  decide +kernel
theorem witness_Returns : (place { base with trap := { act := true, preh := true } }).me.trap.preh = true ∧
    (place { base with trap := { emu := true } }).me.trap.emu = true ∧ w0.me.trap.emu = false ∧ w0.me.trap.act = false := by decide +kernel

theorem witness_TRIG : (let s := { w0 with dev := { w0.dev with time := 1 } }; Present s 0 s.me ∧ s.dev.trgT.toNat < s.dev.time.toNat) ∧
    Present w0 0 w0.me ∧ w0.dev.time.toNat ≤ w0.dev.trgT.toNat := by simp only [present_self];  decide +kernel
/-- A PROBE of one byte that translates; the last byte of the address space; and a page that is not present. -/
theorem witness_PROBE : Present w_mem 0 w_mem.me ∧ w_mem.me.qL = [] ∧ w_mem.me.qC = [] ∧ w_mem.me.qS = [] ∧ ReadableS w_mem.me 0 1 ∧ ReadableS w_mem.me 0 0 ∧
    translate (w_mem.setMe w_mem.me) w_mem.cur 0x1000 .write = .ok (leafAt w_mem 0x1000 .write) ∧ (0x00FFFFFFFFFFFFFF : Word).toNat % 2 ^ 56 + 1 ≤ 2 ^ 56 := by
  simp only [present_self]; unfold ReadableS; decide +kernel
def w_probe : State := withPages { mctx with trap := { base := 0x4001 } }
theorem witness_PROBE_fault : translate (w_probe.setMe w_probe.me) w_probe.cur 0x5000 .read = .error (failAt w_probe 0x5000 .read) ∧
    (failAt w_probe 0x5000 .read).cause ≠ 255 ∧ w_probe.me.handler = false ∧ w_probe.me.trap.base.getLsbD 0 = true ∧ Quiet w_probe := by
  unfold Quiet; decide +kernel
/-- Two bytes from the last address of the space. -/
theorem witness_PROBE_range : let s := withPages { base with trap := { base := 0x4001 }, s := scal [(1, { val := -1 })] }
    2 ^ 56 < (readS s s.me 1).toNat % 2 ^ 56 + (readS s s.me 0 + (2 : BitVec 16).setWidth 64).toNat ∧ ReadableS s.me 0 1 ∧ ReadableS s.me 0 0 ∧ Present s 0 s.me ∧
      s.me.qL = [] ∧ s.me.qC = [] ∧ s.me.qS = [] ∧ s.me.handler = false ∧ s.me.trap.base.getLsbD 0 = true ∧ Quiet s := by
  simp only [present_self]; unfold ReadableS Quiet; decide +kernel
/-- A buffer of the least capacity at s4 = 0x1080. -/
def dumpLen : Nat := (dumpFit (max 64 (leNat ((bytesAt w_mem 0x1000 16).map (·.1)) % 2 ^ 64)) (dumpRecords (leNat ((bytesAt w_mem 0x1000 16).map (·.1)) / 2 ^ 64)) 64).2
theorem witness_DUMP : Present w_mem 0 w_mem.me ∧ ReadableS w_mem.me 0 1 ∧ readS w_mem w_mem.me 1 &&& 63 = 0 ∧ (readS w_mem w_mem.me 1).toNat < 2 ^ 56 ∧
    dumpReady (w_mem.setMe w_mem.me) w_mem.cur = true ∧ readVirt (w_mem.setMe w_mem.me) w_mem.cur .read 0x1000 16 = .ok (bytesAt w_mem 0x1000 16) ∧
    hbmBad 0x1000 (bytesAt w_mem 0x1000 16) = none ∧
    translateRange (useRange (w_mem.setMe w_mem.me) w_mem.cur .read 0x1000 16) w_mem.cur .write 0x1000 dumpLen = .ok [(leafAt w_mem 0x1000 .write, dumpLen)] := by
  simp only [present_self]; unfold ReadableS; decide +kernel
theorem witness_DUMP_page : let l := leafAt w_mem 0x1000 .write
    w_mem.Inv ∧ l.far w_mem = false ∧ l.entry.cmp = 0 ∧ 0x1000 % 4096 + dumpLen ≤ 4096 ∧ l.pa + dumpLen ≤ Config.hbmEnd := by unfold State.Inv; decide +kernel
/-- The records of selection bit 1 fit in a buffer within the page. -/
theorem witness_DUMP_record : (dumpFit 4032 (dumpRecords 2) 64).1 ≠ [] ∧ (dumpFit 4032 (dumpRecords 2) 64).2 ≤ 4032 := by decide +kernel

theorem witness_FENCE : Present w0 0 w0.me ∧ Performed w0 w0.me ∧ w0.me.qL.length < 32 ∧ w0.me.qS.length < 32 := by simp only [present_self]; unfold Performed; decide +kernel
/-- Barrier b15 granted to the context's partition: two arrivals expected, `ac` counted, in phase `ph`. -/
def w_bar (ea ac ph : BitVec 32) : State :=
  (place { base with s := scal [(1, { val := 32 }), (2, { val := 65535 })] }).setBar (barKey 0 15) { ea := ea, ac := ac, ph := ph, owner := some 0, users := [1] }
theorem witness_BAR_INIT : let s := w_bar 0 0 0
    Present s 0 s.me ∧ ReadableS s.me 0 1 ∧ ReadableS s.me 0 2 ∧ Granted s s.me 15 ∧ (readS s s.me 1).toNat = 32 ∧ (readS s s.me 2).toNat = 65535 ∧
      (s.bar (barKey s.cur.cell 15)).ac = 0 ∧ (s.bar (barKey s.cur.cell 15)).cc = 0 := by
  simp only [present_self]; unfold ReadableS Granted; decide +kernel
theorem witness_BAR_ARRIVE : let s := w_bar 2 1 0
    let b := s.bar (barKey s.cur.cell 15)
    Present s 0 s.me ∧ FreeS s.me 5 ∧ s.me.arrived = none ∧ Granted s s.me 15 ∧ b.ea ≠ 0 ∧ b.ac ≠ b.ea ∧ s.cur ∉ b.ha ∧ s.me.qL = [] ∧ s.me.stores = [] ∧
      s.me.loads = [] ∧ s.me.scalars = [] ∧ s.me.qS = [] ∧ s.copies = [] ∧ b.ac + 1 = b.ea ∧ b.cc = b.ec ∧ b.ha = [] ∧ b.hc = 0 := by
  simp only [present_self]; unfold FreeS Granted; decide +kernel
theorem witness_BAR_ARRIVE_first : ((w_bar 2 0 0).bar (barKey 0 15)).ac + 1 ≠ ((w_bar 2 0 0).bar (barKey 0 15)).ea ∧
    (place { base with arrived := some 3 }).me.arrived = some 3 := by decide +kernel
/-- Phase 5 has completed when the barrier is in phase 6. -/
theorem witness_BAR_WAIT : let s := (w_bar 2 0 6).setMe { base with s := scal [(1, { val := 5 })] }
    Present s 0 s.me ∧ ReadableS s.me 0 1 ∧ Granted s s.me 15 ∧ ((s.bar (barKey s.cur.cell 15)).ph - (readS s s.me 1).setWidth 32).toNat = 1 := by
  simp only [present_self]; unfold ReadableS Granted; decide +kernel

/-- LDH of 0x1000 on a local page with nothing cached, on the remote page, and with its line cached; STH to the page. -/
theorem witness_LDH : let l := leafAt w_mem 0x1080 .read
    Present w_mem 0 w_mem.me ∧ ReadableS w_mem.me 0 4 ∧ FreeS w_mem.me 5 ∧ Untagged 0x1080 ∧ (0x1080 : Word).toNat % 8 = 0 ∧
      translate (w_mem.setMe w_mem.me) w_mem.cur 0x1080 .read = .ok l ∧ l.far w_mem = false ∧ l.entry.rem = false ∧ l.entry.cmp = 0 ∧
      find? (w_mem.cell w_mem.cur.cell).dcache (l.pa / 64 * 64) = none ∧ l.pa = 0x108080 := by
  simp only [present_self]; unfold ReadableS FreeS Untagged; decide +kernel
theorem witness_LDH_clean : CleanAt w_mem 0x108080 64 := by
  have h : ∀ k, w_mem.bad k = false := by intro k; simp [State.bad, w_mem, withPages, place, State.setPart, State.setCx, State.reset]
  exact fun _ _ => h _
theorem witness_LDH_remote : let l := leafAt w_mem 0x2000 .read
    translate (w_mem.setMe w_mem.me) w_mem.cur 0x2000 .read = .ok l ∧ l.far w_mem = false ∧ l.entry.rem = true := by decide +kernel
theorem witness_LDH_line : let s := w_mem.setCell 0 { dcache := [(0x108080, some 7)] }
    let l := leafAt s 0x1080 .read
    let m := leafAt s 0x1080 .write
    translate (s.setMe s.me) s.cur 0x1080 .read = .ok l ∧ l.entry.rem = false ∧ find? (s.cell s.cur.cell).dcache (l.pa / 64 * 64) = some (some 7) ∧
      translate (s.setMe s.me) s.cur 0x1080 .write = .ok m ∧ m.far s = false ∧ m.entry.cmp = 0 ∧ m.pa = l.pa ∧ m.pa % 8 = 0 := by decide +kernel
theorem witness_STH : let l := leafAt w_mem 0x1080 .write
    w_mem.Inv ∧ ReadableS w_mem.me 0 3 ∧ translate (w_mem.setMe w_mem.me) w_mem.cur 0x1080 .write = .ok l ∧ l.far w_mem = false ∧ l.entry.cmp = 0 := by
  unfold State.Inv ReadableS; decide +kernel
theorem witness_SCALAR_ACCESS_RETURN : let s := place { base with scalars := [{ dest := some 5, val := 9 }] }
    s.resident s.ev.ctx = true ∧ (s.cx s.ev.ctx).scalars = { dest := some 5, val := 9 } :: [] ∧ ({ dest := some 5, val := 9 } : ScalarRet).remote = false := by decide +kernel

/-- An AMOCAS.AR that succeeds and one that fails, AMOADD of FP32, and AMOMIN of equal numbers. -/
theorem witness_Atomics : let o : Amo := { atom with b := 4, ty := .i64, ord := .ar }
    let l := leafAt w_mem 0x1080 .write
    w_mem.Inv ∧ Present w_mem 0 w_mem.me ∧ o.clk = 0 ∧ ReadableS w_mem.me o.clk o.b ∧ ReadableS w_mem.me o.clk o.x ∧ ReadableS w_mem.me o.clk o.c ∧ FreeS w_mem.me o.d ∧
      (0x1080 : Word).toNat % amoWidth o.ty = 0 ∧ translate (w_mem.setMe w_mem.me) w_mem.cur 0x1080 .write = .ok l ∧ l.far w_mem = false ∧ l.entry.cmp = 0 ∧
      Performed w_mem w_mem.me := by
  simp only [present_self]; unfold State.Inv ReadableS FreeS Performed; decide +kernel
theorem witness_Atomics_results : ((5 : Nat) = 5 → (some 3 : Option Nat) = some 3) ∧ amoBefore .i32 0xFFFFFFFF 0 ∧ ¬ amoBefore .nat32 0xFFFFFFFF 0 ∧ ¬ amoBefore .i64 7 7 := by
  unfold amoBefore; decide

/-! ### Loads, stores, streams, copies -/

/-- FP32, two rows of four, the rows contiguous. -/
def rec24 : BitVec 512 :=
  0x28 ||| 4 <<< 128 ||| 2 <<< 160 ||| 1 <<< 192 ||| 1 <<< 224 ||| 1 <<< 256 ||| 1 <<< 288 ||| 1 <<< 320 ||| 4 <<< 352
def strm (b : Word) (sp : Bool) : StreamReg := { base := b, ext := recExts rec24, record := rec24, sp := sp }
/-- a0 in scratch, a1 in virtual memory at 0x1000, t0 one FP32 row of four; s4 is the last aligned word of the local window. -/
def lctx : Ctx :=
  { mctx with a := (base.a.set 0 (strm 0x40 false)).set 1 (strm 0x1000 true), t := base.t.set 0 { cfg := 0x00080210 },
              s := scal [(1, { val := 0x1000 }), (2, { val := 0x100 }), (3, { val := 4 }), (4, { val := 0x3FFFF8 }), (5, { val := 0x1FFF })],
              iscope := 0x0040000000000000 }
def w_ls : State := withPages lctx

theorem witness_Calm : Calm w_ls w_ls.me ∧ Unscoped w_ls.me := by unfold Calm Unscoped; decide +kernel
theorem witness_Ready_L : Ready w_ls (.lds ⟨⟨0, 0⟩, 5, 4, false, .x64, 0⟩) .l [4] [5] w_ls.me ∧ Ready w_ls (.sts ⟨⟨0, 0⟩, 5, false, 4, false, .x64, 0⟩) .s [4, 5] [] w_ls.me :=
  ⟨ready_of _ _ _ _ _ (by decide +kernel), ready_of _ _ _ _ _ (by decide +kernel)⟩
theorem witness_ScratchScalar : CapturedOk w_ls.me 0 4 ∧ CapturedOk w_ls.me 0 5 ∧ ScratchOk w_ls 0x3FFFF8 8 := by unfold CapturedOk ScratchOk; decide +kernel
def w_scope : State := withPages { lctx with iopen := true }
theorem witness_ScratchScalar_window : w_scope.me.iopen = true ∧ w_scope.me.handler = false ∧ instantWindow w_scope.me = some (0, 0x400000) ∧
    (0x3FFFF8 : Word).toNat + 8 ≤ 0x400000 := by decide +kernel
theorem witness_LOAD_DELIVERY : let l : Load := { id := 3, dest := .s 5 }
    let m : Load := { id := 4, dest := .v 5 }
    (place { base with loads := [l] }).me.loads = l :: [] ∧ l.landed = false ∧ l.dest = .s 5 ∧ l.bad = 0 ∧ l.stat = none ∧ m.dest = .v 5 ∧ m.stat = none ∧ m.landed = false ∧
      (let s := place { base with loads := [m], qC := [{ kind := .receive, id := 4 }] }
       s.cx s.ev.ctx = s.me ∧ s.me.loads = m :: [] ∧ s.me.qC = { kind := .receive, id := 4 } :: [] ∧ s.me.v[(5 : BitVec 5).toFin].pend = false) := by decide +kernel
/-- A tile load of two bytes. -/
theorem witness_LOAD_DELIVERY_tile : let l : Load := { id := 4, dest := .t 7, cells := [(tileKey 0 0, 1), (tileKey 0 1, 2)] }
    let s := place { base with loads := [l], qC := [{ kind := .receive, id := 4 }] }
    s.Inv ∧ s.me.loads = l :: [] ∧ l.landed = false ∧ l.dest = .t 7 ∧ l.stat = none ∧ s.me.qC = { kind := .receive, id := 4 } :: [] ∧
      (s.cell s.ev.ctx.cell).nest = none ∧ (s.cell s.ev.ctx.cell).engine = [] ∧ (l.cells.map (·.1)).Nodup ∧ l.badCells = [] := by
  unfold State.Inv; decide +kernel
/-- Two 4-bit elements of one byte. -/
def nibbles : Store := { cells := [(0x2000000000, 1, 0x0F), (0x2000000000, 0x20, 0xF0)] }
theorem witness_STORE_PERFORM_nibbles : let s := place { base with stores := [nibbles] }
    s.Inv ∧ (s.cx s.ev.ctx).stores = nibbles :: [] ∧
      (nibbles.cells.filter (·.1 = 0x2000000000)).foldl (fun b y => (b &&& ~~~y.2.2) ||| (y.2.1 &&& y.2.2)) (0xFF : Byte) = 0x21 := by unfold State.Inv; decide +kernel
theorem witness_STORE_PERFORM : let st : Store := { cells := [(0x2000000000, 1, 0xFF), (0x2000000001, 2, 0xFF)] }
    let s := place { base with stores := [st] }
    s.Inv ∧ (s.cx s.ev.ctx).stores = st :: [] := by unfold State.Inv; decide +kernel

theorem witness_VectorMemory : StreamOk w_ls.me.a[0] ∧ PassOk w_ls.me 0 1 ∧ PassOk w_ls.me 0 2 ∧ w_ls.me.a[0].total = 8 := by
  unfold StreamOk PassOk; decide +kernel
theorem witness_VectorMemory_bounds : checkTouches 0 w_ls.me.a[0] (touchesV ⟨⟨0, 0⟩, 1, false, 0, true, 0⟩ w_ls.me.a[0] 128) = .ok () ∧
    checkTouches 0 w_ls.me.a[0] ((touchesV ⟨⟨0, 0⟩, 1, false, 0, true, 7⟩ w_ls.me.a[0] 128).map fun t => { t with scale := none }) = .ok () ∧
    w_ls.me.a[0].delivered.lanes = 128 ∧ w_ls.me.a[0].fmt.lanes = 128 ∧
    queueTaken w_ls.me + beatsOf (touchBytes w_ls.me.a[0] (touchesV ⟨⟨0, 0⟩, 1, false, 0, true, 0⟩ w_ls.me.a[0] 128)) ≤ 16 := by decide +kernel
theorem witness_Ready_vectors : Ready w_ls (.ldv ⟨⟨0, 0⟩, 1, false, 0, true, 0⟩) .l [] [] w_ls.me ∧ Ready w_ls (.stv ⟨⟨0, 0⟩, 1, false, 0, true, 7⟩) .s [] [] w_ls.me ∧
    Ready w_ls (.ldvx ⟨⟨0, 0⟩, 1, false, 0, 2, false, true, false, 0, 0⟩) .l [] [] w_ls.me ∧ Ready w_ls (.stvx ⟨⟨0, 0⟩, 1, false, 0, 2, false, true, false, 0, 0⟩) .s [] [] w_ls.me ∧
    Ready w_ls (.ldt ⟨0, 0⟩ 0 0 true) .l [] [] w_ls.me ∧ Ready w_ls (.vperm ⟨0, 0⟩ .int8 1 2 false 4 false) .l [] [] w_ls.me := by
  refine ⟨?_, ?_, ?_, ?_, ?_, ?_⟩ <;> exact ready_of _ _ _ _ _ (by decide +kernel)
theorem witness_IndexedIn : IndexedIn w_ls w_ls.me ⟨⟨0, 0⟩, 1, false, 0, 2, false, true, false, 0, 0⟩ w_ls.me.a[0] false ∧
    IndexedIn w_ls w_ls.me ⟨⟨0, 0⟩, 1, false, 0, 2, false, true, false, 0, 0⟩ w_ls.me.a[0] true ∧
    queueTaken w_ls.me + beatsOf (touchBytes w_ls.me.a[0] (indexTouches w_ls w_ls.me ⟨⟨0, 0⟩, 1, false, 0, 2, false, true, false, 0, 0⟩ w_ls.me.a[0])) ≤ 16 := by
  have h : ∀ v, readV w_ls w_ls.me v w_ls.me.handler = 0 := by
    have h0 : ∀ v : BitVec 5, w_ls.me.v[v.toFin] = {} := by decide +kernel
    intro v; simp only [readV, h0]; rfl
  unfold IndexedIn indexTouches; rw [h]; decide +kernel
theorem witness_LDT : tcfgRows (tileCfg w_ls.me 0) = 1 ∧ tilePairing w_ls.me.a[0] (tcfgTy (tileCfg w_ls.me 0)) = true ∧
    checkTouches 0 w_ls.me.a[0] (touchesT w_ls.me.a[0] 1 (tcfgE (tileCfg w_ls.me 0))) = .ok () ∧ tcfgE (tileCfg w_ls.me 0) = 4 ∧
    tileInUse w_ls 0 = false := by decide +kernel
theorem witness_VPERM : (∀ r ∈ [(2 : BitVec 5), 4, 5], PassOk w_ls.me 0 r) ∧ ElemType.int8.width = 8 ∧ ElemType.int8.width ≠ 4 := by unfold PassOk; decide +kernel

/-- The eight elements of a0 lie in one block of the instant window. -/
theorem witness_VectorMemory_scoped : let c := w_scope.me
    let a := c.a[0]
    let o : LdStV := ⟨⟨0, 0⟩, 1, false, 0, true, 0⟩
    let l (w : Nat) := (List.range a.fmt.lanes).flatMap fun j => storeAt a (posOf a o.imm j) w
    c.iopen = true ∧ c.handler = false ∧ instantWindow c = some (0, 0x400000) ∧ StreamOk a ∧ PassOk c 0 o.d ∧
      (l 7).length = 32 ∧ ∀ y ∈ l 7, 0 ≤ y.1 ∧ y.1 < 0x400000 ∧ y.1 / 512 * 512 = 0 := by unfold StreamOk PassOk; decide +kernel
theorem witness_VectorMemory_scoped_ready : Ready w_scope (.stv ⟨⟨0, 0⟩, 1, false, 0, true, 0⟩) .s [] [] w_scope.me ∧ Calm w_scope w_scope.me :=
  ⟨ready_of _ _ _ _ _ (by decide +kernel), by unfold Calm; decide +kernel⟩

/-- A record stands at 0x1000, where LAYOUT.BASE with number 0 reads it. -/
def w_rec : State := let s := withPages { lctx with layoutBase := 0x1000 }
  s.writeRaw 0x108000 (leBytes 64 rec24.toNat)
theorem witness_ASET : Ready w_rec (.aset ⟨⟨0, 0⟩, 15, 1, false, 0⟩ 0) .l [1] [] w_rec.me ∧ Ready w_rec (.asetV ⟨⟨0, 0⟩, 15, 1, false, 0⟩ 0) .l [1] [] w_rec.me :=
  ⟨ready_of _ _ _ _ _ (by decide +kernel), ready_of _ _ _ _ _ (by decide +kernel)⟩
theorem witness_ASET_record : let va := w_rec.me.layoutBase + 64 * (0 : BitVec 11).setWidth 64
    CapturedOk w_rec.me 0 1 ∧ find? w_rec.me.recCache va = none ∧ readVirt (w_rec.setMe w_rec.me) w_rec.cur .read va 64 = .ok (bytesAt w_rec va 64) ∧
      hbmBad va (bytesAt w_rec va 64) = none ∧ malformedRecord (BitVec.ofNat 512 (leNat ((bytesAt w_rec va 64).map (·.1)))) = false := by
  unfold CapturedOk; decide +kernel
/-- The new extent is s5 = 0x1FFF. -/
theorem witness_ASETX : (1 : BitVec 4).toNat = (1 : Fin 6).val ∧ w_ls.me.a[0].bound = true ∧ (1 : Fin 6).val < recRank w_ls.me.a[0].record ∧
    extProduct (w_ls.me.a[0].ext.set 1 ((readS w_ls w_ls.me 5 + 0).setWidth 32)) < 2 ^ 48 ∧ CapturedOk w_ls.me 0 5 := by unfold CapturedOk; decide +kernel
theorem witness_Captured_streams : CapturedOk w_ls.me 0 5 ∧ CapturedOk w_ls.me 0 1 := by unfold CapturedOk; decide +kernel
theorem witness_Ready_streams : Ready w_ls (.asetx ⟨⟨0, 0⟩, 0, 5, false, 0⟩ 1) .l [5] [] w_ls.me ∧ Ready w_ls (.aadv ⟨⟨0, 0⟩, 0, 5, false, 0⟩) .l [5] [] w_ls.me ∧
    Ready w_ls (.aadvAbs ⟨⟨0, 0⟩, 0, 5, false, 0⟩) .l [5] [] w_ls.me ∧ Ready w_ls (.abnd ⟨0, 0⟩ 0 5 false 1 false) .l [5, 1] [] w_ls.me := by
  refine ⟨?_, ?_, ?_, ?_⟩ <;> exact ready_of _ _ _ _ _ (by decide +kernel)

/-- A copy of 128 bytes between 0x1000 and scratch 0x100, and one of four elements of a1 to scratch 0x100. -/
def cin : Copy := { cpy with d := 2, s := 1, n := 1 }
def w_copy : State := w_ls.setBar (barKey 0 15) { ea := 1, owner := some 0, users := [1] }
theorem witness_CopiesStart : let k := copyOf w_copy w_copy.me cin (.xcopyIn cin) .xin false
    nearOutside .xin k.near k.len = none ∧ k.len = 128 ∧ Untagged k.va ∧ copySpans k = [(0x1000, 128)] ∧ copyOutOfRange k = none ∧
      translate (w_copy.setMe w_copy.me) w_copy.cur 0x1000 .read k.unit = .ok (leafAt w_copy 0x1000 .read) ∧ (∀ r ∈ [(1 : BitVec 6), 2], CapturedOk w_copy.me 0 r) ∧
      (let b := w_copy.bar (barKey w_copy.cur.cell 15); b.owner = some w_copy.me.pid ∧ b.users ≠ [] ∧ b.ea ≠ 0) := by
  unfold Untagged CapturedOk; decide +kernel
theorem witness_CopiesStart_strided : let o : Copy := { cpy with d := 2, s := 1, n := 0x08, li := false }
    let k := copyOf w_copy w_copy.me { o with n := 1 } (.xcopyInStrided { o with n := 1 }) .xin true
    copyStreamOk .xin (k.strm.getD {}) = true ∧ (k.strm.getD {}).bv = false ∧ copyOutOfRange k = none ∧ nearOutside .xin k.near k.len = none ∧
      ((copySpans k).head?.all fun y => match translate (w_copy.setMe w_copy.me) w_copy.cur y.1 .read k.unit with | .ok _ => true | .error _ => false) = true := by decide +kernel
theorem witness_CopiesStart_ready : Ready w_copy (.xcopyIn cin) .l [2, 1] [] w_copy.me ∧ Ready w_copy (.xcopyOut { cin with d := 1, s := 2 }) .s [2, 1] [] w_copy.me :=
  ⟨ready_of _ _ _ _ _ (by decide +kernel), ready_of _ _ _ _ _ (by decide +kernel)⟩
/-- A copy of 64 bytes that ends at the end of its page. -/
def op (kind : CopyKind) (near : Nat) : CopyOp := { va := 0x1FC0, near := near, len := 64, kind := kind }
def w_done (k : CopyOp) : State := { w_mem with copies := [k] }
def movableB (s : State) (k : CopyOp) : Bool :=
  decide (Memory.wf s.mem = true) && decide (s.copies = [k]) && decide (k.id = s.ev.n) && decide (s.ev.m = 0) && !stopsAtBoundary s k && decide (k.done = 0) &&
    decide (0 < k.len) && !k.orphan && decide (k.bar = none) && decide (s.poison = []) && decide (k.ctx.cell < Config.cells)
theorem movable_of (s : State) (k : CopyOp) (h : movableB s k = true) : Movable s k := by
  simp only [movableB, Bool.and_eq_true, Bool.not_eq_true', decide_eq_true_eq] at h
  obtain ⟨⟨⟨⟨⟨⟨⟨⟨⟨⟨h1, h2⟩, h3⟩, h4⟩, h5⟩, h6⟩, h7⟩, h8⟩, h9⟩, h10⟩, h11⟩ := h
  exact ⟨h1, h2, h3, h4, h5, h6, h7, h8, h9, h10, h11⟩
/-- Copies to the end of the local window and of the cluster window, to all cells, from the local window, and to the last accumulator words. -/
def ops : List CopyOp := [op .xin 0x3FFFC0, op .xind 0x81FFFFC0, op .xbcast 0x3FFFC0, op .xout 0, op .xaddw 65520]
theorem witness_CopyPlain : ∀ k ∈ ops, Movable (w_done k) k := by
  have h : ∀ k ∈ ops, movableB (w_done k) k = true := by decide +kernel
  exact fun k hk => movable_of _ _ (h k hk)
theorem witness_CopyPlain_near : NearOk (op .xin 0x3FFFC0) ∧ NearOk (op .xind 0x81FFFFC0) ∧ NearOk (op .xbcast 0x3FFFC0) ∧ NearOk (op .xout 0) ∧
    Config.accBytes = 4 * 65520 + 64 := by unfold NearOk; decide
theorem witness_CopyPlain_page (k : CopyOp) (h : k ∈ ops) : OnePage (w_done k) k (0x108FC0 + ·) := by
  have h0 : ∀ k ∈ ops, copyLeaf (w_done k) k k.va = .ok (leafAt (w_done k) k.va (if k.kind = .xout then .write else .read)) ∧
      (leafAt (w_done k) k.va (if k.kind = .xout then .write else .read)).far (w_done k) = false ∧
      (leafAt (w_done k) k.va (if k.kind = .xout then .write else .read)).entry.cmp = 0 ∧
      (leafAt (w_done k) k.va (if k.kind = .xout then .write else .read)).pa = 0x108FC0 ∧ k.strm = none ∧ k.va.toNat % 4096 + k.len ≤ 4096 ∧ k.len = 64 := by
    decide +kernel
  obtain ⟨h1, h2, h3, h4, h5, h6, h7⟩ := h0 k h
  refine ⟨_, h2, h3, ?_⟩
  rw [h5]
  exact ⟨h1, h6, by rw [h4, h7]; decide, fun j _ => by rw [h4]⟩
/-- The eight elements of a1 to scratch. -/
def opStrided : CopyOp := { near := 0x100, len := 32, kind := .xin, strm := some (strm 0x1000 true) }
theorem witness_CopyPlain_strided : Movable (w_done opStrided) opStrided ∧ NearOk opStrided ∧ OnePage (w_done opStrided) opStrided (0x108000 + ·) := by
  refine ⟨movable_of _ _ (by decide +kernel), by unfold NearOk; decide, leafAt (w_done opStrided) 0x1000 .read, by decide +kernel, by decide +kernel, ?_⟩
  have hx : stridedAddrs opStrided (strm 0x1000 true) = (List.range 8).map fun (i : Nat) => 0x1000 + 4 * (i : Int) := by decide +kernel
  have hp : (leafAt (w_done opStrided) 0x1000 .read).pa = 0x108000 := by decide +kernel
  have hw : max 1 ((strm 0x1000 true).fmt.width / 8) = 4 := by decide +kernel
  refine ⟨0x1000, by decide, by decide +kernel, by decide, by rw [hp]; decide, ?_, ?_⟩
  · rw [hx, hw]; rfl
  · intro i x h
    rw [hx, List.getElem?_map, Option.map_eq_some_iff] at h
    obtain ⟨m, hm, rfl⟩ := h
    obtain ⟨hi, rfl⟩ := List.getElem?_eq_some_iff.1 hm
    rw [List.length_range] at hi
    rw [hp, hw, List.getElem_range]
    exact ⟨by omega, by omega, fun j _ => by show 0x108000 + (4 * i + j) = _; omega⟩
theorem witness_CopyPlain_add : let k := op .xaddw 65520
    let q := (w_done k).cell k.ctx.cell
    k.len % 4 = 0 ∧ 4 * k.near + k.len ≤ Config.accBytes ∧ k.len ≤ 4 * (64 - k.near % 8) ∧ q.cyc.toNat % 4 = k.slot ∧
      k.last ≠ some q.cyc.toNat ∧ addHeld q = false ∧ bankClash q k.near (k.len / 4) = false := by decide +kernel
/-- The last 64 bytes of the compressed page, inbound and outbound. -/
theorem witness_CopyCompressed : ∀ kind ∈ [CopyKind.xin, .xind, .xout], let k : CopyOp := { op kind 0x3FFFC0 with va := 0x4FC0 }
    let l := leafAt (w_done k) 0x4FC0 (if kind = .xout then .write else .read)
    movableB (w_done k) k = true ∧ k.strm = none ∧ copyLeaf (w_done k) k k.va = .ok l ∧ l.far (w_done k) = false ∧ l.entry.cmp ≠ 0 ∧
      k.va.toNat % 4096 + k.len ≤ 4096 := by decide +kernel
/-- QPOINT with a copy whose pages translate, and with one whose page does not. -/
theorem witness_HandOver_copies : let k := op .xin 0
    pagesLeft k = [0x1FC0] ∧ copyLeaf (w_done k) k 0x1FC0 = .ok (leafAt (w_done k) 0x1FC0 .read) := by decide +kernel
def opUnmapped : CopyOp := { op .xin 0 with va := 0x5FC0 }
theorem witness_HandOver_waits : pagesLeft opUnmapped = [0x5FC0] ∧ opUnmapped.ctx = (w_done opUnmapped).cur ∧ opUnmapped.orphan = false ∧
    (match copyLeaf (w_done opUnmapped) opUnmapped 0x5FC0 with | .ok _ => true | .error _ => false) = false := by decide +kernel

/-! ### Channels -/

/-- Channel 7 of 8-byte elements with a ring of two, ports 0 for writing and 1 for reading bound to it. -/
def ends : Chan := { esz := 3, rsz := 1, writer := some {}, reader := some { port := 1 }, state := 1 }
def w_ch (c : Chan) : State :=
  (place { lctx with port := (base.port.set 0 { chan := some 7, write := true, credits := 1 }).set 1 { chan := some 7 } }).setChan ⟨0, 7⟩ c
theorem witness_CHWR_ready : Ready (w_ch ends) (.chwr ⟨⟨0, 0⟩, 1, false, false, 0⟩) .s [1] [] (w_ch ends).me ∧
    Ready (w_ch ends) (.chwrI ⟨⟨0, 0⟩, 1, false, true, 0⟩) .s [] [] (w_ch ends).me ∧ Ready (w_ch ends) (.chclose ⟨0, 0⟩ 0) .s [] [] (w_ch ends).me ∧
    Ready (w_ch ends) (.chstat ⟨0, 0⟩ 5 1 3) .l [] [5] (w_ch ends).me := by
  refine ⟨?_, ?_, ?_, ?_⟩ <;> exact ready_of _ _ _ _ _ (by decide +kernel)
theorem witness_CHWR : let s := w_ch ends
    let p := s.me.port[(0 : BitVec 5).toFin]
    let ch := s.chan ⟨s.me.pid, 7⟩
    s.me.qL = [] ∧ s.me.qC = [] ∧ PassOk s.me 0 1 ∧ CapturedOk s.me 0 1 ∧ s.me.handler = false ∧ p.chan = some 7 ∧ p.write = true ∧ p.closed = false ∧
      ch.state.toNat < 2 ∧ ch.e = 8 ∧ 0 < usableCredits ch p := by unfold PassOk CapturedOk; decide +kernel
theorem witness_CHCLOSE_closed : 2 ≤ ((w_ch { ends with state := 2 }).chan ⟨0, 7⟩).state.toNat := by decide +kernel
def readerB (s : State) (i : Instr) (o : ChRead) (n : Nat) : Bool :=
  readyB s i .l [] (if o.v then [o.x] else [o.d, o.x]) && s.me.qC.isEmpty && decide (queueTaken s.me < 16) &&
    decide ((s.chan ⟨s.me.pid, n⟩).step = 0) &&
    decide (s.me.port[o.p.toFin].chan = some n) && !s.me.port[o.p.toFin].write && !foreign s (s.chan ⟨s.me.pid, n⟩).writer &&
    decide (s.me.replay = none) && decide ((s.part s.me.pid).record = none)
theorem reader_of (s : State) (i : Instr) (o : ChRead) (n : Nat) (h : readerB s i o n = true) : ReaderReady s i o s.me n := by
  simp only [readerB, Bool.and_eq_true, Bool.not_eq_true', decide_eq_true_eq, List.isEmpty_iff] at h
  obtain ⟨⟨⟨⟨⟨⟨⟨⟨h1, h2⟩, h3⟩, h4⟩, h5⟩, h6⟩, h7⟩, h8⟩, h9⟩ := h
  exact ⟨ready_of _ _ _ _ _ h1, h2, fun _ => h3, h4, h5, h6, h7, h8, h9⟩
def toScalar : ChRead := ⟨⟨0, 0⟩, 5, false, 1, 6⟩
def toVector : ChRead := ⟨⟨0, 0⟩, 5, true, 1, 6⟩
/-- The four states of the channel, for a scalar and a vector destination. -/
theorem witness_ReaderReady (c : Chan) (hc : c ∈ [ends, { ends with rtail := 1 }, { ends with state := 2 }, { ends with state := 3 }]) :
    ReaderReady (w_ch c) (.chrd toScalar) toScalar (w_ch c).me 7 ∧ ReaderReady (w_ch c) (.chtry toVector) toVector (w_ch c).me 7 ∧
      ReaderReady (w_ch c) (.chtag toScalar) toScalar (w_ch c).me 7 := by
  have h : ∀ c ∈ [ends, { ends with rtail := 1 }, { ends with state := 2 }, { ends with state := 3 }],
      readerB (w_ch c) (.chrd toScalar) toScalar 7 = true ∧ readerB (w_ch c) (.chtry toVector) toVector 7 = true ∧
        readerB (w_ch c) (.chtag toScalar) toScalar 7 = true := by decide +kernel
  exact ⟨reader_of _ _ _ _ (h c hc).1, reader_of _ _ _ _ (h c hc).2.1, reader_of _ _ _ _ (h c hc).2.2⟩
/-- One element; none and open; none and closed; drained. -/
theorem witness_ChannelReads : (let ch := (w_ch { ends with rtail := 1 }).chan ⟨0, 7⟩
      ch.state ≠ 3 ∧ ch.headPresent = true ∧ ch.spill = false ∧ ch.e ≤ 8 ∧ (ringHead (w_ch { ends with rtail := 1 }) ⟨0, 7⟩ 0).bad = false ∧
        (ringHead (w_ch { ends with rtail := 1 }) ⟨0, 7⟩ 0).badTag = false) ∧
    (let ch := (w_ch ends).chan ⟨0, 7⟩; ch.state ≠ 3 ∧ ch.headPresent = false ∧ ch.ended = false) ∧
    (let ch := (w_ch { ends with state := 2 }).chan ⟨0, 7⟩; ch.headPresent = false ∧ ch.ended = true) ∧ ((w_ch { ends with state := 3 }).chan ⟨0, 7⟩).state = 3 := by
  decide +kernel
theorem witness_CHSTAT : (w_ch ends).me.port[(1 : BitVec 5).toFin].chan = some 7 ∧ (w_ch ends).me.replay = none ∧ ((w_ch ends).part (w_ch ends).me.pid).record = none ∧
    foreign (w_ch ends) ((w_ch ends).chan ⟨0, 7⟩).reader = false := by decide +kernel

def w_unit (c : Chan) : State := { (w_ch c).setPart 0 { root := 0x100001 } with mem := pages, ev := { chan := ⟨0, 7⟩ } }
theorem witness_CHANNEL_PUSH : let s := w_unit { ends with transit := [{ val := 5 }], rtail := 1 }
    let ch := s.chan s.ev.chan
    s.Inv ∧ (find? s.chans s.ev.chan).isSome = true ∧ ch.transit = { val := 5 } :: [] ∧ released s s.ev.chan { val := 5 } = true ∧ ch.reader = some { port := 1 } ∧
      foreign s ch.reader = false ∧ ({ port := 1 } : Endpoint).resident = true ∧ ({ val := 5 } : Elem).close = false ∧ ch.spill = false ∧
      ch.ring + ch.refills.length = 1 ∧ ch.n = 2 := by unfold State.Inv; decide +kernel
def w_silt : State := w_unit { ends with slog := 1, sbase := 0x3000, stail := 1, spill := true }
theorem witness_REFILL_START : canRefill (w_silt.chan w_silt.ev.chan) = true ∧
    (match siltRead w_silt w_silt.ev.chan ((w_silt.chan w_silt.ev.chan).shead.toNat % max (w_silt.chan w_silt.ev.chan).c 1) with | .ok _ => true | .error _ => false) = true := by
  decide +kernel
theorem witness_REFILL_LANDING : let s := w_unit { ends with refills := [{ val := 5 }] }
    s.Inv ∧ (s.chan s.ev.chan).refills = { val := 5 } :: [] ∧ (s.chan s.ev.chan).reader = some { port := 1 } ∧ ({ port := 1 } : Endpoint).resident = true ∧
      (s.chan s.ev.chan).step < 2 := by unfold State.Inv; decide +kernel
theorem witness_CREDIT_RETURN : let s := w_unit { ends with returning := 2 }
    (find? s.chans s.ev.chan).isSome = true ∧ foreign s (s.chan s.ev.chan).reader = false ∧ (s.chan s.ev.chan).writer = some {} ∧
      find? s.ctxs ⟨0, 0⟩ = some s.me ∧ s.me.pid = s.ev.chan.pid := by decide +kernel

/-! ### Generators and the matrix unit -/

/-- g15 a 2 × 2 sign generator of the widest scope code; t1 and t2 2 × 2 BF16 tiles; a nest of two iterations over them; s1 = 32, s2 = 65408. -/
def gctx : Ctx :=
  { base with s := scal [(1, { val := 32 }), (2, { val := 65408 }), (3, { val := 61440 })],
              g := base.g.set 15 { rows := 2, cols := 2, scope := 9, stride := 2 },
              t := (base.t.set 1 { cfg := 0x00090404 }).set 2 { cfg := 0x00090404 },
              nest := { lvl := base.nest.lvl.set 0 { count := 2, sa := 4, sb := -4, sc := 8 }, abase := 0x100, bbase := 0x200, apitch := 64, bpitch := 4,
                        aoper := 1, boper := 2, cbase := 4016 } }
def w_mx : State := place gctx
theorem witness_Ready_generators : (∀ i ∈ [Instr.gkey ⟨⟨0, 0⟩, 15, 1, false, 2, false⟩, .gkeyOff ⟨⟨0, 0⟩, 15, 1, false, 2, false⟩, .gkeyParam ⟨⟨0, 0⟩, 15, 1, false, 2, false⟩,
      .gctr ⟨⟨0, 0⟩, 15, 1, false, 2, false⟩, .gadv ⟨⟨0, 0⟩, 15, 1, false, 2, false⟩, .gset ⟨0, 0⟩ 15 .sign 1 1 0x3F80, .gscope ⟨0, 0⟩ 15 9, .gdraw ⟨0, 0⟩ 1 15 1 false,
      .gdrawAdv ⟨0, 0⟩ 1 15 1 false, .gsave ⟨0, 0⟩ 1 15, .gload ⟨0, 0⟩ 15 1 false], Ready w_mx i .c [1, 2] [] w_mx.me ∧ clkOf i = 0) := by
  have h : ∀ i ∈ [Instr.gkey ⟨⟨0, 0⟩, 15, 1, false, 2, false⟩, .gkeyOff ⟨⟨0, 0⟩, 15, 1, false, 2, false⟩, .gkeyParam ⟨⟨0, 0⟩, 15, 1, false, 2, false⟩,
      .gctr ⟨⟨0, 0⟩, 15, 1, false, 2, false⟩, .gadv ⟨⟨0, 0⟩, 15, 1, false, 2, false⟩, .gset ⟨0, 0⟩ 15 .sign 1 1 0x3F80, .gscope ⟨0, 0⟩ 15 9, .gdraw ⟨0, 0⟩ 1 15 1 false,
      .gdrawAdv ⟨0, 0⟩ 1 15 1 false, .gsave ⟨0, 0⟩ 1 15, .gload ⟨0, 0⟩ 15 1 false], readyB w_mx i .c [1, 2] [] = true ∧ clkOf i = 0 := by decide +kernel
  exact fun i hi => ⟨ready_of _ _ _ _ _ (h i hi).1, (h i hi).2⟩
theorem witness_Generators : CapturedOk w_mx.me 0 1 ∧ CapturedOk w_mx.me 0 2 ∧ (readS w_mx w_mx.me 1).toNat ≤ 32 ∧ w_mx.me.v[(1 : BitVec 5).toFin].pend = false ∧
    (w_mx.me.g[(15 : BitVec 4).toFin]).scope.toNat ≤ 9 := by unfold CapturedOk; decide +kernel
theorem witness_GeneratorFree : GeneratorFree w_mx := by
  refine ⟨by decide +kernel, by decide +kernel, fun n h => ?_⟩
  rw [show (w_mx.cell w_mx.cur.cell).nest = none by decide +kernel] at h
  cases h
theorem witness_GLOAD : vsrc (0#1 ++ (1 : BitVec 5)) = .reg 1 ∧ let w := valV w_mx w_mx.me (0#1 ++ (1 : BitVec 5))
    (fld w 563 13 : BitVec 13) = 0 ∧ (fld w 584 56 : BitVec 56) = 0 ∧ (fld w 704 320 : BitVec 320) = 0 ∧ (fld w 576 8 : BitVec 8).toNat ≤ 9 ∧
      ((fld w 384 32 : BitVec 32) = 0 ↔ (fld w 416 32 : BitVec 32) = 0) := by
  rw [show valV w_mx w_mx.me (0#1 ++ (1 : BitVec 5)) = 0 by
    have h0 : ∀ v : BitVec 5, w_mx.me.v[v.toFin] = {} := by decide +kernel
    simp only [valV, show vsrc (0#1 ++ (1 : BitVec 5)) = .reg 1 by decide +kernel, readV, h0]; rfl]
  decide +kernel

theorem witness_MatrixConfiguration : Ready w_mx (.tcfg ⟨0, 0⟩ 7 .bf16 16 64) .c [] [] w_mx.me ∧ Ready w_mx (.mcfgLoop ⟨⟨0, 0⟩, 5, 1, false, 2, false⟩) .c [1, 2] [] w_mx.me ∧
    (5 : BitVec 3).toNat = (5 : Fin 6).val := ⟨ready_of _ _ _ _ _ (by decide +kernel), ready_of _ _ _ _ _ (by decide +kernel), by decide⟩
theorem witness_UnitFree : UnitFree w_mx ∧ w_mx.Inv := by unfold UnitFree State.Inv; decide +kernel
/-- MMA of t1 by t2, and of t1 by the generator. -/
theorem witness_MMA (gb : Bool) (bf : BitVec 4) (h : (gb, bf) ∈ [(false, (2 : BitVec 4)), (true, 15)]) :
    Ready w_mx (.mma ⟨⟨0, 0⟩, 15, 1, false, bf, false, 1, false, gb, false, false⟩) .c [] [] w_mx.me := by
  have h : ∀ p ∈ [(false, (2 : BitVec 4)), (true, 15)], readyB w_mx (.mma ⟨⟨0, 0⟩, 15, 1, false, p.2, false, 1, false, p.1, false, false⟩) .c [] [] = true := by decide +kernel
  exact ready_of _ _ _ _ _ (h (gb, bf) (by assumption))
def mmaCtx (i : Instr) : Ctx := atIssue w_mx.me .c i [] []
theorem witness_MMA_operands : ∀ p ∈ [(false, (2 : BitVec 4)), (true, 15)], let o : MmaOp := ⟨⟨0, 0⟩, 15, 1, false, p.2, false, 1, false, p.1, false, false⟩
    let x := mmaCtx (.mma o)
    let a := mmaOp x o.ga o.a o.ta
    let b := mmaOp x o.gb o.b o.tb
    granted (w_mx.setMe x) w_mx.cur.cell w_mx.cur.slot 0 = true ∧ formatsOk x 1 a b = true ∧ shapesOk x a b = true ∧ scalesOk x a (a.dims x).1 = true ∧
      scalesOk x b (b.dims x).2 = true ∧ (w_mx.cell w_mx.cur.cell).genBusy ≤ 0 ∧ othersTurn (w_mx.setMe x) = false ∧
      (∀ t ∈ a.tiles x ++ b.tiles x, TileOk x 0 t) := by unfold TileOk; decide +kernel
theorem witness_MMA_steps : ∀ p ∈ [(false, (2 : BitVec 4)), (true, 15)], let o : MmaOp := ⟨⟨0, 0⟩, 15, 1, false, p.2, false, 1, false, p.1, false, false⟩
    let x := mmaCtx (.mma o)
    let a := mmaOp x o.ga o.a o.ta
    let b := mmaOp x o.gb o.b o.tb
    stepsFor (w_mx.setMe x) ((a.gen.orElse fun _ => b.gen).getD {}) (if a.gen.isSome then a.stepCols x else b.stepCols x) = .ok ([], w_mx.setMe x) := by
  intro p hp
  simp only [List.mem_cons, List.not_mem_nil, or_false] at hp
  rcases hp with rfl | rfl <;> rfl
theorem witness_accumulator : CapturedOk w_mx.me 0 2 ∧ CapturedOk w_mx.me 0 3 ∧ (readS w_mx w_mx.me 2).toNat + 128 = 65536 ∧ (readS w_mx w_mx.me 2).toNat % 8 = 0 ∧
    (readS w_mx w_mx.me 3).toNat + 4096 = 65536 ∧ (readS w_mx w_mx.me 3).toNat % 4096 = 0 ∧
    w_mx.me.v[(1 : BitVec 5).toFin].pend = false := by unfold CapturedOk; decide +kernel
theorem witness_accumulator_vector : ReadableV w_mx.me 0 (0#1 ++ (1 : BitVec 5)) := by
  unfold ReadableV; rw [show vsrc (0#1 ++ (1 : BitVec 5)) = .reg 1 by decide +kernel]; decide +kernel
theorem witness_accumulator_ready : Ready w_mx (.accrd ⟨⟨0, 0⟩, 1, false, 2, false, 0⟩) .c [2] [] w_mx.me ∧ Ready w_mx (.accwr ⟨⟨0, 0⟩, 1, false, 2, false, 0⟩) .c [2] [] w_mx.me ∧
    Ready w_mx (.accz ⟨⟨0, 0⟩, 0, false, 3, false, 0⟩) .c [3] [] w_mx.me := by refine ⟨?_, ?_, ?_⟩ <;> exact ready_of _ _ _ _ _ (by decide +kernel)
/-- MGO into the last accumulator tile at the highest CBASE that fits; and with a COUNT of zero. -/
theorem witness_MGO : let x := mmaCtx (.mgo ⟨0, 0⟩ 15 1)
    let n := gctx.nest
    let a := (nestOps x n).1
    let b := (nestOps x n).2
    let cs := nestExtremes n (·.sc.toInt)
    let ra := nestRange n x a n.abase n.apitch (·.sa.toInt)
    let rb := nestRange n x b n.bbase n.bpitch (·.sb.toInt)
    (n.lvl.toList.map (·.count.toNat)).prod = 2 ∧ w_mx.me.qS = [] ∧ w_mx.me.stores = [] ∧ a.gen = none ∧ b.gen = none ∧ formatsOk x 1 a b = true ∧ shapesOk x a b = true ∧
      n.cbase.toNat % 8 = 0 ∧ 0 ≤ 61440 + 4016 + cs.1 ∧ 61440 + (4016 : Int) + cs.2 + 64 * ((a.dims x).1 - 1 : Int) + (b.dims x).2 ≤ 65536 ∧
      RangeOk a ra ∧ RangeOk b rb ∧ scalesOk x a (a.dims x).1 = true ∧ scalesOk x b (b.dims x).2 = true ∧ n.aoper &&& 0xFFFFFE00 = 0 ∧
      n.boper &&& 0xFFFFFE00 = 0 ∧ (w_mx.cell w_mx.cur.cell).cyc.toNat % 4 = 0 := by unfold RangeOk; decide +kernel
theorem witness_MGO_tiles : let x := mmaCtx (.mgo ⟨0, 0⟩ 15 1)
    let a := (nestOps x gctx.nest).1
    let b := (nestOps x gctx.nest).2
    ∀ t ∈ a.tiles x ++ b.tiles x, t ≠ a.t → t ≠ b.t → TileOk x 0 t := by unfold TileOk; dsimp only; decide +kernel
theorem witness_MGO_steps : let x := mmaCtx (.mgo ⟨0, 0⟩ 15 1)
    stepsFor (w_mx.setMe x) {} [] = .ok ([], w_mx.setMe x) := rfl
theorem witness_BeatsOver : BeatsOver w_mx := fun v x h => by
  have e : w_mx.ctxs = [(⟨0, 0⟩, gctx)] := by decide +kernel
  rw [e, show w_mx.cur.cell = 0 by decide +kernel] at h
  simp only [find?] at h
  split at h
  · cases h; left; decide +kernel
  · cases h
theorem witness_MGO_ready : Ready w_mx (.mgo ⟨0, 0⟩ 15 1) .c [] [] w_mx.me ∧
    ((gctx.nest.lvl.set 5 { count := 0 }).toList.map (·.count.toNat)).prod = 0 := ⟨ready_of _ _ _ _ _ (by decide +kernel), by decide +kernel⟩
/-- The second iteration of the nest. -/
def w_nest : State :=
  { w_mx.setCell 0 { cyc := 40, nest := some { cfg := gctx.nest, np := 1, acc := 61440, next := 1, total := 2, load := 20, ready := 40 },
                     engine := [{ isNest := true, compute := 40 }] } with ev := { n := 0 } }
theorem witness_NEST_ITERATION : let run : NestRun := { cfg := gctx.nest, np := 1, acc := 61440, next := 1, total := 2, load := 20, ready := 40 }
    let q := w_nest.cell 0
    let x := w_nest.cx ⟨0, 0⟩
    let a := descOp run.gen run.cfg.aoper
    let b := descOp run.gen run.cfg.boper
    w_nest.Inv ∧ q.nest = some run ∧ run.next < run.total ∧ run.ready ≤ q.cyc.toNat ∧ granted w_nest 0 run.slot q.cyc.toNat = true ∧
      q.engine = [{ isNest := true, compute := 40 }] ∧ 40 ≤ q.cyc.toNat ∧ a.t ≠ b.t ∧ w_nest.poison = [] ∧ (0 : Nat) < Config.cells := by unfold State.Inv; decide +kernel
theorem witness_NEST_ITERATION_window : let x := w_nest.cx ⟨0, 0⟩
    let a := descOp {} gctx.nest.aoper
    let b := descOp {} gctx.nest.boper
    TileShape x a ∧ InWindow x a ((gctx.nest.abase.toNat : Int) + stepAt gctx.nest (·.sa) 1).toNat gctx.nest.apitch.toNat ∧
      TileShape x b ∧ InWindow x b ((gctx.nest.bbase.toNat : Int) + stepAt gctx.nest (·.sb) 1).toNat gctx.nest.bpitch.toNat := by
  unfold TileShape InWindow; decide +kernel
/-- A product of one row and one column, 3 times 5, with its checksum due. -/
def rowOne : RowWork := { rd := some 7, wr := some 9, a := 16, n := 1, np := 3, ra := [3], cb := [[5]] }
theorem witness_CHECKSUM_MISMATCH : let k : EngCmd := { id := 3, runs := [{ m := 1, n := 1 }], t := 5, doneAt := 9, work := [rowOne] }
    let s (x : BitVec 32) : State := { w_mx.setCell 0 { engine := [k] } with ev := { m := 3, sum := x } }
    ((s 14).cell (s 14).ev.ctx.cell).engine = [k] ∧ k.slot = (s 14).ev.ctx.slot ∧ k.id = (s 14).ev.m ∧ k.isNest = false ∧
      ((s 14).cell 0).cyc.toNat = 0 ∧ (∀ w ∈ k.work, w.run = 0) ∧ laneFails k.work ((s 15).ev.grp.getLsbD 0) (s 15).ev.n (s 15).ev.sum.toNat = false ∧
      laneFails k.work ((s 14).ev.grp.getLsbD 0) (s 14).ev.n (s 14).ev.sum.toNat = true ∧ ((s 14).cell 0).trcCtl = 0 ∧
      ((s 14).part ((s 14).cx (s 14).ev.ctx).pid).record = none ∧ (s 14).dev.softLimit = 0 := by decide +kernel
theorem witness_checksum_lane : [rowOne].head? = some rowOne ∧ rowOne.np = 3 ∧ (0 : Nat) < [rowOne].length := by decide +kernel
/-- A BF16 row (NP0) whose only operand is infinite. -/
theorem witness_checksum_not_finite : let w := { rowOne with np := 0, ra := [0x7F80] }
    w.np ≠ 3 ∧ w.np ≠ 4 ∧ (0 : Nat) < [w].length ∧ (0 : Nat) < w.ra.length ∧ isFinite (profileType 0) (w.ra.getD 0 0) = false := by decide +kernel

/-! ### Cycles, records, markers -/

/-- Cell 0 in cycle 3, its slot 1 next, with a command of slot 0 that completes in cycle `n`. -/
def w_cyc (n : Nat) : State := (place base).setCell 0 { cyc := 3, turn := 1, engine := [{ doneAt := n }] }
def emptyB (s : State) (n v : Nat) : Bool := match find? s.ctxs ⟨n, v⟩ with
  | some x => decide (x.phase ≠ .image) && x.qL.isEmpty && x.qC.isEmpty && x.qS.isEmpty
  | none => true
theorem queuesEmpty_of (s : State) (n : Nat) (h : emptyB s n 0 = true ∧ emptyB s n 1 = true) : QueuesEmpty s n := fun v x hv hx => by
  have h : emptyB s n v = true := by
    have : v = 0 ∨ v = 1 := by omega
    rcases this with rfl | rfl
    · exact h.1
    · exact h.2
  simp only [emptyB, hx, Bool.and_eq_true, decide_eq_true_eq, List.isEmpty_iff] at h
  obtain ⟨⟨⟨h1, h2⟩, h3⟩, h4⟩ := h
  exact ⟨h1, h2, h3, h4⟩
theorem all_find? {p : Ctx → Bool} : ∀ (l : List (CtxId × Ctx)), l.all (fun y => p y.2) = true → ∀ c x, find? l c = some x → p x = true
  | [], _, _, _, h => by cases h
  | _ :: l, ha, c, x, h => by
    simp only [List.all_cons, Bool.and_eq_true] at ha
    simp only [find?] at h
    split at h
    · cases h; exact ha.1
    · exact all_find? l ha.2 c x h
theorem quietCell_of (s : State) (n : Nat)
    (h : ((s.cell n).turn < 2 ∧ (s.cell n).trcCtl.getLsbD 17 = false) ∧ (emptyB s n 0 = true ∧ emptyB s n 1 = true) ∧
      s.ctxs.all (fun y => y.2.reissue.isNone && y.2.stopped.isNone) = true) : QuietCell s n :=
  ⟨h.1.1, h.1.2, queuesEmpty_of _ _ h.2.1, fun v x hx => by
    simpa using all_find? (p := fun y => y.reissue.isNone && y.stopped.isNone) s.ctxs h.2.2 _ _ hx⟩
theorem witness_CELL_CYCLE : QuietCell (w_cyc 9) 0 ∧ (∀ k ∈ ((w_cyc 9).cell 0).engine, 4 < k.doneAt ∧ k.work = [] ∧ k.runs = []) ∧
    (((w_cyc 9).cell 0).cyc + 1).toNat = 4 ∧ ((w_cyc 9).cell 0).nest = none := ⟨quietCell_of _ _ (by decide +kernel), by decide +kernel⟩
/-- A row of the product in the cycle before its read, and in the cycle before its write. -/
def w_row (cyc : Word) (k : EngCmd) : State := (place base).setCell 0 { cyc := cyc, engine := [k] }
theorem witness_row_read : let k : EngCmd := { doneAt := 9, work := [rowOne] }
    let s := w_row 6 k
    QuietCell s 0 ∧ s.Inv ∧ (s.cell 0).nest = none ∧ (s.cell 0).engine = [k] ∧ 7 < k.doneAt ∧ k.work = [] ++ rowOne :: [] ∧ s.poison = [] ∧
      rowOne.cb.length = rowOne.n ∧ rowOne.bad = false ∧ rowOne.rd = some ((s.cell 0).cyc + 1).toNat ∧ rowOne.wr ≠ some 7 :=
  ⟨quietCell_of _ _ (by decide +kernel), by unfold State.Inv; decide +kernel⟩
theorem witness_row_write : let w := { rowOne with rd := none, data := [15] }
    let k : EngCmd := { doneAt := 10, work := [w] }
    let s := w_row 8 k
    QuietCell s 0 ∧ s.Inv ∧ (s.cell 0).nest = none ∧ (s.cell 0).engine = [k] ∧ 9 < k.doneAt ∧ k.work = [] ++ w :: [] ∧ s.poison = [] ∧
      w.cb.length = w.n ∧ w.bad = false ∧ w.wr = some ((s.cell 0).cyc + 1).toNat ∧ w.rd = none :=
  ⟨quietCell_of _ _ (by decide +kernel), by unfold State.Inv; decide +kernel⟩
theorem witness_row_done : ∀ d ∈ [none, some (31 : BitVec 5)], let k : EngCmd := { doneAt := 9, dest := d, push := [2] }
    let s := w_row 8 k
    (s.cell 0).nest = none ∧ (s.cell 0).engine = [k] ∧ k.isNest = false ∧ k.doneAt ≤ ((s.cell 0).cyc + 1).toNat ∧ k.slot < 2 ∧
      find? s.ctxs ⟨0, k.slot⟩ = some base := by decide +kernel
theorem witness_row_done_quiet (k : EngCmd) : QuietCell (w_row 8 k) 0 := quietCell_of _ _
  ⟨⟨Nat.zero_lt_two, by rw [show ((w_row 8 k).cell 0).trcCtl = 0 from rfl]; decide⟩, (by decide +kernel : (emptyB w0 0 0 = true ∧ emptyB w0 0 1 = true) ∧ w0.ctxs.all (fun y => y.2.reissue.isNone && y.2.stopped.isNone) = true)⟩
theorem witness_TIME_BASE : w0.dev.latchDue = false ∧ (let s := { w0 with dev := { w0.dev with latchDue := true, trgT := 9, time := 7 } }
    s.dev.latchDue = true ∧ (s.dev.time + 1).toNat < s.dev.trgT.toNat) := by decide +kernel

theorem noRecords_w0 : NoRecords w0 := fun d => by
  have h : w0.die d = {} := by simp [State.die, w0, place, State.setCx, State.reset, find?]
  rw [h]; decide +kernel
theorem witness_TRIGGER_LATCH : (let s := { w0 with dev := { w0.dev with latchDue := true, trgT := 7, time := 7 } }
      s.dev.latchDue = true ∧ s.dev.trgT.toNat ≤ s.dev.time.toNat) ∧
    (let s := { w0 with dev := { w0.dev with latchDue := true, trgT := 8, time := 7 } }; s.dev.time.toNat < s.dev.trgT.toNat) ∧ w0.dev.latchDue = false := by
  decide +kernel
/-- A buffer of 64 KiB at the base of memory, whose next record is its last; samples of slot 0. -/
def w_sample (trc : Word) : State :=
  ((place base).setCell 0 { trcCtl := trc, cyc := 0x700 }).setDie 0 { loess := 0x50, wptr := 0xFFC0 }
theorem witness_SAMPLE_RECORD : (w_sample 0x20001).Inv ∧ (w_sample 0x20001).resident (w_sample 0x20001).ev.ctx = true ∧
    ((w_sample 0x20001).cell 0).cyc.toNat % 2 ^ 8 = 0 ∧ (∀ p ∈ [((0x20001 : Nat), true, true), (0x20002, true, false), (1, false, true)],
      ((w_sample (BitVec.ofNat 64 p.1)).cell 0).trcCtl.getLsbD 17 = p.2.1 ∧ ((w_sample (BitVec.ofNat 64 p.1)).cell 0).trcCtl.getLsbD 0 = p.2.2) ∧
    ((w_sample 0x20001).die (dieOf 0)).loess.getLsbD 6 = true ∧ ((w_sample 0x20001).cell 0).sampled = [] ∧ ((w_sample 0x20001).cell 0).traceN < 32 ∧
    ((w_sample 0x20001).cell 0).traceLost = 0 := by unfold State.Inv; decide +kernel
theorem witness_SAMPLE_RECORD_not_due : ((w_sample 0x20001).setCell 0 { cyc := 0x701 }).cell 0 = { cyc := 0x701 } ∧ (0x701 : Word).toNat % 2 ^ 8 ≠ 0 := by
  decide +kernel

/-- A C marker at the head of its queue, d3 with a next value, and an S marker of the same number behind it. -/
def w_cmark : State := place { base with qC := [{ kind := .cMark, id := 6 }], qS := [{ kind := .sMark, id := 6 }], d := base.d.set 3 { next := 5, valid := true } }
theorem witness_DELAY_ROTATION : w_cmark.resident w_cmark.ev.ctx = true ∧ (w_cmark.cx w_cmark.ev.ctx).qC = { kind := .cMark, id := 6 } :: [] ∧
    (w_cmark.cx w_cmark.ev.ctx).d[3].valid = true := by decide +kernel
/-- A commit of the last 512 bytes of the local window. -/
def e_commit (o : Bool) : Entry := { kind := .sMark, id := 6, inst := 4, opened := o, ctrs := List.replicate 16 9 }
def p_commit : Span := { inst := 4, addr := 0x3FFE00, msk := 0xFF0F, data := 0x1234 }
def w_commit (o : Bool) : State := place { base with qS := [e_commit o], commits := [p_commit, { inst := 5 }], instants := [4, 5] }
theorem witness_COMMIT : let s := w_commit true
    let x := s.cx s.ev.ctx
    s.Inv ∧ s.resident s.ev.ctx = true ∧ x.qS = e_commit true :: [] ∧ (∀ m ∈ x.qC, m.kind = .cMark → m.id ≠ (e_commit true).id) ∧
      (∀ m ∈ x.qL ++ x.qS, (e_commit true).id ≤ m.id) ∧ x.loads = [] ∧ x.stores = [] ∧ x.scalars = [] ∧ s.copies = [] ∧
      (∀ q ∈ x.port.toList, q.write = false) ∧ (s.cell 0).trcCtl = 0 ∧ (s.part x.pid).record = none ∧ x.replay = none ∧
      x.commits.filter (·.inst = (e_commit true).inst) = [p_commit] ∧ p_commit.addr + 512 = 0x400000 ∧ (e_commit true).ctrs.length = 16 := by
  unfold State.Inv; decide +kernel
theorem witness_COMMIT_filling : let s := w_commit false
    (s.cx s.ev.ctx).qS = e_commit false :: [] ∧ commitReady s s.ev.ctx (e_commit false) = true := by decide +kernel

/-! ### Launches -/

/-- One cell, kernel header at 0x1040. -/
def rec1 : BitVec 512 := 0x1041 ||| 1 <<< 56 ||| 1 <<< 60
/-- A record at 0x1000 whose kernel header, of entry 0x1000 and no image, stands at 0x1040; a group count of 1 at 0x1080 and of 0 at 0x1084. -/
def w_lau (r : BitVec 512) : State :=
  (withPages mctx).writeRaw 0x108000 (leBytes 64 r.toNat ++ leBytes 64 0x1000 ++ leBytes 8 1)
def launched (r : BitVec 512) (cnt : Option Word) : Launch × Option Nat := examine ((w_lau r).setMe (w_lau r).me) 0 0 r cnt
theorem witness_LAUNCH : ∀ n ∈ [(0 : Nat), 0x1080], let cnt : Option Word := if n = 0 then none else some (BitVec.ofNat 64 n)
    let s := w_lau rec1
    let B := bytesAt s 0x1000 64
    readVirt (s.setMe s.me) s.cur .read 0x1000 64 = .ok B ∧ hbmBad 0x1000 B = none ∧ BitVec.ofNat 512 (leNat (B.map (·.1))) = rec1 ∧
      (launched rec1 cnt).2 = none ∧ pendingCount s (launched rec1 cnt).1.ctrl < 256 ∧ Rec.preds rec1 = [] ∧ (cnt.getD 0) &&& 3 = 0 := by decide +kernel
theorem witness_LAUNCH_operands : let s := w_lau rec1
    Present s 0 s.me ∧ ReadableS s.me 0 1 ∧ ReadableS s.me 0 4 ∧ FreeS s.me 5 ∧ Performed s s.me ∧ readS s s.me 1 = 0x1000 ∧ readS s s.me 4 = 0x1080 ∧
      (s.part 0).nextSeq < 2 ^ 48 := by simp only [present_self]; unfold ReadableS FreeS Performed; decide +kernel
theorem witness_LAUNCH_refused : Rec.ok (rec1 ||| 1 <<< 255) = false ∧ (bytesAt (w_lau (rec1 ||| 1 <<< 255)) 0x1000 64).map (·.1) = leBytes 64 (rec1 ||| 1 <<< 255).toNat := by
  decide +kernel
theorem witness_EXAMINE : let s := w_lau rec1
    let hd := BitVec.ofNat 512 (numAt s 0x108040 64)
    Rec.ok rec1 = true ∧ Rec.d rec1 = 1 ∧ Rec.bind rec1 = 0 ∧ Rec.khdr rec1 = 0x1040 ∧ Hdr'.ok hd = true ∧ Hdr'.hasDies hd = false := by decide +kernel
def pageOf (s : State) (va : Word) : Leaf := match walk s 0 va .read with | .ok l => l | .error _ => {}
def pageB (s : State) (va : Word) (pa : Nat) : Bool :=
  let l := pageOf s va
  decide (walk s 0 va .read = .ok l) && decide (l.far s = false) && decide (l.entry.cmp = 0) && decide (l.pa = pa)
theorem pageAt_of (s : State) (va : Word) (pa : Nat) (h : pageB s va pa = true) : PageAt s 0 va pa := by
  simp only [pageB, Bool.and_eq_true, decide_eq_true_eq] at h
  obtain ⟨⟨⟨h1, h2⟩, h3⟩, h4⟩ := h
  exact ⟨_, h1, h2, h3, h4⟩
theorem witness_PageAt : PageAt (w_lau rec1) 0 0x1040 0x108040 ∧ PageAt (w_lau rec1) 0 0x1080 0x108080 ∧ PageAt (w_lau rec1) 0 0x1084 0x108084 :=
  ⟨pageAt_of _ _ _ (by decide +kernel), pageAt_of _ _ _ (by decide +kernel), pageAt_of _ _ _ (by decide +kernel)⟩

/-- A pending LAUNCHI whose group count stands at `a`. -/
def w_count (a : Word) : State := { w_lau rec1 with launches := [{ seq := 1, record := rec1, countAt := some a }], ev := { n := 0, m := 1 } }
theorem witness_LAUNCHI_COUNT_READ : ∀ p ∈ [((0x1080 : Nat), (0x108080 : Nat), (1 : Nat)), (0x1084, 0x108084, 0)], let a : Word := BitVec.ofNat 64 p.1
    let s := w_count a
    let l : Launch := { seq := 1, record := rec1, countAt := some a }
    named? s = some l ∧ l.groups = none ∧ readyButCount s l = true ∧ a.toNat % 4 = 0 ∧ outOfRange a 4 = false ∧ numAt s p.2.1 4 = p.2.2 ∧ l.ports = [] := by
  decide +kernel
/-- A launch of class 2, eligible since time 0; the bound is 5 µs. -/
def w_age (t : Word) : State :=
  { w0 with launches := [{ seq := 1, cls := 2, groups := some 1, since := some 0 }], ev := { n := 0, m := 1 }, dev := { w0.dev with ageing2 := 5, time := t } }
theorem witness_LAUNCH_AGEING : let l : Launch := { seq := 1, cls := 2, groups := some 1, since := some 0 }
    named? (w_age 5000) = some l ∧ named? (w_age 4999) = some l ∧ eligible (w_age 5000) l = true ∧ eligible (w_age 4999) l = true ∧
      1000 * (w_age 5000).dev.ageing2 ≤ ((w_age 5000).dev.time - 0).toNat ∧ ((w_age 4999).dev.time - 0).toNat < 1000 * (w_age 4999).dev.ageing2 := by decide +kernel
theorem witness_ageing_set : let s := { w0 with agenda := [.firmware (.ageing 2 5)] }
    running s = true ∧ s.agenda = .firmware (.ageing 2 5) :: [] := by decide +kernel
/-- A launch of a group of 2 × 1 contexts that uses barrier 15; slot 0 of cell 0 is taken. -/
def l_adm : Launch := { seq := 1, record := 0x2 ||| 1 <<< 56 ||| 1 <<< 60, bars := 0x8000, groups := some 1 }
def w_adm : State := { w0 with launches := [l_adm] }
theorem witness_GROUP_ADMISSION : candidates w_adm w_adm.ev.n = [] ++ l_adm :: [] ∧ placement w_adm l_adm = some [⟨0, 1, 0, 0⟩] ∧
    admissible w_adm l_adm [⟨0, 1, 0, 0⟩] = .ok ∧ l_adm.ports = [] ∧ Rec.d l_adm.record = 1 ∧ Rec.w l_adm.record = 2 ∧ Rec.h l_adm.record = 1 ∧
    l_adm.bars.getLsbD 15 = true ∧ candidates w0 w0.ev.n = [] := by decide +kernel

/-- A context that waits for its scratch image, of `n` bytes that end at the end of a page and of the local window. -/
def l_img (n : Nat) : Launch := { seq := 0, record := rec1, phase := .running, hdr := 0x1000 ||| 0x1FC0 <<< 128 ||| BitVec.ofNat 512 n <<< 192 ||| 0x3FFFC0 <<< 224 }
def w_img (n : Nat) : State := { withPages { base with phase := .image } with launches := [l_img n] }
theorem witness_SCRATCH_IMAGE_LOADED : ∀ n ∈ [0, 64], let s := w_img n
    s.resident s.ev.ctx = true ∧ (s.cx s.ev.ctx).phase = .image ∧
      s.launches.find? (fun l => l.pid == (s.cx s.ev.ctx).pid && l.seq == (s.cx s.ev.ctx).seq) = some (l_img n) ∧ Hdr'.slen (l_img n).hdr = n ∧
      Hdr'.soff (l_img n).hdr + 64 = 0x400000 ∧ (Hdr'.simg (l_img n).hdr).toNat % 4096 + 64 = 4096 ∧ (Hdr'.simg (l_img n).hdr).toNat < 2 ^ 56 ∧ s.poison = [] := by decide +kernel
theorem witness_SCRATCH_IMAGE_LOADED_page : let s := w_img 64
    let k := imageCopy s s.ev.ctx (l_img 64)
    let leaf := match copyLeaf s k k.va with | .ok l => l | .error _ => {}
    copyLeaf s k k.va = .ok leaf ∧ leaf.far s = false ∧ leaf.entry.cmp = 0 ∧ leaf.pa + 64 ≤ Config.hbmEnd := by decide +kernel
theorem witness_SCRATCH_IMAGE_LOADED_form : (w_img 64).Inv := by unfold State.Inv; decide +kernel
/-- The last entry of a launch, a copy and a store. -/
def w_track (e : Track) : State :=
  { State.reset.setCell 0 { tracker := [e] } with launches := [{ seq := 1, groups := some 1, placed := 1, phase := .running }] }
theorem witness_RETIREMENT_TRACKER_FREE : ∀ e ∈ [Track.copy 5 0 1, .stores 0 1 0 [{ cells := [(64, 7, 0xFF)] }] []], let s := w_track e
    (s.cell s.ev.n).tracker = e :: [] ∧ (s.cells.map (·.1)).Nodup ∧ s.copies = [] ∧ s.ctxs = [] ∧ s.saved = [] ∧ s.cells.map (·.1) = [0] := by decide +kernel

/-! ### Words that are no instruction, pre-emption, the deadlock detector -/

/-- A reserved bit and an unlisted function of the sequencer, and VADD.F32 with NP set and with .SAT; SUCCGO stands in the C queue of the other. -/
theorem witness_InvalidWords : decode 0x1003210206000000 = .error .reservedField ∧ decode 0x0003210206180000 = .error .illegalOpcode ∧
    queueOfWord 0x1003210206000000 = none ∧ queueOfWord 0x0003210206180000 = none ∧ w0.resident w0.cur = true ∧
    decode 0x0010010083800010 = .error .reservedField ∧ decode 0x0010010083800001 = .error .illegalOpcode ∧ queueOfWord 0x0010010083800010 = some .c ∧
    queueOfWord 0x0010010083800001 = some .c ∧ w0.me.queue .c = [] := by decide +kernel
def w_queued : State := place { base with qC := List.replicate 31 { kind := .cMark } }
theorem witness_InvalidWords_behind : w_queued.me.queue .c ≠ [] ∧ (w_queued.me.queue .c).length < 32 := by decide +kernel
def w_emu : State := { w0 with dev := { w0.dev with routines := [(0xA1, 0x7000)] } }
theorem witness_InvalidWords_emulation : decode 0x0014200000070000 = .error .emulation ∧ queueOfWord 0x0014200000070000 = some .c ∧
    presence w_emu.me (fld (0x0014200000070000 : Word) 53 7) = .ok (true, w_emu.me) ∧ w_emu.me.qC = [] ∧ w_emu.me.trap.emu = false ∧ (w_emu.cell 0).trcCtl = 0 ∧
    find? w_emu.dev.routines (fld (0x0014200000070000 : Word) 45 8) = some 0x7000 := by decide +kernel

/-- The same under clock 5, which is absent, and under a clock whose condition s3 has another tag; and an extension word, of the S queue. -/
def w_lazy : State :=
  { place { base with iopen := true, clk := clocks, s := scal [(3, { val := 1, tag := 5 })] } with dev := { w0.dev with routines := [(0xA1, 0x7000), (0xE3, 0x8000)], extl := 8 } }
theorem witness_InvalidWords_clocks : let w (k : Nat) : Word := BitVec.ofNat 64 (0x0014200000070000 + k * 2 ^ 53)
    decode (w 5) = .error .emulation ∧ decode (w 1) = .error .emulation ∧ presence w_lazy.me (fld (w 5) 53 7) = .ok (false, fixClock w_lazy.me 5 false) ∧
      (match presence w_lazy.me (fld (w 1) 53 7) with | .error (.fatal _ _) => true | _ => false) = true ∧ w_lazy.me.qC = [] ∧ w_lazy.me.trap.emu = false := by
  decide +kernel
theorem witness_InvalidWords_extension : decode 0x001C600000000000 = .error (.extension 3) ∧ queueOfWord 0x001C600000000000 = some .s ∧
    w_lazy.dev.extl.getLsbD (3 : BitVec 4).toNat = true ∧ presence w_lazy.me (fld (0x001C600000000000 : Word) 53 7) = .ok (true, w_lazy.me) ∧
    w_lazy.me.queue .s = [] ∧ find? w_lazy.dev.routines (fld (0x001C600000000000 : Word) 45 8) = some 0x8000 := by decide +kernel

theorem witness_InvalidWords_stop : (w0.cell w0.cur.cell).nest = none ∧ (w_nest.cell 0).nest.map (·.slot) = some w_nest.cur.slot := by decide +kernel

/-- A context with its save area on a page of 2 MiB of device 1, and another context on its cell. -/
def w_save (x : Ctx) : State :=
  let s := (withPages { x with preArea := 0x800000 }).setCx ⟨0, 1⟩ base
  ({ s with mem := Memory.setAll s.mem (State.at' 2 [1, 0] ++ State.at' 0x106020 (leBytes 8 0x10000000215)) }).setCell 0 {}
abbrev xs (x : Ctx) : Ctx := { x with preArea := 0x800000 }
theorem areaWrite_far (s : State) (c : CtxId) : ∀ (l : List (Word × Nat)) (bs : List (Byte × Bool)),
    (∀ p ∈ l, ∃ leaf, translate s c p.1 .write = .ok leaf ∧ leaf.far s = true) → areaWrite s c l bs = .ok s
  | [], _, _ => rfl
  | (va, n) :: l, bs, h => by
    obtain ⟨leaf, h1, h2⟩ := h _ (List.mem_cons_self ..)
    simp only [areaWrite, h1, writeLeaves, h2, if_true]
    exact areaWrite_far s c l _ fun p hp => h p (List.mem_cons_of_mem _ hp)
theorem length_flatMap_const {α β : Type} (f : α → List β) (n : Nat) (h : ∀ a, (f a).length = n) (l : List α) : (l.flatMap f).length = n * l.length := by
  induction l with
  | nil => simp
  | cons a l ih => simp [List.flatMap_cons, h, ih]; ring
theorem leBytes_len : ∀ n x, (leBytes n x).length = n
  | 0, _ => rfl
  | n + 1, x => by simp [leBytes, leBytes_len n]
theorem withBad_length (c : Ctx) (f : RegFile) (n : Nat) (l : List Byte) : (withBad c f n l).length = l.length := by
  unfold withBad; split <;> simp
theorem markBad_length (bad : List Nat) (l : List Byte) : (markBad bad l).length = l.length := by unfold markBad; split <;> simp
theorem saveBytes_length (c : Ctx) (no : Nat) : (saveBytes c no).length = 0x1BFC0 := by
  have hs : (imgS c).length = 16 * 64 := (length_flatMap_const _ 16 (fun _ => by simp [leBytes_len]) _).trans (by simp)
  have hm : (imgM c).length = 128 * 8 := (length_flatMap_const _ 128 (fun _ => by simp [leBytes_len]) _).trans (by simp)
  have ha : (imgA c).length = 128 * 16 := (length_flatMap_const _ 128 (fun _ => by simp [leBytes_len]) _).trans (by simp)
  have hg : (imgG c).length = 128 * 16 := (length_flatMap_const _ 128 (fun _ => by simp [leBytes_len]) _).trans (by simp)
  have hc : (imgCb c).length = 32 * 8 := (length_flatMap_const _ 32 (fun _ => by simp [leBytes_len]) _).trans (by simp)
  have hv : (imgV c).length = 512 * 32 := (length_flatMap_const _ 512 (fun _ => by simp [leBytes_len]) _).trans (by simp)
  have hd : (imgD c).length = 1024 * 16 := (length_flatMap_const _ 1024 (fun _ => by simp [leBytes_len]) _).trans (by simp)
  have hq : (imgNq c).length = 2048 * 4 :=
    (length_flatMap_const _ 2048 (fun _ => (length_flatMap_const _ 512 (fun _ => by simp [leBytes_len]) _).trans (by simp)) _).trans (by simp)
  have hb : (imgSBad c).length = 1024 := by simp only [imgSBad, List.length_map, List.length_zip, List.length_range, hs]; decide
  simp only [saveBytes, List.length_append, List.length_map, freeBytes, List.length_range, withBad_length, markBad_length, hb, hm, ha, hg, hc, hv, hd, hq]
theorem writeArea_none (s : State) (c : CtxId) (x : Ctx) (h : s.cx c = x)
    (e : areaWrite s c (piecesOf (x.preArea + 0x40) (saveBytes x s.fresh).length) (saveBytes x s.fresh) = .ok s) : writeArea s c none = .ok s := by
  subst h; unfold writeArea; dsimp only; rw [e]
def farB (s : State) (p : Word × Nat) : Bool := match translate s ⟨0, 0⟩ p.1 .write with | .ok l => l.far s | .error _ => false
/-- The area of a context can be written, whatever its bytes. -/
theorem area_of (x y : Ctx) (h1 : imageArea ((w_save x).setCx ⟨0, 0⟩ (asSaved y)) ⟨0, 0⟩ = none)
    (h2 : (piecesOf 0x800040 0x1BFC0).all (farB ((w_save x).setCx ⟨0, 0⟩ (asSaved y))) = true)
    (h3 : ((w_save x).setCx ⟨0, 0⟩ (asSaved y)).cx ⟨0, 0⟩ = asSaved y) (h4 : y.preArea = 0x800000) : ∃ u, areaOf (w_save x) ⟨0, 0⟩ y = .ok u := by
  refine ⟨(w_save x).setCx ⟨0, 0⟩ (asSaved y), ?_⟩
  have e : ∀ body : List (Byte × Bool), areaWrite ((w_save x).setCx ⟨0, 0⟩ (asSaved y)) ⟨0, 0⟩ (piecesOf 0x800040 0x1BFC0) body =
      .ok ((w_save x).setCx ⟨0, 0⟩ (asSaved y)) := fun body => areaWrite_far _ _ _ _ fun p hp => by
    have := List.all_eq_true.mp h2 p hp
    unfold farB at this
    split at this
    · exact ⟨_, by assumption, this⟩
    · cases this
  have ha : (asSaved y).preArea + 0x40 = 0x800040 := by
    rw [show (asSaved y).preArea = 0x800000 by rw [← h4]; unfold asSaved joined; split <;> rfl]; decide
  change writeArea ((w_save x).setCx ⟨0, 0⟩ (asSaved y)) ⟨0, 0⟩ (imageArea ((w_save x).setCx ⟨0, 0⟩ (asSaved y)) ⟨0, 0⟩) = _
  rw [h1]
  exact writeArea_none _ _ _ h3 (by rw [saveBytes_length, ha, e])
def restB (s : State) (c : CtxId) (x : Ctx) : Bool :=
  decide (find? s.ctxs c = some x) && decide (x.phase = .running) && x.loads.isEmpty && x.scalars.isEmpty && x.stores.isEmpty &&
    decide (x.reissue = none) && x.port.toList.all (fun p => decide (p.chan = none)) && s.copies.isEmpty && decide ((s.part x.pid).record = none) &&
    decide (find? s.cells c.cell = some {})
theorem atRest_of (s : State) (c : CtxId) (x : Ctx) (h : restB s c x = true) : AtRest s c x := by
  simp only [restB, Bool.and_eq_true, decide_eq_true_eq, List.isEmpty_iff, List.all_eq_true] at h
  obtain ⟨⟨⟨⟨⟨⟨⟨⟨⟨h1, h2⟩, h3⟩, h4⟩, h5⟩, h0⟩, h6⟩, h7⟩, h8⟩, h9⟩ := h
  exact ⟨h1, h2, h3, h4, h5, h0, h6, by simp [h7], h8, _, h9, rfl, rfl, rfl⟩
/-- Asked to leave, with the hook and without; told to stop; with the hook behind it; and with an update of the tables to observe. -/
def asked (hook : Bool) : Ctx := { base with trap := { pend := true, hook := hook, base := 0x4001 } }
def told : Ctx := { base with stopReq := true, replay := some [] }
def hooked : Ctx := { base with saveNow := true, asideTok := some (.replicate 4 { avail := 1 }), tok := .replicate 4 { held := 1 } }
def unacked : Ctx := { base with pendCount := 1 }
theorem witness_Preemption_rest (x : Ctx) (h : x ∈ [asked true, asked false, told, hooked, unacked]) : AtRest (w_save x) (w_save x).ev.ctx (xs x) := by
  have : ∀ x ∈ [asked true, asked false, told, hooked, unacked], restB (w_save x) (w_save x).ev.ctx (xs x) = true := by decide +kernel
  exact atRest_of _ _ _ (this x h)
theorem witness_Preemption : HookRuns (xs (asked true)) ∧ ¬ HookRuns (xs (asked false)) ∧
    (∀ b, (xs (asked b)).trap.pend = true ∧ AtPoint (xs (asked b)) ∧ AtPoint { xs (asked b) with iopen := true, afterTret := true }) ∧
    (xs told).stopReq = true ∧ AtBoundary (xs told) ∧ (xs hooked).saveNow = true ∧ (xs hooked).qL = [] ∧ (xs hooked).qC = [] ∧ (xs hooked).qS = [] ∧
    (xs unacked).pendCount ≠ 0 := by unfold HookRuns AtBoundary AtPoint; decide +kernel
/-- Each with what it saves: a pre-emption that runs no hook, at a point and when its bound expires; the save behind the hook; the watchdog's; and that of a
precise stop. -/
def savers : List (Ctx × Ctx) :=
  [(asked false, unhooked (xs (asked false)) 0), (asked false, unhooked (xs (asked false)) 1), (hooked, xs hooked), (unacked, begun (xs unacked) 1 true false),
   (told, begun { xs told with stopReq := false, replay := none } 0 false true)]
theorem witness_Preemption_area (p : Ctx × Ctx) (h : p ∈ savers) : ∃ u, areaOf (w_save p.1) ⟨0, 0⟩ p.2 = .ok u := by
  have h1 : ∀ p ∈ savers, imageArea ((w_save p.1).setCx ⟨0, 0⟩ (asSaved p.2)) ⟨0, 0⟩ = none := by decide +kernel
  have h2 : ∀ p ∈ savers, (piecesOf 0x800040 0x1BFC0).all (farB ((w_save p.1).setCx ⟨0, 0⟩ (asSaved p.2))) = true := by decide +kernel
  have h3 : ∀ p ∈ savers, ((w_save p.1).setCx ⟨0, 0⟩ (asSaved p.2)).cx ⟨0, 0⟩ = asSaved p.2 ∧ p.2.preArea = 0x800000 := by decide +kernel
  exact area_of p.1 p.2 (h1 p h) (h2 p h) (h3 p h).1 (h3 p h).2
def w_res : State := { State.reset with saved := [(⟨0, 0⟩, { ctx := base, resume := true })] }
theorem witness_CONTEXT_RESUME : let v : Saved := { ctx := base, resume := true }
    w_res.saved = [(w_res.ev.ctx, v)] ∧ v.resume = true ∧ v.pinned = true ∧ w_res.resident w_res.ev.ctx = false ∧ v.nest = none ∧ v.nestCmd = none ∧
      (∀ p ∈ v.ctx.port.toList, p.chan = none) ∧ (w_res.cell 0).trcCtl = 0 := by decide +kernel

/-- A writer blocked at a full channel that no reader empties; a pool of 16 pages of Silt at 0x3000. -/
def full : Chan := { ends with rtail := 2, reader := none }
def w_full : State :=
  let i : Instr := .chwr ⟨⟨0, 0⟩, 1, false, false, 0⟩
  let x : Ctx := { base with blocked := 4096, port := base.port.set 0 { chan := some 7, write := true }, qS := [{ i := i, id := 1, scal := [(5, 0)] }] }
  ((place x).setPart 0 { siltPool := 0x3000, siltLim := 0x0000001000000010 }).setChan ⟨0, 7⟩ full
theorem witness_Deadlock : detectorFires w0 w0.ev.n = false ∧ detectorFires w_full w_full.ev.n = true ∧ fullChans w_full w_full.ev.n = [⟨0, 7⟩] ∧
    smallest w_full (fullChans w_full w_full.ev.n) = some ⟨0, 7⟩ ∧ (w_full.chan ⟨0, 7⟩).silt = 0 ∧
    (let ch := w_full.chan ⟨0, 7⟩
     let n := max (2 * ch.c) ch.n
     n = 2 ∧ extentBytes ch n ≤ 4096 * (fld (w_full.part 0).siltLim 32 32 : BitVec 32).toNat ∧ freeRange w_full 0 (extentBytes ch n) = some 0x3000) := by decide +kernel
def w_stuck : State := place { base with blocked := 4096 }
theorem witness_Deadlock_stop : detectorFires w_stuck w_stuck.ev.n = true ∧ fullChans w_stuck w_stuck.ev.n = [] ∧ partChans w_stuck w_stuck.ev.n = [] ∧
    (w_stuck.ctxs.filter fun y => y.2.pid = w_stuck.ev.n) = [(⟨0, 0⟩, { base with blocked := 4096 })] ∧
    find? w_stuck.ctxs ⟨0, 0⟩ = some { base with blocked := 4096 } := by decide +kernel

/-! ### Host commands -/

/-- A command of partition 0 with tag 7 whose completion record goes to 0x200000; its other operands by first byte. -/
def cmdOf (op : Nat) (l : List (Nat × Nat)) : Command :=
  BitVec.ofNat 512 (l.foldl (fun a x => a + x.2 * 256 ^ x.1) (op + 7 * 2 ^ 32 + 0x200000 * 2 ^ 64))
def host (s : State) (c : Command) : State := { s with ev := { s.ev with cmd := c } }
theorem witness_HostCommands_reserved : ∀ x ∈ cmds, let c := cmdOf x.1 [(1, 1)]
    Arrives (host w_mem (cmdOf 0 [(1, 1)])) x.1 c ∧ Cmd.reservedZero c = false := by unfold Arrives Reachable State.Inv; decide +kernel

/-- Every command without a reserved byte, with the operands of the statements. -/
def c_launch : Command := cmdOf 1 [(16, 3), (24, 0x1000)]
def c_record (on base cap : Nat) : Command := cmdOf 4 [(16, on), (24, base), (32, cap)]
def c_discard (cell slot : Nat) : Command := cmdOf 9 [(16, cell), (18, slot)]
def c_class : Command := cmdOf 11 [(16, 1), (22, 3)]
def c_dump : Command := cmdOf 12 [(16, 0), (18, 0), (24, 0x300000)]
def c_config (area cap : Nat) : Command := cmdOf 13 [(24, area), (32, 0x400000), (40, cap)]
def c_loess (w : Nat) : Command := cmdOf 14 [(16, 3), (24, w)]
def c_attest : Command := cmdOf 15 [(16, 5), (48, 0x300000)]
def w_sv : State := { w_mem with saved := [(⟨0, 0⟩, { ctx := base })] }
theorem witness_Arrives : ∀ x ∈ [(1, c_launch), (4, c_record 0 0 0), (4, c_record 1 0 Config.hbmEnd), (9, c_discard 0xFFFF 0xFF), (9, c_discard 0 0), (11, c_class), (12, c_dump),
      (13, c_config 0x800000 64), (13, c_config 0x800001 64), (13, c_config 0x800000 63), (14, c_loess 0x50), (14, c_loess 0x62), (15, c_attest)],
    Arrives (host w_sv x.2) x.1 x.2 ∧ Cmd.reservedZero x.2 = true := by unfold Arrives Reachable State.Inv; decide +kernel

def w_cl (conf : Bool) : State := host ((w_lau rec1).setPart 0 { (w_lau rec1).part 0 with configured := conf }) c_launch
theorem witness_LAUNCH_arrives : ∀ b, Arrives (w_cl b) 1 c_launch ∧ ((w_cl b).part 0).configured = b := by unfold Arrives Reachable State.Inv; decide +kernel
def ctrlBytes : List (Byte × Bool) := match ctrlRead (queued (w_cl true) c_launch) 0 0x1000 64 with | .ok b => b | .error _ => []
theorem witness_LAUNCH_command : let s := queued (w_cl true) c_launch
    let e := examine s 0 3 rec1 none
    Cmd.field c_launch 16 1 = 3 ∧ Cmd.word c_launch 24 = 0x1000 ∧ ctrlRead s 0 0x1000 64 = .ok ctrlBytes ∧ (∀ b ∈ ctrlBytes, b.2 = false) ∧
      BitVec.ofNat 512 (leNat (ctrlBytes.map (·.1))) = rec1 ∧ e.2 = none ∧ pendingCount (w_cl true) e.1.ctrl < 256 ∧ ((w_cl true).part 0).nextSeq < 2 ^ 48 ∧
      Rec.preds rec1 = [] := by decide +kernel
theorem witness_operands : Cmd.field (c_record 1 0 Config.hbmEnd) 24 8 + Cmd.field (c_record 1 0 Config.hbmEnd) 32 8 = Config.hbmEnd ∧
    naming (c_discard 0xFFFF 0xFF) ⟨0, 0⟩ ∧ naming (c_discard 0 0) ⟨0, 0⟩ ∧ naming c_dump ⟨0, 0⟩ ∧ Cmd.field c_class 22 1 = 3 ∧
    (∀ p ∈ base.port.toList, p.chan = none) ∧ base.instants = [] ∧ base.commits = [] ∧ w_sv.launches = [] ∧
    (Cmd.word (c_config 0x800000 64) 24).toNat % 0x800000 = 0 ∧ Cmd.field (c_config 0x800000 64) 40 4 = 2 ^ 6 ∧ (Cmd.word (c_config 0x800001 64) 24).toNat % 0x800000 ≠ 0 := by
  unfold naming; decide +kernel
theorem witness_DUMP_command : let o := Cmd.field c_dump 24 8 % 2 ^ 48
    Cmd.word c_dump 24 &&& 63 = 0 ∧ Cmd.field c_dump 24 8 / 2 ^ 48 = w_sv.dev.devNum.toNat ∧ o + 64 ≤ Config.hbmEnd ∧ numAt w_sv (o + 8) 8 = 0 ∧ recordAt c_dump + 16 ≤ o := by
  decide +kernel
/-- Buffers of 64 KiB and of 16 GiB; the last makes recording begin. -/
theorem witness_LOESS_command : ∀ p ∈ [(c_loess 0x50, 16), (c_loess 0x62, 34)], Cmd.field p.1 16 1 = 3 ∧
    (Cmd.word p.1 24 &&& 0x000000FFFFFF007F).toNat = 64 + p.2 ∧ 2 ^ p.2 ≤ Config.hbmEnd ∧ (w_sv.die 3).loess.getLsbD 6 = false := by decide +kernel
theorem witness_ATTEST_command : w_sv.dev.leaf < 2 ^ 20 ∧ ({ w_sv.dev with leaf := 2 ^ 20 } : Dev).leaf = 2 ^ 20 := by decide +kernel

/-- A TABLE command with serial 9 and `n` entries at 0x108080, which is to complete at once or when the contexts have acknowledged (`w`). -/
def c_table (n w : Nat) : Command := cmdOf 2 [(16, 9), (24, 0x108080), (32, n), (48, w)]
def w_tab (n w : Nat) (T V : Nat) : State := host (w_mem.writeRaw 0x108080 (leBytes 8 T ++ leBytes 8 V)) (c_table n w)
theorem witness_TABLE : ∀ x ∈ [(0, 0, 0), (1, 0, 2 ^ 63 + 0x100), (1, 0, 2 ^ 63 + 0x101), (1, 0, 2 ^ 63 + 0x108), (1, 0, 2 ^ 63 + 0x109), (1, 0, 2 ^ 63 + 0x10A), (1, 0, 0x300000), (0, 1, 0)],
    let s := w_tab x.1 x.2.1 x.2.2 0x107033
    Arrives s 2 (c_table x.1 x.2.1) ∧ Cmd.reservedZero (c_table x.1 x.2.1) = true ∧ numAt s 0x108080 8 = x.2.2 ∧ numAt s 0x108088 8 = 0x107033 ∧
      Cmd.field (c_table x.1 x.2.1) 48 8 = x.2.1 ∧ Cmd.field (c_table x.1 x.2.1) 32 4 = x.1 ∧ Cmd.field (c_table x.1 x.2.1) 24 8 = 0x108080 := by
  unfold Arrives Reachable State.Inv; decide +kernel
theorem witness_TABLE_context : find? (w_tab 0 1 0 0).ctxs ⟨0, 0⟩ = some mctx ∧ mctx.pid = 0 ∧ (w_tab 0 1 0 0).tableOld = [] ∧ Acknowledged (w_tab 0 1 0 0) 0 ∧
    recordAt (c_table 1 0) + 16 ≤ 0x300000 ∧ 0x300000 % 8 = 0 ∧ 0x108080 + 16 ≤ Config.hbmEnd := by unfold Acknowledged; decide +kernel

/-- Command `op` of partition 0 in progress, in the sequence or beside it, on a device with the contexts and saved contexts given. -/
def w_run (op : Nat) (ordered resumed : Bool) (s : State) : State :=
  let r : CmdRun := { cmd := cmdOf op [], started := true, resumed := resumed }
  { s.setPart 0 (if ordered then { s.part 0 with ordered := [r] } else { s.part 0 with unordered := [r] }) with ev := { flag := true } }
def run (op : Nat) (resumed : Bool) : CmdRun := { cmd := cmdOf op [], started := true, resumed := resumed }
theorem witness_InSequence : ∀ x ∈ [(2, false), (7, false), (5, true)], InSequence (w_run x.1 true x.2 State.reset) 0 (run x.1 x.2) ∧ Cmd.op (run x.1 x.2).cmd = x.1 := by
  unfold InSequence Reachable State.Inv; decide +kernel
theorem witness_BesideSequence : ∀ op ∈ [3, 6, 8], BesideSequence (w_run op false false State.reset) 0 (run op false) ∧ Cmd.op (run op false).cmd = op := by
  unfold BesideSequence Reachable State.Inv; decide +kernel
/-- A TABLE command whose writes are done: it waits for a tick, has no range, or has one to post. -/
theorem witness_InSequence_table : ∀ p ∈ [(0, true), (0, false), (1, false)], let r : CmdRun := { cmd := cmdOf 2 [(48, p.1)], started := true }
    let s : State := { (place base).setPart 0 { (place base).part 0 with ordered := [r] } with ev := { flag := true }, tableOld := if p.2 then [[]] else [] }
    InSequence s 0 r ∧ Cmd.op r.cmd = 2 ∧ r.resumed = false ∧ (s.tableOld ≠ [] ↔ p.2 = true) ∧ Cmd.field r.cmd 48 8 = p.1 ∧ Acknowledged s 0 ∧
      find? s.ctxs ⟨0, 0⟩ = some base ∧ base.pid = 0 ∧ base.pendCount ≠ -1 := by unfold InSequence Reachable State.Inv Acknowledged; decide +kernel
theorem witness_InSequence_posted : InSequence (w_run 2 true true State.reset) 0 (run 2 true) ∧ Acknowledged (w_run 2 true true State.reset) 0 := by
  unfold InSequence Reachable State.Inv Acknowledged; decide +kernel
theorem witness_InSequence_done : let s := w_run 5 true true State.reset
    s.ctxs = [] ∧ s.saved = [] ∧ s.dev.latchDue = false ∧ (s.part s.ev.n).broken = false ∧ (s.part s.ev.n).diverged = none := by decide +kernel
theorem witness_REPLAY_expiry : let s := w_run 5 true false State.reset
    s.Inv ∧ (s.part s.ev.n).ordered = [run 5 false] ∧ (s.part s.ev.n).unordered = [] ∧ Cmd.pid (run 5 false).cmd = s.ev.n ∧ (run 5 false).resumed = false ∧
      Cmd.op (run 5 false).cmd = 5 ∧ Reachable s (run 5 false).cmd := by unfold Reachable State.Inv; decide +kernel
theorem witness_REPLAY_bound : let d (t : Word) : Dev := { time := t, replayBound := 100 }
    (run 5 false).datum + 1000 * (d 100000).replayBound ≤ (d 100000).time.toNat ∧ (d 99999).time.toNat < (run 5 false).datum + 1000 * (d 99999).replayBound := by
  decide +kernel

def c_replay (S : Nat) : Command := cmdOf 5 [(16, S), (24, 0), (32, Config.hbmEnd)]
def w_rep (S : Nat) : State := host (w_sv.setPart 0 { w_sv.part 0 with serial := 8 }) (c_replay S)
/-- Serial 8 has reached 8 and not 9. -/
theorem witness_REPLAY : ∀ S ∈ [8, 9], Arrives (w_rep S) 5 (c_replay S) ∧ Cmd.reservedZero (c_replay S) = true ∧
    Cmd.field (c_replay S) 24 8 + Cmd.field (c_replay S) 32 8 = Config.hbmEnd ∧
    (((w_rep S).part 0).serial - BitVec.ofNat 16 (Cmd.field (c_replay S) 16 2)).toNat = (if S = 8 then 0 else 65535) := by unfold Arrives Reachable State.Inv; decide +kernel
def w_cmd (op : Nat) (l : List (Nat × Nat)) : State := host { w_sv with dev := { w_sv.dev with time := 5 } } (cmdOf op l)
theorem witness_commands : ∀ x ∈ [(3, []), (3, [(16, 90)]), (6, []), (7, []), (8, [(16, 0xFFFF), (18, 0xFF)]), (8, [])], let s := w_cmd x.1 x.2
    Arrives s x.1 (cmdOf x.1 x.2) ∧ Cmd.reservedZero (cmdOf x.1 x.2) = true ∧ s.dev.trgT.toNat < s.dev.time.toNat ∧ find? s.ctxs ⟨0, 0⟩ = some mctx ∧ mctx.pid = 0 ∧
      mctx.saveNow = false ∧ mctx.trap.preh = false ∧ (⟨0, 0⟩, ({ ctx := base } : Saved)) ∈ s.saved ∧ base.pid = Cmd.pid (cmdOf x.1 x.2) := by
  unfold Arrives Reachable State.Inv; decide +kernel
/-- Command 8 with its only named context saved without a request. -/
theorem witness_STOP_done : (∀ y ∈ (w_run 8 false false State.reset).ctxs, y.2.pid ≠ 0) ∧ (∀ v ∈ (w_run 8 false false State.reset).saved, v.2.ctx.stopReq = false) ∧
    base.forcedSub = 0 := by decide +kernel
theorem witness_STOP_naming : naming (cmdOf 8 [(16, 0xFFFF), (18, 0xFF)]) ⟨0, 0⟩ ∧ naming (cmdOf 8 []) ⟨0, 0⟩ := by unfold naming; decide +kernel
def w_reset : State := host ((place base).setCell 0 {}) (cmdOf 10 [])
theorem witness_RESET : Arrives w_reset 10 (cmdOf 10 []) ∧ Cmd.reservedZero (cmdOf 10 []) = true ∧ w_reset.ctxs = [(⟨0, 0⟩, base)] ∧ base.pid = Cmd.pid (cmdOf 10 []) ∧
    w_reset.saved = [] ∧ w_reset.chans = [] ∧ w_reset.copies = [] := by unfold Arrives Reachable State.Inv; decide +kernel
theorem witness_RESET_rest : AtRest w_reset ⟨0, 0⟩ base := atRest_of _ _ _ (by decide +kernel)

/-! ### Fabric, power, islands, soft errors -/

def fab (a : FabricReq) (s : State) : State := { s with ev := { fab := a } }
theorem witness_FABRIC : (fab (.read (Config.hbmEnd - 8) 8) w_mem).ev.fab = .read (Config.hbmEnd - 8) 8 ∧ (fab (.write (Config.hbmEnd - 1) [7]) w_mem).Inv ∧
    (fab (.write (Config.hbmEnd - 1) [7]) w_mem).ev.fab = .write (Config.hbmEnd - 1) [7] ∧
    (let s := fab (.read (ctlBase + 0x10000 + 64 * 1023) 64) { w_mem with dev := { w_mem.dev with log := List.replicate 1024 1 } }
     s.dev.log[1023]? = some 1 ∧ s.ev.fab = .read (ctlBase + 0x10000 + 64 * 1023) 64) ∧
    (fab (.write ctlBase (List.replicate 64 0)) w_mem).ev.fab = .write ctlBase (List.replicate 64 0) ∧ Config.hbmEnd < ctlBase := by unfold State.Inv; decide +kernel
theorem witness_POWER_ON : let s := { State.reset with ev := { n := 3, m := 4 }, dev := { State.reset.dev with minVersion := 4 } }
    s.ev.n < s.dev.minVersion ∧ ¬ (s.ev.m < s.dev.minVersion) := by decide +kernel
/-- An image whose EXTL lists 0xE3 without its routine, and with it. -/
theorem witness_POWER_ON_image : ∀ p ∈ [([] : List (BitVec 8 × Nat)), [(0xE3, 0x7000)]], let b : BootImage := { extl := 8, routines := p }
    3 < 32 ∧ b.extl.getLsbD 3 = true ∧ (find? b.routines (BitVec.ofNat 8 (0xE0 + 3)) = none ↔ p = []) := by decide +kernel

/-- Island 3 and its neighbour 4 in lock group 2, above island 0; the SRAM islands of die 1 at 2400 MHz. -/
def isl (l : List (Nat × Island)) (a : EvArg) : State := { State.reset with islands := l, ev := a }
def islands : List (Nat × Island) := [(3, { group := 2, freq := 1200, target := 1300 }), (4, { group := 2, freq := 1200 }), (14, { freq := 2400 }), (15, { freq := 2400 })]
theorem unheard_isl (l : List (Nat × Island)) (a : EvArg) : Unheard (isl l a) := fun _ h => by cases h
theorem mates_isl (a : EvArg) (n : Nat) (k : Nat) : Mates (isl islands a) n k → k = n ∨ k < 12 := by unfold Mates; omega
/-- The clamp to 900 MHz and to 500 MHz, its release, the greatest frequency and the least, and a frequency out of range. -/
theorem witness_islands : let s := isl islands { n := 3, val := 2400 }
    s.ev.n < 12 ∧ (∀ k, k < 12 → (k = 3 ∨ k = 4) = ((s.island k).group = (s.island 3).group)) ∧ (s.island 14).freq = 2400 ∧ (s.island 15).freq = 2400 ∧
      12 + 2 * (3 / 3) = 14 ∧ ∀ k, k < 12 → (s.island k).clt = false ∧ (s.island k).cli = false := by decide +kernel
theorem witness_islands_mates (a : EvArg) : Mates (isl islands a) 3 4 ∧ ¬ Mates (isl islands a) 3 5 ∧ ¬ Mates (isl islands a) 3 14 :=
  ⟨Or.inr ⟨by decide, by decide, by rfl⟩, by rintro (h | ⟨-, -, h⟩); cases h; exact absurd h (by show ¬ ((isl islands {}).island 5).group = ((isl islands {}).island 3).group; decide +kernel), by unfold Mates; omega⟩
theorem witness_regroup : let s := isl islands { n := 3, flag := true, grp := 11 }
    s.ev.n < 12 ∧ s.ev.grp.toNat < 12 ∧ s.ctxs = [] ∧ (∀ k, k < 12 → k ≠ s.ev.n → (s.island k).group ≠ s.ev.grp) := by decide +kernel
/-- Island 3 leaves group 2 for the group of island 5 alone. -/
theorem witness_regroup_one : let s := isl ((5, { group := 7, freq := 2400, target := 700 }) :: islands) { n := 3, flag := true, grp := 7 }
    s.ev.n < 12 ∧ s.ev.grp.toNat < 12 ∧ s.ctxs = [] ∧ (∀ m, m < 12 → m ≠ 3 → ((s.island m).group = s.ev.grp ↔ m = 5)) ∧ (s.island 5).freq = 2400 ∧
      (s.island 5).target = 700 ∧ ∀ r, r < 2 → (s.island (12 + 2 * (3 / 3) + r)).freq = 2400 := by decide +kernel
/-- The SRAM island under islands 3 and 4; and an island with both clamps. -/
theorem witness_islands_over (a : EvArg) : Over (isl islands a) 14 3 := ⟨by decide, 3, by decide, by decide, Or.inl rfl⟩
theorem witness_islands_clamped : let i := (isl [(3, { clt := true, cli := true })] { n := 3, flag := true }).island 3
    (if (isl [(3, { clt := true, cli := true })] { n := 3, flag := true }).ev.flag then (false, i.cli) else (i.clt, false)) ≠ (false, false) := by decide +kernel
theorem witness_islands_range : (599 : BitVec 16).toNat < 600 ∧ 2400 < (2401 : BitVec 16).toNat := by decide
theorem witness_regroup_busy : let s := { place base with ev := { n := islandOf 0, flag := true } }
    (⟨0, 0⟩, base) ∈ s.ctxs ∧ islandOf 0 = s.ev.n ∧ s.ev.flag = true := by decide +kernel
theorem witness_slotTable : (2 : BitVec 4).toNat < 16 := by decide

def soft (x : Ctx) (a : EvArg) : State := { place x with ev := a }
theorem witness_SOFT_ERROR_corrected : ∀ a ∈ [({ ctx := ⟨9, 0⟩, flag := true } : EvArg), { ctx := ⟨9, 0⟩, space := .cache, n := 4096 }], let s := soft base a
    s.dev.softLimit = 0 ∧ s.resident s.ev.ctx = false ∧ (s.ev.flag = true ∨ s.ev.space = .cache) := by decide +kernel
/-- Two entries in the last neighbour queue, a load, and a store whose data has been passed. -/
def x_soft : Ctx :=
  { base with nq := #v[[], [], [], [{ val := 9 }, { val := 8 }]], loads := [{ id := 3 }], qS := [{ kind := .instr, id := 4, passed := true }] }
theorem witness_SOFT_ERROR : ∀ a ∈ [({ space := .hbm, n := Config.hbmEnd - 1 } : EvArg), { space := .scratch, n := scratchKey 0 0 }, { space := .scalar, m := 63 }, { space := .scalar, m := 0 },
      { space := .vector, m := 31, n := 63 }, { space := .file .g, m := 15 }, { space := .queue, m := 3, n := 63, grp := 1 }, { space := .loads, n := 5 }, { space := .stores }],
    let s := soft x_soft a
    s.ev.flag = false ∧ find? s.ctxs s.ev.ctx = some x_soft ∧ (x_soft.nq[3])[1]? = some { val := 8 } ∧ x_soft.loads[0]? = some { id := 3 } ∧
      (x_soft.qS.filter (·.passed))[0]? = some { kind := .instr, id := 4, passed := true } := by decide +kernel
def w_hot : State := { State.reset.setPart 0 { root := 0x100001, nextSeq := 9 } with launches := [{ seq := 8 }] }
theorem witness_THERMAL_SHUTDOWN : w_hot.parts = [(0, { root := 0x100001, nextSeq := 9 })] ∧ w_hot.ctxs = [] ∧ w_hot.saved = [] ∧ w_hot.chans = [] ∧ w_hot.copies = [] := by
  decide +kernel

/-! ### The step, encoding, memory -/

theorem reset_inv : State.reset.Inv := by unfold State.Inv; decide +kernel
theorem witness_StepKeepsMemoryForm : w_mem.Inv := by unfold State.Inv; decide +kernel
/-- ADD s2, s2, s3 stands at the program counter of a context that the agenda names, and the schedule chooses the same context. -/
def stepWord (w : Word) (a : List Act) : State :=
  { w_mem with mem := Memory.setAll pages (State.at' 0x108000 (leBytes 8 w.toNat)), agenda := a, ev := {} }
def stepLeaf (w : Word) (a : List Act) : Leaf := match translate (atFetch (stepWord w a) ⟨0, 0⟩ []) ⟨0, 0⟩ 0x1000 .fetch with | .ok l => l | .error _ => {}
theorem witness_Routes (w : Word) : Routes (stepWord w [.route ⟨0, 0⟩]) ⟨0, 0⟩ [] := Or.inl rfl
theorem witness_Routes_schedule : let s := stepWord 0x0003210206000000 []
    s.agenda = [] ∧ eagerEvent { s with fresh := s.fresh + 1 } = none ∧ nextCtx { s with fresh := s.fresh + 1 } = some ⟨0, 0⟩ := by decide +kernel
theorem witness_StepRunsDecoded : ∀ n ∈ [0x0003210206000000, 0x0003210206180000], let w : Word := BitVec.ofNat 64 n
    let s := stepWord w [.route ⟨0, 0⟩]
    let s0 := atFetch s ⟨0, 0⟩ []
    let l := stepLeaf w [.route ⟨0, 0⟩]
    let q := (useOne s0 ⟨0, 0⟩ s0.me.pid .seq .fetch s0.me.pc).cell 0
    running s = true ∧ s.resident ⟨0, 0⟩ = true ∧ routesNow s0 ⟨0, 0⟩ = true ∧ s0.me.phase ≠ .retiring ∧ s0.me.trap.emu = false ∧ outOfRange s0.me.pc 8 = false ∧
      translate s0 ⟨0, 0⟩ s0.me.pc .fetch = .ok l ∧ l.entry.cmp = 0 ∧ s0.raw l.pa 8 = leBytes 8 w.toNat ∧ s0.anyBad l.pa 8 = false ∧
      s.past = [] ∧ find? q.icache l.pa = none := by decide +kernel
theorem witness_StepRunsDecoded_word : decode 0x0003210206000000 = .ok (.add ⟨0, 2, 2, false, 3, false⟩) ∧ decode 0x0003210206180000 = .error .illegalOpcode ∧
    (match exec (.add ⟨0, 2, 2, false, 3, false⟩) (stepWord 0x0003210206000000 []) with | .next _ => true | _ => false) = true := by decide +kernel
def isNext (r : Host.Outcome State Fault Refusal) : Bool := match r with | .next _ => true | _ => false
theorem runsTo_of (s : State) (c : CtxId) (i : Instr) (h1 : isNext (exec i s) = true) (h2 : isNext (exec i (breakRecord (breakRecord s c i 0) c i 1)) = true) :
    ∃ t, RunsTo s c i t := by
  cases hu : exec i s with
  | next u =>
    cases hv : exec i (breakRecord (breakRecord s c i 0) c i 1) with
    | next v =>
      by_cases hb : (breakMatches s c i 0 || breakMatches s c i 1) = true ∧ wasRouted s u c i = true
      · exact ⟨v, u, hu, fun h => h.elim (fun h => absurd (h.symm.trans hb.1) Bool.false_ne_true) fun h => absurd (h.symm.trans hb.2) Bool.false_ne_true, fun _ _ => hv⟩
      · exact ⟨u, u, hu, fun _ => rfl, fun h g => absurd ⟨h, g⟩ hb⟩
    | fault f => simp [isNext, hv] at h2
    | refused r => simp [isNext, hv] at h2
  | fault f => simp [isNext, hu] at h1
  | refused r => simp [isNext, hu] at h1
/-- Without a breakpoint, and with breakpoint 0 at 0x1000 for slot 0. -/
def w_bp (b : Word) : State := (stepWord 0x0003210206000000 []).setCell 0 { bp := #v[b, 0] }
def add2 : Instr := .add ⟨0, 2, 2, false, 3, false⟩
theorem witness_RunsTo : (∃ t, RunsTo (w_bp 0) ⟨0, 0⟩ add2 t) ∧ ∃ t, RunsTo (w_bp 0x1001) ⟨0, 0⟩ add2 t :=
  ⟨runsTo_of _ _ _ (by decide +kernel) (by decide +kernel), runsTo_of _ _ _ (by decide +kernel) (by decide +kernel)⟩
theorem witness_RunsTo_hit : breakMatches (w_bp 0) ⟨0, 0⟩ add2 0 = false ∧ breakMatches (w_bp 0) ⟨0, 0⟩ add2 1 = false ∧
    breakMatches (w_bp 0x1001) ⟨0, 0⟩ add2 0 = true := by decide +kernel
theorem witness_RunsTo_routed : (match exec add2 (w_bp 0x1001) with | .next u => wasRouted u u ⟨0, 0⟩ add2 | _ => false) = true := by decide +kernel
theorem witness_DecodeEncode : (Instr.add ⟨0, 2, 2, false, 3, false⟩).wf = true ∧ encode (.add ⟨0, 2, 2, false, 3, false⟩) = some 0x0003210206000000 := by decide +kernel

/-! ### Single steps -/

/-- R252: 5 + (−1), the destination also a source. -/
theorem test_ADD : (match exec (.add ⟨0, 1, 1, false, 2, false⟩) w0 with | .next t => t.me.s[1].val == 4 && t.me.pc == 0x1008 | _ => false) = true := by decide +kernel
/-- R213: the word of ADD by the table's numbering of bits. -/
theorem test_decodeTableWord : decodeTableWord 64 0x0003210206000000 = some (.add ⟨0, 2, 2, false, 3, false⟩) ∧ decodeTableWord 64 0 = none := by decide +kernel
/-- A word of the register group with the first function that is not listed (R252). -/
theorem witness_register_group_unlisted : (fld (0x0003210206180000 : Word) 45 8 : BitVec 8) = 0x19 ∧
    0x18 ≤ (fld (0x0003210206180000 : Word) 16 8 : BitVec 8).toNat ∧
    decode 0x0003210206180000 = .error .illegalOpcode := by decide +kernel

/-- The first step after reset with a word placed runs it. -/
theorem test_first_step : (match step (State.reset.withFetchWord 64 0x0003210206000000) with | .next t => t.ctxs.map (·.2.pc) | _ => []) =
    ((State.reset.withFetchWord 64 0x0003210206000000).ctxs.map (·.2.pc + 8)) := by decide +kernel

end Sys2Proof.Tests
end

section
/-! SUPPORT. The scalar group of the sequencer (R252 to R256): the values of its operations as the rules write them, the rows of its tables, and the
obligations on its results. -/

namespace Sys2Proof.Proofs

open Sys2Proof Sys2Proof.Machine Sys2Proof.Claims Sys2Proof.Laws

/-! ### Values of the register group (R252) -/

theorem amount_eq_mod (b : Word) : amount b = b.toNat % 64 := by
  simp [amount, BitVec.extractLsb'_toNat]

theorem by_amount_eq (f : Word → Nat → Word) : (fun a b => f a (amount b)) = fun a b => f a (b.toNat % 64) := by
  simp only [amount_eq_mod]

theorem flag_slt (a b : Word) : flag (a.slt b) = if a.toInt < b.toInt then 1 else 0 := by
  simp [flag, BitVec.slt_eq_decide]

theorem flag_ult (a b : Word) : flag (a.ult b) = if a.toNat < b.toNat then 1 else 0 := by
  simp [flag, BitVec.ult_eq_decide]

theorem flag_beq (a b : Word) : flag (a == b) = if a = b then 1 else 0 := by
  simp [flag]

theorem ite_slt {α : Type} (a b : Word) (x y : α) : (if a.slt b then x else y) = if a.toInt < b.toInt then x else y := by
  simp [BitVec.slt_eq_decide]

theorem ite_ult {α : Type} (a b : Word) (x y : α) : (if a.ult b then x else y) = if a.toNat < b.toNat then x else y := by
  simp [BitVec.ult_eq_decide]

theorem signExtend_eq_ofInt (a : Word) : a.signExtend 128 = BitVec.ofInt 128 a.toInt := rfl

theorem mul_eq_ofNat_toNat (a b : Word) : a * b = BitVec.ofNat 64 (a.toNat * b.toNat) := rfl

/-- The high half of a 128-bit integer is its quotient by 2⁶⁴, rounded down. -/
theorem high_ofInt (p : Int) : (fld (BitVec.ofInt 128 p) 64 64 : Word) = BitVec.ofInt 64 (p / 2 ^ 64) := by
  apply BitVec.eq_of_toNat_eq
  rw [BitVec.extractLsb'_toNat, BitVec.toNat_ofInt, BitVec.toNat_ofInt, Nat.shiftRight_eq_div_pow]
  push_cast
  omega

theorem mulHigh_eq (a b : Word) : mulHigh a b = BitVec.ofInt 64 (a.toInt * b.toInt / 2 ^ 64) := by
  rw [mulHigh, signExtend_eq_ofInt, signExtend_eq_ofInt, ← BitVec.ofInt_mul, high_ofInt]

theorem mulHighU_eq (a b : Word) : mulHighU a b = BitVec.ofNat 64 (a.toNat * b.toNat / 2 ^ 64) := by
  have h : (BitVec.ofNat 128 (a.toNat * b.toNat)).toNat = a.toNat * b.toNat :=
    Nat.mod_eq_of_lt (show _ < 2 ^ 64 * 2 ^ 64 from Nat.mul_lt_mul'' a.isLt b.isLt)
  apply BitVec.eq_of_toNat_eq
  rw [mulHighU, ← BitVec.ofNat_toNat, ← BitVec.ofNat_toNat, ← BitVec.ofNat_mul, BitVec.extractLsb'_toNat, h,
    Nat.shiftRight_eq_div_pow, BitVec.toNat_ofNat]

theorem sdiv_eq_tdiv (a b : Word) : a.sdiv b = BitVec.ofInt 64 (a.toInt.tdiv b.toInt) :=
  BitVec.eq_of_toInt_eq ((BitVec.toInt_sdiv a b).trans (BitVec.toInt_ofInt _).symm)

theorem srem_eq_tmod (a b : Word) : a.srem b = BitVec.ofInt 64 (a.toInt.tmod b.toInt) := by
  rw [← BitVec.toInt_srem, BitVec.ofInt_toInt]

theorem divS_eq (a b : Word) : divS a b = if b = 0 then -1 else BitVec.ofInt 64 (a.toInt.tdiv b.toInt) := by
  rw [divS, sdiv_eq_tdiv]

theorem divU_eq (a b : Word) : divU a b = if b = 0 then -1 else BitVec.ofNat 64 (a.toNat / b.toNat) := by
  rw [divU, BitVec.udiv_def]

theorem remS_eq (a b : Word) : remS a b = if b = 0 then a else BitVec.ofInt 64 (a.toInt.tmod b.toInt) := by
  rw [remS, srem_eq_tmod]

theorem remU_eq (a b : Word) : remU a b = if b = 0 then a else BitVec.ofNat 64 (a.toNat % b.toNat) := by
  rw [remU, BitVec.umod_def]

/-! ### Values of MOVHI, the unary group and MOVLC (R254, R255) -/

theorem fld_zero_eq_setWidth (a : Word) {n : Nat} (h : n ≤ 64) : fld a 0 n = a.setWidth n :=
  (BitVec.setWidth_eq_extractLsb' h).symm

theorem sx_fld (a : Word) {n : Nat} (h : n ≤ 64) : sx (fld a 0 n) = (a.setWidth n).signExtend 64 := by
  rw [fld_zero_eq_setWidth a h]

/-- The low `n` bits of a word, zero-extended, as a mask selects them. -/
theorem zx_fld (a : Word) {n : Nat} (h : n ≤ 64) : zx (fld a 0 n) = a &&& BitVec.ofNat 64 (2 ^ n - 1) := by
  have hlow : 2 ^ n - 1 < 2 ^ 64 :=
    Nat.lt_of_lt_of_le (Nat.sub_lt (Nat.two_pow_pos n) Nat.one_pos) (Nat.pow_le_pow_right (by decide) h)
  have hmod : a.toNat % 2 ^ n < 2 ^ 64 := Nat.lt_of_le_of_lt (Nat.mod_le _ _) a.isLt
  apply BitVec.eq_of_toNat_eq
  rw [fld_zero_eq_setWidth a h, BitVec.toNat_setWidth, BitVec.toNat_setWidth, BitVec.toNat_and, BitVec.toNat_ofNat, Nat.mod_eq_of_lt hlow,
    Nat.and_two_pow_sub_one_eq_mod, Nat.mod_eq_of_lt hmod]

/-- MOVHI replaces the high half and keeps the low one. -/
theorem append_low_half (imm : BitVec 32) (a : Word) :
    (imm ++ (fld a 0 32 : BitVec 32) : Word) = (imm.setWidth 64 <<< 32) ||| (a &&& 0xFFFFFFFF) := by
  have hlow : a &&& 0xFFFFFFFF = zx (fld a 0 32) := (zx_fld a (n := 32) (by decide)).symm
  rw [hlow]
  apply BitVec.eq_of_getLsbD_eq
  intro i hi
  rw [BitVec.getLsbD_append]
  by_cases hi32 : i < 32
  · simp [hi, hi32]
  · simp [hi, hi32]

/-- The zero bits that `leadZeros` counts are the longest run from bit `n - 1` down. -/
theorem leadZeros_eq (w : Word) (n : Nat) :
    leadZeros w n = (((List.range n).map fun i => w.getLsbD (n - 1 - i)).takeWhile (!·)).length := by
  induction n with
  | zero => rfl
  | succ n ih =>
    have hshift : (fun i => w.getLsbD (n + 1 - 1 - i)) ∘ Nat.succ = fun i => w.getLsbD (n - 1 - i) := by
      funext i; simp [Nat.sub_sub, Nat.add_comm]
    rw [leadZeros, List.range_succ_eq_map, List.map_cons, List.map_map, hshift, List.takeWhile_cons]
    cases hb : w.getLsbD n <;> simp [hb, ih]

/-- The zero bits that `trailZeros` counts are the longest run from bit `64 - n` up. -/
theorem trailZeros_eq (w : Word) {n : Nat} (h : n ≤ 64) :
    trailZeros w n = (((List.range n).map fun i => w.getLsbD (64 - n + i)).takeWhile (!·)).length := by
  induction n with
  | zero => rfl
  | succ n ih =>
    have hfirst : 64 - (n + 1) = 63 - n := by omega
    have hshift : (fun i => w.getLsbD (63 - n + i)) ∘ Nat.succ = fun i => w.getLsbD (64 - n + i) := by
      funext i
      show w.getLsbD (63 - n + (i + 1)) = _
      congr 1; omega
    rw [trailZeros, hfirst, List.range_succ_eq_map, List.map_cons, List.map_map, hshift, List.takeWhile_cons]
    cases hb : w.getLsbD (63 - n) <;> simp [ih (by omega)]

theorem ones_eq (w : Word) (n : Nat) : ones w n = ((List.range n).map fun i => w.getLsbD i).count true := by
  induction n with
  | zero => rfl
  | succ n ih =>
    rw [ones, ih, List.range_succ, List.map_append, List.count_append]
    cases hb : w.getLsbD n <;> simp [hb]

theorem leadZeros_word (w : Word) :
    BitVec.ofNat 64 (leadZeros w 64) = BitVec.ofNat 64 (((List.range 64).map fun n => w.getLsbD (63 - n)).takeWhile (!·)).length := by
  rw [leadZeros_eq]

theorem trailZeros_word (w : Word) :
    BitVec.ofNat 64 (trailZeros w 64) = BitVec.ofNat 64 (((List.range 64).map fun n => w.getLsbD n).takeWhile (!·)).length := by
  rw [trailZeros_eq w (Nat.le_refl 64)]
  simp only [Nat.sub_self, Nat.zero_add]

theorem ones_word (w : Word) : BitVec.ofNat 64 (ones w 64) = BitVec.ofNat 64 (((List.range 64).map fun n => w.getLsbD n).count true) := by
  rw [ones_eq]

/-- The field of MOVLC names the loop counter (R23). -/
theorem counterField_toNat (n : Fin 6) : (BitVec.ofNat 3 n.val).toNat = n.val :=
  Nat.mod_eq_of_lt (Nat.lt_trans n.isLt (by decide))

theorem readLc_ofNat (c : Ctx) (n : Fin 6) : readLc c (BitVec.ofNat 3 n.val) = c.lc[n] := by
  rw [readLc, counterField_toNat]
  simp

/-! ### How the rows of the tables run -/

/-- The instructions `p.1` execute as the form `run` with the operation `p.2`. -/
def RunsBy {ω φ : Type} (run : ω → φ → State → Res) (p : (ω → Instr) × φ) : Prop :=
  ∀ o s, exec (p.1 o) s = finish s (p.1 o) (run o p.2 s)

/-- A row runs as its rule says when the model's operation `f` for it is the operation `g` of the rule. -/
theorem runsBy_of_eq {ω φ : Type} {run : ω → φ → State → Res} {i : ω → Instr} {f g : φ} (e : f = g) (h : RunsBy run (i, f)) :
    RunsBy run (i, g) := e ▸ h

/-- R252. -/
theorem registerOps_run : ∀ p ∈ registerOps, RunsBy binOp p := by
  simp only [registerOps, List.forall_mem_cons, List.not_mem_nil, false_imp_iff, implies_true, and_true]
  exact ⟨fun _ _ => rfl, fun _ _ => rfl, fun _ _ => rfl, fun _ _ => rfl, fun _ _ => rfl, fun _ _ => rfl,
    runsBy_of_eq (by_amount_eq fun a n => a <<< n) fun _ _ => rfl,
    runsBy_of_eq (by_amount_eq fun a n => a >>> n) fun _ _ => rfl,
    runsBy_of_eq (by_amount_eq BitVec.sshiftRight) fun _ _ => rfl,
    runsBy_of_eq (by_amount_eq BitVec.rotateLeft) fun _ _ => rfl,
    runsBy_of_eq (funext₂ flag_slt) fun _ _ => rfl,
    runsBy_of_eq (funext₂ flag_ult) fun _ _ => rfl,
    runsBy_of_eq (funext₂ flag_beq) fun _ _ => rfl,
    runsBy_of_eq (funext₂ fun a b => ite_slt a b a b) fun _ _ => rfl,
    runsBy_of_eq (funext₂ fun a b => ite_slt a b b a) fun _ _ => rfl,
    runsBy_of_eq (funext₂ fun a b => ite_ult a b a b) fun _ _ => rfl,
    runsBy_of_eq (funext₂ fun a b => ite_ult a b b a) fun _ _ => rfl,
    runsBy_of_eq (funext₂ mul_eq_ofNat_toNat) fun _ _ => rfl,
    runsBy_of_eq (funext₂ mulHigh_eq) fun _ _ => rfl,
    runsBy_of_eq (funext₂ mulHighU_eq) fun _ _ => rfl,
    runsBy_of_eq (funext₂ divS_eq) fun _ _ => rfl,
    runsBy_of_eq (funext₂ divU_eq) fun _ _ => rfl,
    runsBy_of_eq (funext₂ remS_eq) fun _ _ => rfl,
    runsBy_of_eq (funext₂ remU_eq) fun _ _ => rfl⟩

/-- R253. -/
theorem immediateOps_run : ∀ p ∈ immediateOps, RunsBy immOp p := by
  simp only [immediateOps, List.forall_mem_cons, List.not_mem_nil, false_imp_iff, implies_true, and_true]
  exact ⟨fun _ _ => rfl, fun _ _ => rfl, fun _ _ => rfl, fun _ _ => rfl,
    runsBy_of_eq (funext₂ flag_slt) fun _ _ => rfl,
    runsBy_of_eq (funext₂ flag_ult) fun _ _ => rfl⟩

/-- R254. -/
theorem shiftOps_run : ∀ p ∈ shiftOps, RunsBy shiftOp p := by
  simp only [shiftOps, List.forall_mem_cons, List.not_mem_nil, false_imp_iff, implies_true, and_true]
  exact ⟨fun _ _ => rfl, fun _ _ => rfl, fun _ _ => rfl, fun _ _ => rfl⟩

/-- R255. -/
theorem unaryOps_run : ∀ p ∈ unaryOps, RunsBy unOp p := by
  simp only [unaryOps, List.forall_mem_cons, List.not_mem_nil, false_imp_iff, implies_true, and_true]
  exact ⟨runsBy_of_eq (funext leadZeros_word) fun _ _ => rfl,
    runsBy_of_eq (funext trailZeros_word) fun _ _ => rfl,
    runsBy_of_eq (funext ones_word) fun _ _ => rfl,
    runsBy_of_eq (funext fun a => sx_fld a (n := 8) (by decide)) fun _ _ => rfl,
    runsBy_of_eq (funext fun a => sx_fld a (n := 16) (by decide)) fun _ _ => rfl,
    runsBy_of_eq (funext fun a => sx_fld a (n := 32) (by decide)) fun _ _ => rfl,
    runsBy_of_eq (funext fun a => zx_fld a (n := 8) (by decide)) fun _ _ => rfl,
    runsBy_of_eq (funext fun a => zx_fld a (n := 16) (by decide)) fun _ _ => rfl,
    runsBy_of_eq (funext fun a => zx_fld a (n := 32) (by decide)) fun _ _ => rfl⟩

/-! ### What a scalar operation leaves -/

/-- An instruction that is a scalar operation, on a present clock and with sources it may read, writes its result and goes on. -/
theorem goes_of_scalarOp {s : State} {i : Instr} {k : Tag} {d : BitVec 6} {src : List (BitVec 6 × Bool)} {f : List Word → Word} {c : Ctx}
    (hrun : exec i s = finish s i (scalarOp s k d src f)) (hclk : Present s k c) (hsrc : ∀ x ∈ src, ReadableS c k x.1) (hd : FreeS c d) :
    Goes s i s (writeS (killS c src) d (f (src.map fun x => readS s c x.1)) k c.handler) :=
  ⟨_, hrun.trans (finish_scalarOp hclk.1 hclk.2 hsrc hd), rfl, fun _ => rfl⟩

theorem movlc_goes {s : State} {k : Tag} {c : Ctx} (d : BitVec 6) (n : Fin 6) (hclk : Present s k c) (hd : FreeS c d)
    (hbad : c.badRegs.contains (.lc, n.val) = false) :
    Goes s (.movlc k d (BitVec.ofNat 3 n.val)) s (writeS c d c.lc[n] k c.handler) := by
  have hclean : (RegFile.lc, n.val) ∉ c.badRegs := by simpa using hbad
  have hrun : exec (.movlc k d (BitVec.ofNat 3 n.val)) s = .next (goOn s (writeS c d c.lc[n] k c.handler)) := by
    show execMovlc k d (BitVec.ofNat 3 n.val) s = _
    rw [execMovlc, onClock_ok (t := s.setMe (writeS c d c.lc[n] k c.handler)) hclk.1 hclk.2, finish_advance]
    · rfl
    · simp [checkDest_ok hd, counterField_toNat, hclean, readLc_ofNat, setS, -BitVec.toNat_ofNat]
  exact ⟨_, hrun, rfl, fun _ => rfl⟩

/-! ### The families of instructions -/

/-- R252. -/
theorem scalarRegisterGroup : ScalarRegisterGroup := by
  intro p hp o s c hclk ha hb hd
  exact goes_of_scalarOp (registerOps_run p hp o s) hclk (List.forall_mem_cons.2 ⟨ha, List.forall_mem_singleton.2 hb⟩) hd

/-- R253, R254. -/
theorem scalarImmediates : ScalarImmediates := by
  refine ⟨fun p hp o s c hclk ha hd => ?imm, fun p hp o s c hclk ha hd => ?shift, fun k d imm s c hclk ha hd => ?movhi⟩
  case imm => exact goes_of_scalarOp (immediateOps_run p hp o s) hclk (List.forall_mem_singleton.2 ha) hd
  case shift => exact goes_of_scalarOp (shiftOps_run p hp o s) hclk (List.forall_mem_singleton.2 ha) hd
  case movhi =>
    have h := goes_of_scalarOp (i := .movhi k d imm) rfl hclk (List.forall_mem_singleton.2 ha) hd
    rwa [killS_unmarked, killS_nil, append_low_half] at h

/-- R255, R256. -/
theorem scalarUnaryAndSelect : ScalarUnaryAndSelect := by
  refine ⟨fun p hp o s c hclk ha hd => ?unary, fun k d n s c hclk hd hbad => ?movlc, fun n o s c _ hclk ha hb hd => ?shadd,
    fun q o s c hclk ha hb hq hd => ?sel⟩
  case unary => exact goes_of_scalarOp (unaryOps_run p hp o s) hclk (List.forall_mem_singleton.2 ha) hd
  case movlc => exact movlc_goes d n hclk hd hbad
  case shadd =>
    exact goes_of_scalarOp (i := .shadd n o) rfl hclk (List.forall_mem_cons.2 ⟨ha, List.forall_mem_singleton.2 hb⟩) hd
  case sel =>
    have hkill : killS c [(o.a, o.ua), (o.b, o.ub), (q, false)] = killS c [(o.a, o.ua), (o.b, o.ub)] :=
      killS_append_unmarked c q [(o.a, o.ua), (o.b, o.ub)]
    have h := goes_of_scalarOp (i := .sel q o) rfl hclk
      (List.forall_mem_cons.2 ⟨ha, List.forall_mem_cons.2 ⟨hb, List.forall_mem_singleton.2 hq⟩⟩) hd
    rwa [hkill] at h

/-! ### The functions that are not listed (R252) -/

theorem scalarGroup_unlisted {w : Word} (h : 0x18 ≤ (Decode.fnAL w).toNat) : Decode.scalarGroup w = none := by
  obtain ⟨n, hn⟩ := Nat.exists_eq_add_of_le' h
  simp [Decode.scalarGroup, hn]

theorem candidate_registerGroup {w : Word} (h : (fld w 45 8 : BitVec 8) = 0x19) : Decode.candidate w = Decode.scalarGroup w := by
  simp [Decode.candidate, h, Decode.seqCand]

theorem not_isLong_registerGroup {w : Word} (h : (fld w 45 8 : BitVec 8) = 0x19) : Decode.isLong w = false := by
  simp [Decode.isLong, h]

theorem decode_unlisted {w : Word} (hop : (fld w 45 8 : BitVec 8) = 0x19) (hfn : 0x18 ≤ (fld w 16 8 : BitVec 8).toNat) :
    decode w = .error .illegalOpcode := by
  have hcand : Decode.candidate w = none := (candidate_registerGroup hop).trans (scalarGroup_unlisted hfn)
  simp [decode, hop, not_isLong_registerGroup hop, hcand]

/-! ### The obligations -/

/-- Settles O7: each form is a scalar operation whose value is the one its rule gives, and MOVLC writes the counter. -/
theorem scalarInstructions : Obligations.ScalarInstructions := ⟨scalarImmediates, scalarUnaryAndSelect⟩

/-- Settles O60: the table row by row, the decoder at opcode 0x19, and the word of R252's example. -/
theorem registerGroup : Obligations.RegisterGroup :=
  ⟨scalarRegisterGroup, fun _ => decode_unlisted, by decide⟩

end Sys2Proof.Proofs
end
